-- ==== Sys2Proof/Word.lean ====
section
/-! DEFINITION. The word types of the Kileo KLF960 and the small data types that instruction fields, parties and
messages are made of (01_thread_state.md R14, 02_instruction_formats.md R46-R54, 15_package_memory_model.md R383-R384).
Only types stand here: the operations over them are in Sys2Proof/Machine. -/
namespace Sys2Proof

/-- A 32-bit slot, register-space word or instruction word (R14, R46). -/
abbrev Word := BitVec 32

/-- A 64-bit value: a slot pair, an h register or a 64-bit special register (R21, R69). -/
abbrev DWord := BitVec 64

/-- A 60-bit virtual address (R46, R148). -/
abbrev VAddr := BitVec 60

/-- The name of a predicate or a guard: 0 is p0, which reads as true; 1-3 are p1-p3 (R25, R26). -/
abbrev PredIx := BitVec 2

/-- A table from keys to values, one entry a key. A key that is not listed reads as its table's default. -/
abbrev Table (κ α : Type) := List (κ × α)

/-- A destination field d: class bit and index (R50). -/
structure Dest where
  cls : Bool
  ix : BitVec 5
  deriving DecidableEq, Repr

/-- A source field a or b: class, pop bit and index (R51). -/
structure Src where
  cls : Bool
  pop : Bool
  ix : BitVec 5
  deriving DecidableEq, Repr

/-- The third source field c of format F: class and index (R51). -/
structure Src3 where
  cls : Bool
  ix : BitVec 5
  deriving DecidableEq, Repr

/-- The integer condition codes 0-11 of CMP, CMP64 and CMPI (R119). -/
inductive Cond
  | eq | ne | lt | le | gt | ge | lo | ls | hi | hs | tst | ntst
  deriving DecidableEq, Repr

/-- The condition codes 0-11 of FCMP (R136). -/
inductive FCond
  | eq | ne | lt | le | gt | ge | ord | uno | ult | ule | ugt | uge
  deriving DecidableEq, Repr

/-- The class codes 0-11 of FCLASS (R137). -/
inductive FClass
  | nan | snan | qnan | inf | zero | sub | norm | fin | neg | pinf | ninf | nzero
  deriving DecidableEq, Repr

/-- The float format codes 0-4 of major 0x15 (R142). -/
inductive FFmt
  | f16 | f32 | f64 | fk8a | fk8b
  deriving DecidableEq, Repr

/-- The integer format codes 0-7 of major 0x15 (R142). -/
inductive IFmt
  | i32 | n32 | i64 | n64 | i16 | n16 | i8 | n8
  deriving DecidableEq, Repr

/-- The forms of LD (R151). -/
inductive LdFmt
  | n8 | i8 | n16 | i16 | n32 | n64
  deriving DecidableEq, Repr

/-- The forms of ST (R151). -/
inductive StFmt
  | n8 | n16 | n32 | n64
  deriving DecidableEq, Repr

/-- The format codes 0-13 that LDT and STT accept (R98). -/
inductive TFmt
  | n8 | i8 | n16 | i16 | n32 | n64 | f16 | f32 | f64 | fk8a | fk8b | fk8ax2 | fk8bx2 | i8x2
  deriving DecidableEq, Repr

/-- The forms of LDS: plain, wait full, wait full and empty (R254). -/
inductive LdsForm
  | plain | ff | fe
  deriving DecidableEq, Repr

/-- The forms of STS: plain, wait empty and fill, fill (R254). -/
inductive StsForm
  | plain | ef | xf
  deriving DecidableEq, Repr

/-- The word counts of LDM and STM (R157). -/
inductive MultiN
  | w2 | w4 | w8 | w16
  deriving DecidableEq, Repr

/-- The levels of PREF (R157). -/
inductive PrefLevel
  | l1 | l2 | near
  deriving DecidableEq, Repr

/-- The atomic functions (R64). -/
inductive AtomFn
  | swp | cas | add | and | or | xor | min | max | minN | maxN | fadd | inc | dec
  deriving DecidableEq, Repr

/-- The scopes (R58, R394). -/
inductive Scope
  | group | die | package | system
  deriving DecidableEq, Repr

/-- The modes of CBDEC with their code pair J (R146). -/
inductive CbMode
  | bs
  | f16x2 (j : BitVec 2)
  | f32x2 (j : BitVec 2)
  deriving DecidableEq, Repr

/-- A party that issues instructions: a compute gang named by its team, group and lowest quad (R186); a helper gang
named by its core and physical quad (R208); the headland of a team; a service thread (R428). -/
inductive Party
  | gang (tk gid quad : Nat)
  | helper (core quad : Nat)
  | headland (tk : Nat)
  | service (n : Nat)
  deriving DecidableEq, Repr

/-- The four kinds of instruction stream (R67). -/
inductive Stream
  | compute | helper | headland | service
  deriving DecidableEq, Repr

/-- One thread, by the stream it belongs to: a compute thread by team and tid, a helper by core and helper frame, the
headland of a team, a service thread by its hardware number. -/
inductive ThreadRef
  | compute (tk tid : Nat)
  | helper (core frame : Nat)
  | headland (tk : Nat)
  | service (n : Nat)
  deriving DecidableEq, Repr

/-- Who sends a request: the bits of its owner word, and the number of the request in the messages between packages (R385,
R448). -/
structure Sender where
  owner : Nat
  req : Nat
  deriving DecidableEq, Repr

/-- How a write registers its word: strong or data, of the whole word or less (R389). -/
structure WriteMode where
  strong : Bool
  full : Bool
  deriving DecidableEq, Repr

/-- What a message of the class FWD asks of an owner (R389, R391, R448). -/
inductive FwdKind
  | forward | recall | revoke
  deriving DecidableEq, Repr

/-- The owner gives its copy up. -/
def FwdKind.takes (k : FwdKind) : Bool := decide (k ≠ .forward)

/-- The words of its line that a forward names, what it asks for, and the package and the number of the read that waits for
the answer, where it comes from another package (R389, R391, R448). -/
structure Named where
  mask : Nat
  kind : FwdKind
  asks : Option (Nat × Nat) := none
  deriving DecidableEq, Repr

/-- Words with their data, the number of the request that they answer, the package that sends them, and the state codes (R387)
of those that their home does not give in V (R391, R448). -/
structure Answer where
  req : Nat
  words : List (Nat × Word)
  sender : Nat
  states : List (Nat × BitVec 2) := []
  deriving DecidableEq, Repr

/-- An error reply: the address concerned, and the cause with its AUX (R404, R451). -/
structure ErrorReply where
  pa : Nat
  cause : BitVec 8
  aux : BitVec 24
  deriving DecidableEq, Repr

end Sys2Proof
end

