-- ==== Sys2Proof/Syntax.lean ====
section
/-! DEFINITION. The instructions and steps of the KLF960: one constructor for each row of spec/opcode_table.json, the
226 rows that are instruction words first (operand fields as the formats of R48 give them), then the 88 rows that are
steps of an agent other than an instruction's issue. The argument of a word instruction is named as its field in the
table. -/
namespace Sys2Proof

/-- One constructor per row of the opcode table. -/
inductive Instr
  /-- ADD (R112). Adds two 32-bit sources with wrap. -/
  | add (d : Dest) (a b : Src) (g : PredIx)
  /-- ADDC (R112). Returns the carry out of the unsigned 32-bit sum as 0 or 1. -/
  | addc (d : Dest) (a b : Src) (g : PredIx)
  /-- SUB (R112). Subtracts two 32-bit sources with wrap. -/
  | sub (d : Dest) (a b : Src) (g : PredIx)
  /-- SUBB (R112). Returns the borrow of the unsigned 32-bit difference as 0 or 1. -/
  | subb (d : Dest) (a b : Src) (g : PredIx)
  /-- NEG (R112). Negates a 32-bit signed source with wrap. -/
  | neg (d : Dest) (a : Src) (g : PredIx)
  /-- ABS (R112). Absolute value of a 32-bit signed source with wrap. -/
  | abs (d : Dest) (a : Src) (g : PredIx)
  /-- MIN (R112). Signed 32-bit minimum. -/
  | min (d : Dest) (a b : Src) (g : PredIx)
  /-- MIN_N (R112). Unsigned 32-bit minimum. -/
  | minN (d : Dest) (a b : Src) (g : PredIx)
  /-- MAX (R112). Signed 32-bit maximum. -/
  | max (d : Dest) (a b : Src) (g : PredIx)
  /-- MAX_N (R112). Unsigned 32-bit maximum. -/
  | maxN (d : Dest) (a b : Src) (g : PredIx)
  /-- ADDSAT (R112). Signed saturating 32-bit add, setting SAT when clamped. -/
  | addsat (d : Dest) (a b : Src) (g : PredIx)
  /-- ADDSAT_N (R112). Unsigned saturating 32-bit add, setting SAT when clamped. -/
  | addsatN (d : Dest) (a b : Src) (g : PredIx)
  /-- SUBSAT (R112). Signed saturating 32-bit subtract, setting SAT when clamped. -/
  | subsat (d : Dest) (a b : Src) (g : PredIx)
  /-- SUBSAT_N (R112). Unsigned saturating 32-bit subtract, setting SAT when clamped. -/
  | subsatN (d : Dest) (a b : Src) (g : PredIx)
  /-- AND (R113). Bitwise AND. -/
  | and (d : Dest) (a b : Src) (g : PredIx)
  /-- OR (R113). Bitwise OR. -/
  | or (d : Dest) (a b : Src) (g : PredIx)
  /-- XOR (R113). Bitwise XOR. -/
  | xor (d : Dest) (a b : Src) (g : PredIx)
  /-- NOT (R113). Bitwise NOT. -/
  | not (d : Dest) (a : Src) (g : PredIx)
  /-- ANDN (R113). a AND NOT b. -/
  | andn (d : Dest) (a b : Src) (g : PredIx)
  /-- SEL (R114). Selects a or b per lane by the predicate in g, in every lane of the mask. -/
  | sel (d : Dest) (a b : Src) (g : PredIx)
  /-- MOV (R113). Copies a 32-bit source. -/
  | mov (d : Dest) (a : Src) (g : PredIx)
  /-- SHL (R115). Shift left by the full 32-bit count. -/
  | shl (d : Dest) (a b : Src) (g : PredIx)
  /-- SHR (R115). Logical shift right. -/
  | shr (d : Dest) (a b : Src) (g : PredIx)
  /-- SAR (R115). Arithmetic shift right. -/
  | sar (d : Dest) (a b : Src) (g : PredIx)
  /-- ROT (R115). Rotate left by count mod 32. -/
  | rot (d : Dest) (a b : Src) (g : PredIx)
  /-- FSHF (R115). Funnel shift of a 64-bit pair, keeping 32 bits. -/
  | fshf (d : Dest) (a b : Src) (g : PredIx)
  /-- BFX (R116). Signed bit-field extract. -/
  | bfx (d : Dest) (a b : Src) (g : PredIx)
  /-- BFX_N (R116). Unsigned bit-field extract. -/
  | bfxN (d : Dest) (a b : Src) (g : PredIx)
  /-- BFI (R116). Bit-field insert into the old destination. -/
  | bfi (d : Dest) (a b : Src) (g : PredIx)
  /-- BREV (R115). Bit reverse. -/
  | brev (d : Dest) (a : Src) (g : PredIx)
  /-- POPC (R115). Population count. -/
  | popc (d : Dest) (a : Src) (g : PredIx)
  /-- CLZ (R115). Count leading zeros. -/
  | clz (d : Dest) (a : Src) (g : PredIx)
  /-- CTZ (R115). Count trailing zeros. -/
  | ctz (d : Dest) (a : Src) (g : PredIx)
  /-- BYTEP (R117). Byte permute under selector nibbles. -/
  | bytep (d : Dest) (a b : Src) (g : PredIx)
  /-- MUL (R118). Low 32 bits of the product. -/
  | mul (d : Dest) (a b : Src) (g : PredIx)
  /-- MULH (R118). High 32 bits of the signed product. -/
  | mulh (d : Dest) (a b : Src) (g : PredIx)
  /-- MULH_N (R118). High 32 bits of the unsigned product. -/
  | mulhN (d : Dest) (a b : Src) (g : PredIx)
  /-- MULW (R118). Signed 64-bit product into a pair. -/
  | mulw (d : Dest) (a b : Src) (g : PredIx)
  /-- MULW_N (R118). Unsigned 64-bit product into a pair. -/
  | mulwN (d : Dest) (a b : Src) (g : PredIx)
  /-- DIV (R118). Signed quotient, trap-free. -/
  | div (d : Dest) (a b : Src) (g : PredIx)
  /-- DIV_N (R118). Unsigned quotient, trap-free. -/
  | divN (d : Dest) (a b : Src) (g : PredIx)
  /-- REM (R118). Signed remainder, trap-free. -/
  | rem (d : Dest) (a b : Src) (g : PredIx)
  /-- REM_N (R118). Unsigned remainder, trap-free. -/
  | remN (d : Dest) (a b : Src) (g : PredIx)
  /-- SAD (R118). Sum of absolute byte differences. -/
  | sad (d : Dest) (a b : Src) (g : PredIx)
  /-- CMP (R119). 32-bit compare writing a predicate. -/
  | cmp (k : Cond) (p : PredIx) (a b : Src) (g : PredIx)
  /-- CMP64 (R119). 64-bit compare writing a predicate. -/
  | cmp64 (k : Cond) (p : PredIx) (a b : Src) (g : PredIx)
  /-- PAND (R120). Predicate AND. -/
  | pand (p q r g : PredIx)
  /-- POR (R120). Predicate OR. -/
  | por (p q r g : PredIx)
  /-- PXOR (R120). Predicate XOR. -/
  | pxor (p q r g : PredIx)
  /-- PNOT (R120). Predicate NOT. -/
  | pnot (p q g : PredIx)
  /-- ADD64 (R121). 64-bit add with wrap. -/
  | add64 (d : Dest) (a b : Src) (g : PredIx)
  /-- SUB64 (R121). 64-bit subtract with wrap. -/
  | sub64 (d : Dest) (a b : Src) (g : PredIx)
  /-- MUL64 (R121). 64-bit multiply with wrap. -/
  | mul64 (d : Dest) (a b : Src) (g : PredIx)
  /-- SHL64 (R121). 64-bit shift left. -/
  | shl64 (d : Dest) (a b : Src) (g : PredIx)
  /-- SHR64 (R121). 64-bit logical shift right. -/
  | shr64 (d : Dest) (a b : Src) (g : PredIx)
  /-- SAR64 (R121). 64-bit arithmetic shift right. -/
  | sar64 (d : Dest) (a b : Src) (g : PredIx)
  /-- LEA (R121). Adds a signed 32-bit offset to a 64-bit base. -/
  | lea (d : Dest) (a b : Src) (g : PredIx)
  /-- PADD_I16X2 (R123). Packed i16 add per element. -/
  | paddI16x2 (d : Dest) (a b : Src) (g : PredIx)
  /-- PSUB_I16X2 (R123). Packed i16 subtract per element. -/
  | psubI16x2 (d : Dest) (a b : Src) (g : PredIx)
  /-- PMIN_I16X2 (R123). Packed i16 signed minimum. -/
  | pminI16x2 (d : Dest) (a b : Src) (g : PredIx)
  /-- PMAX_I16X2 (R123). Packed i16 signed maximum. -/
  | pmaxI16x2 (d : Dest) (a b : Src) (g : PredIx)
  /-- PADD_I8X4 (R123). Packed i8 add per element. -/
  | paddI8x4 (d : Dest) (a b : Src) (g : PredIx)
  /-- PSUB_I8X4 (R123). Packed i8 subtract per element. -/
  | psubI8x4 (d : Dest) (a b : Src) (g : PredIx)
  /-- PMIN_I8X4 (R123). Packed i8 signed minimum. -/
  | pminI8x4 (d : Dest) (a b : Src) (g : PredIx)
  /-- PMAX_I8X4 (R123). Packed i8 signed maximum. -/
  | pmaxI8x4 (d : Dest) (a b : Src) (g : PredIx)
  /-- ADDI (R124). Adds a sign-extended immediate. -/
  | addi (d : Dest) (a : Src) (i : BitVec 9) (g : PredIx)
  /-- ANDI (R124). ANDs with an immediate. -/
  | andi (d : Dest) (a : Src) (i : BitVec 9) (g : PredIx)
  /-- ORI (R124). ORs with an immediate. -/
  | ori (d : Dest) (a : Src) (i : BitVec 9) (g : PredIx)
  /-- XORI (R124). XORs with an immediate. -/
  | xori (d : Dest) (a : Src) (i : BitVec 9) (g : PredIx)
  /-- SHLI (R124). Shift left by an immediate count. -/
  | shli (d : Dest) (a : Src) (i : BitVec 9) (g : PredIx)
  /-- SHRI (R124). Logical shift right by an immediate count. -/
  | shri (d : Dest) (a : Src) (i : BitVec 9) (g : PredIx)
  /-- SARI (R124). Arithmetic shift right by an immediate count. -/
  | sari (d : Dest) (a : Src) (i : BitVec 9) (g : PredIx)
  /-- CMPI (R124). Compare with an immediate, writing a predicate. -/
  | cmpi (k : Cond) (p : PredIx) (a : Src) (i : BitVec 9) (g : PredIx)
  /-- MOVI (R126). Writes bits [31:0] of the immediate. -/
  | movi (d : Dest) (i : BitVec 11) (g : PredIx)
  /-- LEAI (R126). Writes pc plus the immediate to a pair. -/
  | leai (d : Dest) (i : BitVec 11) (g : PredIx)
  /-- MAD (R127). 32-bit multiply-add with wrap. -/
  | mad (d : Dest) (a b : Src) (c : Src3)
  /-- MADW (R127). Signed 32x32 product plus 64-bit addend. -/
  | madw (d : Dest) (a b : Src) (c : Src3)
  /-- MADW_N (R127). Unsigned 32x32 product plus 64-bit addend, selected by PFX UNS. -/
  | madwN (d : Dest) (a b : Src) (c : Src3)
  /-- DP4A (R127). Signed four-byte dot product plus accumulator. -/
  | dp4a (d : Dest) (a b : Src) (c : Src3)
  /-- DP4A_N (R127). Unsigned four-byte dot product plus accumulator, selected by PFX UNS. -/
  | dp4aN (d : Dest) (a b : Src) (c : Src3)
  /-- FADD (R131). f32 add, rounded once. -/
  | fadd (d : Dest) (a b : Src) (g : PredIx)
  /-- FSUB (R131). f32 subtract. -/
  | fsub (d : Dest) (a b : Src) (g : PredIx)
  /-- FMUL (R131). f32 multiply. -/
  | fmul (d : Dest) (a b : Src) (g : PredIx)
  /-- FMIN (R132). f32 minimumNumber. -/
  | fmin (d : Dest) (a b : Src) (g : PredIx)
  /-- FMAX (R132). f32 maximumNumber. -/
  | fmax (d : Dest) (a b : Src) (g : PredIx)
  /-- FABS (R131). Clears the f32 sign bit. -/
  | fabs (d : Dest) (a : Src) (g : PredIx)
  /-- FNEG (R131). Inverts the f32 sign bit. -/
  | fneg (d : Dest) (a : Src) (g : PredIx)
  /-- FRND (R133). Rounds an f32 to an integral value. -/
  | frnd (d : Dest) (a : Src) (g : PredIx)
  /-- FSCALE (R131). Multiplies an f32 by 2 to a signed integer power. -/
  | fscale (d : Dest) (a b : Src) (g : PredIx)
  /-- FADD_F64 (R131). f64 add. -/
  | faddF64 (d : Dest) (a b : Src) (g : PredIx)
  /-- FSUB_F64 (R131). f64 subtract. -/
  | fsubF64 (d : Dest) (a b : Src) (g : PredIx)
  /-- FMUL_F64 (R131). f64 multiply. -/
  | fmulF64 (d : Dest) (a b : Src) (g : PredIx)
  /-- FMIN_F64 (R132). f64 minimumNumber. -/
  | fminF64 (d : Dest) (a b : Src) (g : PredIx)
  /-- FMAX_F64 (R132). f64 maximumNumber. -/
  | fmaxF64 (d : Dest) (a b : Src) (g : PredIx)
  /-- FABS_F64 (R131). Clears the f64 sign bit. -/
  | fabsF64 (d : Dest) (a : Src) (g : PredIx)
  /-- FNEG_F64 (R131). Inverts the f64 sign bit. -/
  | fnegF64 (d : Dest) (a : Src) (g : PredIx)
  /-- FRND_F64 (R133). Rounds an f64 to an integral value. -/
  | frndF64 (d : Dest) (a : Src) (g : PredIx)
  /-- FSCALE_F64 (R131). Multiplies an f64 by 2 to a signed 32-bit power. -/
  | fscaleF64 (d : Dest) (a b : Src) (g : PredIx)
  /-- PFADD_F16X2 (R134). Packed f16 add. -/
  | pfaddF16x2 (d : Dest) (a b : Src) (g : PredIx)
  /-- PFSUB_F16X2 (R134). Packed f16 subtract. -/
  | pfsubF16x2 (d : Dest) (a b : Src) (g : PredIx)
  /-- PFMUL_F16X2 (R134). Packed f16 multiply. -/
  | pfmulF16x2 (d : Dest) (a b : Src) (g : PredIx)
  /-- PFMIN_F16X2 (R134). Packed f16 minimumNumber. -/
  | pfminF16x2 (d : Dest) (a b : Src) (g : PredIx)
  /-- PFMAX_F16X2 (R134). Packed f16 maximumNumber. -/
  | pfmaxF16x2 (d : Dest) (a b : Src) (g : PredIx)
  /-- FCMP_F32 (R136). f32 compare writing a predicate. -/
  | fcmpF32 (k : FCond) (p : PredIx) (a b : Src) (g : PredIx)
  /-- FCMP_F64 (R136). f64 compare writing a predicate. -/
  | fcmpF64 (k : FCond) (p : PredIx) (a b : Src) (g : PredIx)
  /-- FCLASS_F32 (R137). f32 class test writing a predicate. -/
  | fclassF32 (k : FClass) (p : PredIx) (a : Src) (g : PredIx)
  /-- FCLASS_F64 (R137). f64 class test writing a predicate. -/
  | fclassF64 (k : FClass) (p : PredIx) (a : Src) (g : PredIx)
  /-- FDIV (R138). Correctly rounded f32 divide. -/
  | fdiv (d : Dest) (a b : Src) (g : PredIx)
  /-- FDIV_F64 (R138). Correctly rounded f64 divide. -/
  | fdivF64 (d : Dest) (a b : Src) (g : PredIx)
  /-- FSQRT (R138). Correctly rounded f32 square root. -/
  | fsqrt (d : Dest) (a : Src) (g : PredIx)
  /-- FSQRT_F64 (R138). Correctly rounded f64 square root. -/
  | fsqrtF64 (d : Dest) (a : Src) (g : PredIx)
  /-- FRCP (R138). Correctly rounded f32 reciprocal. -/
  | frcp (d : Dest) (a : Src) (g : PredIx)
  /-- FRSQ (R138). Correctly rounded f32 reciprocal square root. -/
  | frsq (d : Dest) (a : Src) (g : PredIx)
  /-- FEXP2 (R138). Correctly rounded f32 power of two. -/
  | fexp2 (d : Dest) (a : Src) (g : PredIx)
  /-- FLOG2 (R138). Correctly rounded f32 base-2 logarithm. -/
  | flog2 (d : Dest) (a : Src) (g : PredIx)
  /-- FSIN (R138). Correctly rounded sin of pi times a. -/
  | fsin (d : Dest) (a : Src) (g : PredIx)
  /-- FCOS (R138). Correctly rounded cos of pi times a. -/
  | fcos (d : Dest) (a : Src) (g : PredIx)
  /-- CVT (R143). Float-to-float conversion. -/
  | cvt (d : Dest) (a : Src) (f t : FFmt) (g : PredIx)
  /-- CVTI (R143). Float-to-integer conversion with clamping. -/
  | cvti (d : Dest) (a : Src) (f : FFmt) (t : IFmt) (g : PredIx)
  /-- CVTF (R143). Integer-to-float conversion. -/
  | cvtf (d : Dest) (a : Src) (f : IFmt) (t : FFmt) (g : PredIx)
  /-- PACK8 (R145). Converts two values to fk8 and packs them into one half of the destination. -/
  | pack8 (d : Dest) (a : Src) (w k h : Bool) (g : PredIx)
  /-- UNPACK8 (R145). Decodes two fk8 bytes to f16x2 or an f32 pair. -/
  | unpack8 (d : Dest) (a : Src) (w k h : Bool) (g : PredIx)
  /-- CBDEC (R147). Forms a cb4 block scale or decodes two cb4 codes. -/
  | cbdec (d : Dest) (a : Src) (m : CbMode) (g : PredIx)
  /-- FMA_F32 (R140). Fused f32 multiply-add. -/
  | fmaF32 (d : Dest) (a b : Src) (c : Src3)
  /-- FMA_F64 (R140). Fused f64 multiply-add. -/
  | fmaF64 (d : Dest) (a b : Src) (c : Src3)
  /-- PFMA_F16X2 (R140). Packed f16 fused multiply-add. -/
  | pfmaF16x2 (d : Dest) (a b : Src) (c : Src3)
  /-- LD (R152). Issues a load of 1 to 8 bytes per active lane after the address checks. -/
  | ld (d : Dest) (a : Src) (o : BitVec 9) (f : LdFmt)
  /-- ST (R152). Enters the lanes' store bytes into the ebb queue. -/
  | st (d : Dest) (a : Src) (o : BitVec 9) (f : StFmt)
  /-- LDT (R156). Typed load that converts memory format to slot format. -/
  | ldt (d : Dest) (a : Src) (o : BitVec 9) (f : TFmt)
  /-- STT (R156). Typed store that converts slot format to memory format. -/
  | stt (d : Dest) (a : Src) (o : BitVec 9) (f : TFmt)
  /-- LDS (R254). Scratchpad load, plain or full/empty waiting. -/
  | lds (d : Dest) (a : Src) (o : BitVec 9) (f : LdsForm) (s : Bool)
  /-- STS (R254). Scratchpad store, plain or tag-setting. -/
  | sts (d : Dest) (a : Src) (o : BitVec 9) (f : StsForm) (s : Bool)
  /-- LDM (R158). Restartable load of N words into consecutive slots. -/
  | ldm (d : Dest) (a : Src) (o : BitVec 9) (n : MultiN)
  /-- STM (R158). Restartable store of N words from consecutive slots. -/
  | stm (d : Dest) (a : Src) (o : BitVec 9) (n : MultiN)
  /-- PREF (R160). Prefetch hint to the L1, L2 or near cache. -/
  | pref (a : Src) (o : BitVec 9) (l : PrefLevel)
  /-- ATOMS (R259). Scratchpad atomic performed lane by lane. -/
  | atoms (d : Dest) (a b : Src) (w : Bool) (n : AtomFn)
  /-- ATOM (R411). Returning memory atomic entered into the ebb queue. -/
  | atom (d : Dest) (a b : Src) (w : Bool) (n : AtomFn)
  /-- RED (R411). Non-returning memory atomic entered into the ebb queue. -/
  | red (a b : Src) (w : Bool) (n : AtomFn)
  /-- ACQ (R396). Acquire at the given scope over the named regions. -/
  | acq (l : Bool) (s : Scope) (a : Src)
  /-- REL (R396). Release at the given scope over the named regions. -/
  | rel (l : Bool) (s : Scope) (a : Src)
  /-- FENCE (R396). Release then acquire as one instruction. -/
  | fence (l : Bool) (s : Scope) (a : Src)
  /-- GFENCE (R243). Restores ordering of the group's own accesses after cross-lane dependencies. -/
  | gfence
  /-- EBDR (R318). Parks until the active lanes' older ebb entries have drained. -/
  | ebdr
  /-- BRA (R165). Uniform branch taken when the condition holds in every running lane. -/
  | bra (g : PredIx) (o : BitVec 21)
  /-- BRC (R165). Divergent branch that pushes a path for the taken lanes. -/
  | brc (g : PredIx) (o : BitVec 21)
  /-- CALL (R165). Writes the return address to v30:v31 and branches. -/
  | call (g : PredIx) (o : BitVec 21)
  /-- JOIN (R165). Pushes a token naming the reconvergence point. -/
  | join (o : BitVec 21)
  /-- BRK (R165). Breaks active lanes out of n token regions to a target. -/
  | brk (g : PredIx) (o : BitVec 17) (n : BitVec 3)
  /-- RET (R165). Per-lane return to the address in a pair. -/
  | ret (g : PredIx) (a : Src)
  /-- JMPR (R165). Per-lane jump to the address in a pair. -/
  | jmpr (g : PredIx) (a : Src)
  /-- EXIT (R165). Ends the active threads, with arrive-and-drop at barriers. -/
  | exit (g : PredIx)
  /-- VOTE_OR (R238). OR of a predicate over the members. -/
  | voteOr (p q : PredIx) (b : Src) (g : PredIx)
  /-- VOTE_AND (R238). AND of a predicate over the members. -/
  | voteAnd (p q : PredIx) (b : Src) (g : PredIx)
  /-- VOTE_EQ (R238). True when the predicate is equal in every present member. -/
  | voteEq (p q : PredIx) (b : Src) (g : PredIx)
  /-- BALLOT (R238). Mask of members whose predicate is true. -/
  | ballot (d : Dest) (q : PredIx) (b : Src) (g : PredIx)
  /-- ELECT (R238). Selects the lowest active member. -/
  | elect (p : PredIx) (b : Src) (g : PredIx)
  /-- MATCH (R238). Mask of members holding the same value. -/
  | matchL (d : Dest) (a b : Src) (g : PredIx)
  /-- VOTE_CNT (R238). Count of members whose predicate is true. -/
  | voteCnt (d : Dest) (q : PredIx) (b : Src) (g : PredIx)
  /-- SHFL_IDX (R240). Reads a from an indexed lane. -/
  | shflIdx (d : Dest) (a b : Src) (g : PredIx)
  /-- SHFL_UP (R240). Reads a from a lower lane. -/
  | shflUp (d : Dest) (a b : Src) (g : PredIx)
  /-- SHFL_DN (R240). Reads a from a higher lane. -/
  | shflDn (d : Dest) (a b : Src) (g : PredIx)
  /-- SHFL_XOR (R240). Reads a from the lane given by XOR of a mask. -/
  | shflXor (d : Dest) (a b : Src) (g : PredIx)
  /-- REDG_ADD (R240). Wrapped sum over the active lanes. -/
  | redgAdd (d : Dest) (a : Src) (g : PredIx)
  /-- REDG_MIN (R240). Signed minimum over the active lanes. -/
  | redgMin (d : Dest) (a : Src) (g : PredIx)
  /-- REDG_MIN_N (R240). Unsigned minimum over the active lanes. -/
  | redgMinN (d : Dest) (a : Src) (g : PredIx)
  /-- REDG_MAX (R240). Signed maximum over the active lanes. -/
  | redgMax (d : Dest) (a : Src) (g : PredIx)
  /-- REDG_MAX_N (R240). Unsigned maximum over the active lanes. -/
  | redgMaxN (d : Dest) (a : Src) (g : PredIx)
  /-- REDG_AND (R240). AND over the active lanes. -/
  | redgAnd (d : Dest) (a : Src) (g : PredIx)
  /-- REDG_OR (R240). OR over the active lanes. -/
  | redgOr (d : Dest) (a : Src) (g : PredIx)
  /-- REDG_XOR (R240). XOR over the active lanes. -/
  | redgXor (d : Dest) (a : Src) (g : PredIx)
  /-- REDG_FADD (R242). Exact f32 sum over the active lanes rounded once. -/
  | redgFadd (d : Dest) (a : Src) (g : PredIx)
  /-- SCANG_ADD (R240). Inclusive prefix sum over the active lanes. -/
  | scangAdd (d : Dest) (a : Src) (g : PredIx)
  /-- SCANG_ADDX (R240). Exclusive prefix sum over the active lanes. -/
  | scangAddx (d : Dest) (a : Src) (g : PredIx)
  /-- REFORM (R245). Files the active threads into a tidepool with the default age limit. -/
  | reform
  /-- REFORM_AGE (R245). Files the active threads into a tidepool with an age limit from a source. -/
  | reformAge (a : Src)
  /-- RGN (R246). Ends the operand region, sets the window base and prefetches slots. -/
  | rgn (w : BitVec 9) (l h : BitVec 5)
  /-- VIEW (R247). Writes a team view register after the checks of R18. -/
  | view (n : BitVec 3) (a : Src)
  /-- RECRUIT (R249). Grants helpers in donor lanes and starts them at a PC. -/
  | recruit (d : Dest) (a b : Src)
  /-- HWAIT (R250). Waits for the lane's helpers and closes the recruitment. -/
  | hwait (d : Dest)
  /-- HDONE (R251). Completes a helper and joins its hr entries and stores to the recruiter. -/
  | hdone
  /-- BAR_INIT (R264). Initialises a barrier record if it is uninitialised. -/
  | barInit (n : BitVec 4) (a : Src)
  /-- BAR_ARV (R265). Releases at die scope and arrives with count 1 per lane. -/
  | barArv (n : BitVec 4)
  /-- BAR_ARV_COUNT (R265). Releases at die scope and arrives with a per-lane count. -/
  | barArvCount (n : BitVec 4) (a : Src)
  /-- BAR_SYN (R266). Arrives with count 1 per lane and waits for the phase. -/
  | barSyn (n : BitVec 4)
  /-- BAR_SYN_COUNT (R266). Arrives with a per-lane count and waits for the phase. -/
  | barSynCount (n : BitVec 4) (a : Src)
  /-- BAR_WT (R266). Waits for the current phase without arriving. -/
  | barWt (n : BitVec 4)
  /-- BAR_DRP (R267). Drops the active member lanes from a barrier. -/
  | barDrp (n : BitVec 4)
  /-- GBAR (R269). Grid barrier reporting breakage in p1. -/
  | gbar
  /-- GBAR_T (R269). Grid barrier trapping with cause 0x11 on breakage. -/
  | gbarT
  /-- TAG_F (R262). Sets FE tags of scratchpad words to full. -/
  | tagF (a b : Src)
  /-- TAG_E (R262). Sets FE tags of scratchpad words to empty. -/
  | tagE (a b : Src)
  /-- PRSW (R262). Waits until PR is set on the named scratchpad lines. -/
  | prsw (a b : Src)
  /-- CPY (R327). Enters a copy command into an engine queue. -/
  | cpy (n : BitVec 2) (a : Src)
  /-- ZRO (R327). Enters a zeroing command into an engine queue. -/
  | zro (n : BitVec 2) (a : Src)
  /-- GTH (R330). Enters a gather command into an engine queue. -/
  | gth (n : BitVec 2) (a : Src)
  /-- SCA (R330). Enters a scatter-add command into an engine queue. -/
  | sca (n : BitVec 2) (a : Src)
  /-- QFNC (R335). Enters fence entries into the named engine queues. -/
  | qfnc (m : BitVec 4)
  /-- QWT (R336). Waits for the named engine queues' current entries. -/
  | qwt (m : BitVec 4)
  /-- FETCHW (R337). Asks the distributor to withdraw one unplaced team into a mailbox. -/
  | fetchw (a : Src)
  /-- APPEND (R341). Releases and appends items to work lists. -/
  | append (n : BitVec 2) (a b : Src)
  /-- TAKE (R342). Ends the lease and takes the head item of a work list. -/
  | take (d : Dest) (a : Src)
  /-- QUIES (R343). Waits for quiescence or an item in a list. -/
  | quies (a : Src)
  /-- TRAP (R169). Raises cause 0x16 with a constant. -/
  | trap (k : BitVec 14)
  /-- SYSC (R170). Places system-call entries and waits for replies. -/
  | sysc (k : BitVec 14)
  /-- SYSC_TRY (R171). System call that returns status 0x14 when the ring is full. -/
  | syscTry (k : BitVec 14)
  /-- RDSR (R173). Reads a special register. -/
  | rdsr (d : Dest) (r : BitVec 7)
  /-- WRSR (R173). Writes a special register. -/
  | wrsr (a : Src) (r : BitVec 7)
  /-- RTE (R176). Returns a service thread from its trap. -/
  | rte
  /-- RTE_GRP (R176). Resumes or fails a faulted group named by its fault record. -/
  | rteGrp (a b : Src)
  /-- YIELD (R175). Gives up issue for at least one ac. -/
  | yield
  /-- SLEEP (R175). Parks the group for n ac. -/
  | sleep (a : Src)
  /-- LOCQ (R376). Returns the locality word of an address without faulting. -/
  | locq (d : Dest) (a : Src)
  /-- LOCQ_PA (R376). Returns the physical address of an address; privileged. -/
  | locqPa (d : Dest) (a : Src)
  /-- PTUPD (R372). Sends a page-table command block to the table-update engine and waits. -/
  | ptupd (d : Dest) (a : Src)
  /-- RCLM (R459). Reclaims an owner-lost word with a new value. -/
  | rclm (d : Dest) (a b : Src)
  /-- MX_CFG (R293). Checks and writes the engine configuration MXC. -/
  | mxCfg (a : Src)
  /-- MX_LDB (R294). Queues a load of B into a slot. -/
  | mxLdb (s : Bool) (a b : Src)
  /-- MX_MMA (R295). Queues a matrix multiply-accumulate operation. -/
  | mxMma (r s : Bool) (a : Src)
  /-- MX_ZERO (R296). Queues zeroing of accumulator elements. -/
  | mxZero (a : Src)
  /-- MX_ZSK (R297). Waits for the queue and reads the zero-skip counters. -/
  | mxZsk (d : Dest) (c : Bool)
  /-- MX_DRAIN (R298). Waits for the engine queue and reports pending enabled flags in hp1. -/
  | mxDrain
  /-- MX_DRAIN_CONV (R298). Waits for the queue, converts accumulators into an output view and reports flags. -/
  | mxDrainConv (n : BitVec 3) (a : Src)
  /-- QPUSH (R275). Pushes a headland value into every group's queue copy. -/
  | qpush (w : Bool) (n : BitVec 2) (a : Src)
  /-- LIMM (R57). Hint supplying upper immediate bits to the next instruction. -/
  | limm (i : BitVec 22)
  /-- PFX (R58). Hint supplying guard, rounding, ordering, scope, pop and unsigned fields. -/
  | pfx (g : PredIx) (r o : BitVec 3) (s : BitVec 2) (c u : Bool) (z : BitVec 10)
  /-- SCH (R60). Scheduling advice with no architectural effect. -/
  | sch (p : PredIx) (k : Bool) (d : BitVec 6) (z : BitVec 13)
  /-- LOAD_REPLY (R152). The reply of a load, LDT, LDM or returning atomic arrives and binds the slots. -/
  | loadReply (p : Party)
  /-- DEFERRED_CAUSE (R181). A deferred store or atomic cause is delivered at the group's next instruction boundary. -/
  | deferredCause (p : Party)
  /-- STANDBY_ROTATION (R197). Every 4096 ac the longest-live Ready group is exchanged for the longest-waiting standby
    group. -/
  | standbyRotation (core : Nat)
  /-- LIVE_CONTEXT_GRANT (R197). A freed live context is taken by the longest-waiting standby group. -/
  | liveContextGrant (core : Nat)
  /-- TIDEPOOL_AGE_LIMIT (R202). A tidepool entry's oldest thread reaches the age limit and the entry becomes
    drawable. -/
  | tidepoolAgeLimit (tk e : Nat)
  /-- TIDEPOOL_DRAW (R202). A drawable entry forms a fresh group from its earliest filed threads. -/
  | tidepoolDraw (tk e : Nat)
  /-- HELPER_START (R208). A helper context issues the start PC and the helper becomes Running. -/
  | helperStart (core quad : Nat)
  /-- HELPER_RELEASE (R210). A helper stops at its next boundary after reconvergence, regrouping or pre-emption and
    discards its held work. -/
  | helperRelease (core quad : Nat)
  /-- HWAIT_COMPLETE (R211). All helpers of a recruitment have stopped; HWAIT writes the mask, merges flags and may
    raise 0x0F. -/
  | hwaitComplete (p : Party)
  /-- SLEEP_DEADLINE (R175). A sleeping group's deadline passes and it becomes Ready. -/
  | sleepDeadline (p : Party)
  /-- WATCHDOG_EXPIRY (R233). A parked group's watchdog reaches WDOG.LIMIT and takes cause 0x0D. -/
  | watchdogExpiry (p : Party)
  /-- TAG_WAIT_TIMEOUT (R256). A tag wait reaches WDOG.LIMIT and traps with cause 0x0C. -/
  | tagWaitTimeout (p : Party)
  /-- BARRIER_WAIT_END (R266). A waiter sees PHASE change and performs its die-scope acquire. -/
  | barrierWaitEnd (p : Party)
  /-- BARRIER_REMOTE_ARRIVAL (R308). An arrival from the paired core or a GBAR agent reaches the barrier record. -/
  | barrierRemoteArrival (tk n : Nat) (count : Nat) (tids : List Nat)
  /-- PAIR_CHECKPOINT_CUT (R345). Both copies of a redundant pair reach the same instruction cut. -/
  | pairCheckpointCut (tk : Nat)
  /-- BREAKWATER_COMPARE (R347). The breakwater compares pair signatures and commits, reruns or fails the team. -/
  | breakwaterCompare (tk : Nat)
  /-- LANE_FAILURE (R220). A residue or parity check fails; the instruction is squashed, the lanes remapped and the
    instruction reissued. -/
  | laneFailure (core lane : Nat)
  /-- SYSC_REPLY (R432). A SCRPLY store delivers a lane's reply into v0 and v1 and wakes the group when all are
    answered. -/
  | syscReply (call : Nat)
  /-- SYSC_WAITLIST_WAKE (R171). Freed ring room wakes waiting SYSC groups in parked order. -/
  | syscWaitlistWake
  /-- MX_STEP (R295). The matrix engine performs one accumulation step of an operation at a step boundary. -/
  | mxStep (tk : Nat)
  /-- MX_LDB_READ (R294). Once PR is set, the engine reads B into a slot at one point of the scratchpad order. -/
  | mxLdbRead (tk : Nat)
  /-- MX_ZERO_PERFORM (R296). The engine zeroes the queued accumulator elements. -/
  | mxZeroPerform (tk : Nat)
  /-- MX_DRAIN_COMPLETE (R298). The engine queue empties; any conversion is done and hp1 is written. -/
  | mxDrainComplete (tk : Nat)
  /-- MX_ZSK_READ (R297). The queue empties and the counters are read into hd. -/
  | mxZskRead (tk : Nat)
  /-- EBB_DRAIN (R314). An ebb entry drains to its home slice or notify target and is freed. -/
  | ebbDrain (core seq : Nat)
  /-- EBB_WINDOW (R316). At each 1024-ac window boundary the allowance counter U resets and stalled stores are
    admitted. -/
  | ebbWindow (core : Nat)
  /-- CPY_PERFORM (R329). The copy unit performs a CPY entry element by element. -/
  | cpyPerform (tk q : Nat)
  /-- ZRO_PERFORM (R329). The copy unit writes zeros for a ZRO entry. -/
  | zroPerform (tk q : Nat)
  /-- GTH_PERFORM (R331). The gather unit reads indexed rows into a stream, scratchpad or memory. -/
  | gthPerform (tk q : Nat)
  /-- SCA_PERFORM (R333). The scatter-add unit adds source rows into table rows at home slices. -/
  | scaPerform (tk q : Nat)
  /-- ENGINE_QUEUE_RETRY (R324). A queue parked on cause 0x05 retries its access after a PTUPD completes. -/
  | engineQueueRetry (tk q : Nat)
  /-- QFNC_RELEASE (R335). Fence entries are released once every named queue has completed what stands before them. -/
  | qfncRelease (tk : Nat)
  /-- FETCHW_ANSWER (R337). The distributor's answer fills the mailbox words and sets them full. -/
  | fetchwAnswer (tk : Nat)
  /-- QUIES_WAKE (R343). The slack-water detector reports quiescence or an item arrives and QUIES returns. -/
  | quiesWake (p : Party)
  /-- TEAM_COMPLETE (R315). All threads, the headland and all entries are done; the team releases and its completion
    is counted. -/
  | teamComplete (tk : Nat)
  /-- PAGE_WALK (R364). A walker walks the die's replica for a miss-table entry. -/
  | pageWalk (die asn vpn : Nat)
  /-- PTUPD_SETE (R371). Table-update engine writes a pointer or leaf entry in every replica. -/
  | ptupdSete (n : Nat)
  /-- PTUPD_CLRE (R371). Table-update engine clears an entry or leaf group in every replica. -/
  | ptupdClre (n : Nat)
  /-- PTUPD_ZTAB (R371). Table-update engine zeroes a table in every replica. -/
  | ptupdZtab (n : Nat)
  /-- FATAL_DIE_ERROR (R381). A die takes a fatal error and the package contains it. -/
  | fatalDieError (die : Nat) (unreachable : Bool)
  /-- CONTAINMENT_END (R381). Containment ends and parked accesses to the die proceed. -/
  | containmentEnd (die : Nat)
  /-- READ (R389). A read reaches a home slice and is served, forwarded or raises a race. -/
  | read (o : Sender) (line mask : Nat)
  /-- WRITE (R389). A data or strong write registers at its home slice. -/
  | write (o : Sender) (word : Nat) (mode : WriteMode)
  /-- ATOMIC (R389). An atomic or SCA add is performed at the home slice. -/
  | atomic (o : Sender) (word : Nat) (wide : Bool) (fn : AtomFn) (x cmp : DWord)
  /-- FWD (R391). A forward, recall or revoke reaches the owner, which answers with its data. -/
  | fwd (line : Nat) (named : Named)
  /-- DATA (R391). The owner's answer sets the words V and fills the reader. -/
  | data (answer : Answer)
  /-- CLOSE (R389). A release closes Ro words to Rc at their home slices. -/
  | close (o : Sender) (line mask : Nat)
  /-- WBACK (R388). An owner writes back registered words on eviction, pre-emption or slot reuse, making them V. -/
  | wback (o : Nat) (words : List (Nat × Word))
  /-- ERR (R451). An owner-lost or error reply reaches a requester, which takes cause 0x0A. -/
  | err (req : Nat) (reply : ErrorReply)
  /-- HOLD (R455). A recovery hold extends a timed request's deadline and stops the waiter's watchdog. -/
  | hold (pa recovering : Nat)
  /-- FORWARD_TIMEOUT (R451). A home slice's forward deadline expires and the words become L. -/
  | forwardTimeout (word : Nat)
  /-- REQUEST_TIMEOUT (R452). A request to another package's home times out with an error reply. -/
  | requestTimeout (id : Nat)
  /-- NOTIFY_KICK (R419). A store to a notify register releases at system scope and wakes the queue's consumer. -/
  | notifyKick (q asn : Nat) (service : Bool)
  /-- LAUNCH_RECORD_TAKE (R423). The distributor takes the head launch record and advances HEAD, or rejects it. -/
  | launchRecordTake (q : Nat)
  /-- TEAM_PLACE (R423). The distributor places a team on a core or pair with a context area. -/
  | teamPlace (q core : Nat)
  /-- TEAM_PREEMPT (R424). Lower-class teams are saved to make room for a higher class. -/
  | teamPreempt (tk : Nat)
  /-- TEAM_RESTORE (R424). A pre-empted team is restored and its waits are re-evaluated. -/
  | teamRestore (tk core : Nat)
  /-- SCRPLY_STORE (R432). A service-thread store of a reply address to SCRPLY releases the reply. -/
  | scrplyStore (slot : Nat)
  /-- SRING_WRITE (R433). A firmware image switch answers out-of-range entries with 0xFE and sets CUR. -/
  | sringWrite (v : DWord)
  /-- UNCORRECTABLE_MEMORY_ERROR (R435). An ECC failure poisons words and remaps the failing row to a spare. -/
  | uncorrectableMemoryError (line kind : Nat)
  /-- THERMAL_LIMIT (R437). Hot-spot sensors pass their limit and the die's issue rate is halved or quartered. -/
  | thermalLimit (die : Nat)
  /-- COOLANT_FAILURE (R437). The coolant fails; placement stops and dies are taken down. -/
  | coolantFailure
  /-- FLIT_RECEIVE (R445). A Dramon flit is checked and delivered in sequence or replay is requested. -/
  | flitReceive (port seq kind ack : Nat) (sound : Bool)
  /-- PORT_LANE_FAILURE (R446). A port retrains narrower or goes down and leaves the route masks. -/
  | portLaneFailure (port good : Nat)
  /-- LINK_TRAINING (R447). A port trains and picks the highest common Dramon version. -/
  | linkTraining (port lanes peer : Nat) (lo hi : BitVec 16)
  /-- RECOVERY_NOTICE (R454). While in recovery, a recovery notice flit is sent every 100 µs. -/
  | recoveryNotice
  /-- FRECOV_WRITE (R454). Firmware sets or clears the package recovery state. -/
  | frecovWrite (v : DWord)
  /-- FENCE_WRITE (R456). Writing FENCEj fences or unfences a package on every port. -/
  | fenceWrite (j : Nat) (v : DWord)
  /-- PIDR_WRITE (R443). The one write of the package id, after which the Dramon ports train. -/
  | pidrWrite (v : DWord)
  /-- HOST_CXL_MEM_READ (R462). A host read of device memory through the HDM decoder. -/
  | hostCxlMemRead (port o n : Nat) (own : Bool)
  /-- HOST_CXL_MEM_WRITE (R462). A host write of device memory through the HDM decoder. -/
  | hostCxlMemWrite (port o : Nat) (bytes : List (BitVec 8))
  /-- HOST_BAR0_KICK (R464). A host write to the notify window kicks a queue after earlier CXL.mem writes. -/
  | hostBar0Kick (port o : Nat)
  /-- HVER_WRITE (R465). The host selects an interface version and OK is set or cleared. -/
  | hverWrite (v : DWord)
  /-- ATREQ (R469). An attestation request produces a signed report. -/
  | atreq (nonce : BitVec 256) (pa : Nat)
  /-- RESET (R470). Module reset runs boot, repair, training, image verification and service thread 0. -/
  | reset
  /-- CAPBM_WRITE (R470). Clearing BM ends bring-up mode for good. -/
  | capbmWrite (v : DWord)
  /-- LRM_WRITE (R228). A service-thread lane-map write takes effect only when all checks pass. -/
  | lrmWrite (core j : Nat) (v : Word)
  /-- LSTAT_WRITE (R224). Any write to LSTAT clears LERRS. -/
  | lstatWrite (core : Nat)
  /-- DTABL_WRITE (R379). Sets the table count, ignored below 4096 or while ASNs are in use. -/
  | dtablWrite (die : Nat) (v : DWord)
  /-- HBASE_WRITE (R472). Sets a host window, ignored when misaligned. -/
  | hbaseWrite (port : Nat) (v : DWord)
  /-- REGISTER_WRITE (R478). Write to a privileged register without behaviour of its own. -/
  | registerWrite (pa n : Nat) (v : DWord)
  /-- ILLEGAL_ENCODING (R47). A word with major 0x00, a reserved major, an unassigned minor, kind, op or selector, or
    a non-zero unused field is issued and traps with cause 0x01. -/
  | illegalEncoding (w : Word)
  /-- CLUSTER_LOSS (R359). A physical cluster is lost while the package runs and is marked in DSTAT.CLOUT until a
    spare replaces it at reset. -/
  | clusterLoss (die cluster : Nat)
  /-- SHORE_DIE_FAILURE (R369). Shore die 0 fails and the standby table-update engine on shore die 1 takes over. -/
  | shoreDieFailure
  /-- IMAGE_SWITCH_COMPLETE (R454). A switch of the service firmware image completes and the hardware clears
    FRECOV.ON. -/
  | imageSwitchComplete
  /-- THERMAL_LIMIT_CLEARED (R437). A die's hot-spot sensors fall back below their limit and its issue rate and
    PWR.THR return to full. -/
  | thermalLimitCleared (die : Nat)
  /-- HOST_PORT_DOWN (R457). A host port's link is lost, HSTAT.DOWN is set and its host bridge becomes shut out. -/
  | hostPortDown (port : Nat)
  /-- HOST_PORT_TRAINING (R461). A host port trains to a PCIe rate and width and comes up, clearing its HSTAT.DOWN
    bit. -/
  | hostPortTraining (port rate width : Nat)
  deriving DecidableEq, Repr

end Sys2Proof
end

