-- ==== Sys2Proof/WellFormed.lean ====
section
/-! DEFINITION. Which instructions are well formed: the operand values that their fields can hold but that the spec
leaves unassigned in the word, so that no word decodes to them. -/
namespace Sys2Proof

/-- RED has no SWP and no CAS (R64). -/
def redOk (n : AtomFn) : Bool := decide (n ≠ .swp) && decide (n ≠ .cas)

/-- With ALL = 1 the a field of ACQ, REL and FENCE is zero (R395). -/
def acqOk (l : Bool) (a : Src) : Bool := !l || decide (a = ⟨false, false, 0⟩)

/-- RGN's HI names no anchored slot (R246). -/
def rgnOk (h : BitVec 5) : Bool := decide (h.toNat < 28)

/-- QFNC and QWT name at least one queue (R334). -/
def queueMaskOk (m : BitVec 4) : Bool := decide (m ≠ 0)

/-- APPEND's size code is 0, 1 or 2 (R340). -/
def appendOk (n : BitVec 2) : Bool := decide (n ≠ 3)

/-- The instruction holds only values that its encoding assigns. -/
def Instr.wf : Instr → Bool
  | .red _ _ _ n => redOk n
  | .acq l _ a => acqOk l a
  | .rel l _ a => acqOk l a
  | .fence l _ a => acqOk l a
  | .rgn _ _ h => rgnOk h
  | .qfnc m => queueMaskOk m
  | .qwt m => queueMaskOk m
  | .append n _ _ => appendOk n
  | _ => true

/-- The rows of spec/opcode_table.json that are steps of an agent and no instruction word (02_instruction_formats.md R46). -/
def Instr.isEvent : Instr → Bool
  | .loadReply .. => true
  | .deferredCause .. => true
  | .standbyRotation .. => true
  | .liveContextGrant .. => true
  | .tidepoolAgeLimit .. => true
  | .tidepoolDraw .. => true
  | .helperStart .. => true
  | .helperRelease .. => true
  | .hwaitComplete .. => true
  | .sleepDeadline .. => true
  | .watchdogExpiry .. => true
  | .tagWaitTimeout .. => true
  | .barrierWaitEnd .. => true
  | .barrierRemoteArrival .. => true
  | .pairCheckpointCut .. => true
  | .breakwaterCompare .. => true
  | .laneFailure .. => true
  | .syscReply .. => true
  | .syscWaitlistWake .. => true
  | .mxStep .. => true
  | .mxLdbRead .. => true
  | .mxZeroPerform .. => true
  | .mxDrainComplete .. => true
  | .mxZskRead .. => true
  | .ebbDrain .. => true
  | .ebbWindow .. => true
  | .cpyPerform .. => true
  | .zroPerform .. => true
  | .gthPerform .. => true
  | .scaPerform .. => true
  | .engineQueueRetry .. => true
  | .qfncRelease .. => true
  | .fetchwAnswer .. => true
  | .quiesWake .. => true
  | .teamComplete .. => true
  | .pageWalk .. => true
  | .ptupdSete .. => true
  | .ptupdClre .. => true
  | .ptupdZtab .. => true
  | .fatalDieError .. => true
  | .containmentEnd .. => true
  | .read .. => true
  | .write .. => true
  | .atomic .. => true
  | .fwd .. => true
  | .data .. => true
  | .close .. => true
  | .wback .. => true
  | .err .. => true
  | .hold .. => true
  | .forwardTimeout .. => true
  | .requestTimeout .. => true
  | .notifyKick .. => true
  | .launchRecordTake .. => true
  | .teamPlace .. => true
  | .teamPreempt .. => true
  | .teamRestore .. => true
  | .scrplyStore .. => true
  | .sringWrite .. => true
  | .uncorrectableMemoryError .. => true
  | .thermalLimit .. => true
  | .coolantFailure .. => true
  | .flitReceive .. => true
  | .portLaneFailure .. => true
  | .linkTraining .. => true
  | .recoveryNotice .. => true
  | .frecovWrite .. => true
  | .fenceWrite .. => true
  | .pidrWrite .. => true
  | .hostCxlMemRead .. => true
  | .hostCxlMemWrite .. => true
  | .hostBar0Kick .. => true
  | .hverWrite .. => true
  | .atreq .. => true
  | .reset .. => true
  | .capbmWrite .. => true
  | .lrmWrite .. => true
  | .lstatWrite .. => true
  | .dtablWrite .. => true
  | .hbaseWrite .. => true
  | .registerWrite .. => true
  | .illegalEncoding .. => true
  | .clusterLoss .. => true
  | .shoreDieFailure .. => true
  | .imageSwitchComplete .. => true
  | .thermalLimitCleared .. => true
  | .hostPortDown .. => true
  | .hostPortTraining .. => true
  | _ => false

end Sys2Proof
end

