-- ==== Sys2Proof/Decode.lean ====
section
/-! DEFINITION. Decoding and encoding of the 32-bit instruction words (02_instruction_formats.md R46-R65 and the
encodings of the chapters that own each major). A word that no row of R63 assigns, or that breaks R49, decodes to
nothing: the machine issues it as ILLEGAL_ENCODING. -/
namespace Sys2Proof

/-! ### Fields of the formats (R48) -/

/-- Bits [31:26], the major. -/
def fMajor (w : Word) : BitVec 6 := w.extractLsb' 26 6
/-- Field d. -/
def fD (w : Word) : BitVec 6 := w.extractLsb' 20 6
/-- Field a. -/
def fA (w : Word) : BitVec 7 := w.extractLsb' 13 7
/-- Field b. -/
def fB (w : Word) : BitVec 7 := w.extractLsb' 6 7
/-- Field g of format A. -/
def fG (w : Word) : BitVec 2 := w.extractLsb' 4 2
/-- Field minor of format A. -/
def fMinor (w : Word) : BitVec 4 := w.extractLsb' 0 4
/-- Field c of format F, and field op of format E. -/
def fC (w : Word) : BitVec 6 := w.extractLsb' 0 6
/-- Selector of majors 0x08 and 0x09. -/
def fSel (w : Word) : BitVec 2 := w.extractLsb' 11 2
/-- Field imm9 of majors 0x08 and 0x09. -/
def fImm9 (w : Word) : BitVec 9 := w.extractLsb' 2 9
/-- Field imm11 of format I. -/
def fImm11 (w : Word) : BitVec 11 := w.extractLsb' 2 11
/-- Field g of format I. -/
def fIG (w : Word) : BitVec 2 := w.extractLsb' 0 2
/-- Field off9 of format M. -/
def fOff9 (w : Word) : BitVec 9 := w.extractLsb' 4 9
/-- Field fmt of format M. -/
def fFmt (w : Word) : BitVec 4 := w.extractLsb' 0 4
/-- Field g of format B. -/
def fBG (w : Word) : BitVec 2 := w.extractLsb' 24 2
/-- Field kind of format B. -/
def fKind (w : Word) : BitVec 3 := w.extractLsb' 21 3
/-- Field off21 of format B. -/
def fOff21 (w : Word) : BitVec 21 := w.extractLsb' 0 21
/-- Field kind of format H. -/
def fHKind (w : Word) : BitVec 4 := w.extractLsb' 22 4
/-- Field payload of format H. -/
def fPayload (w : Word) : BitVec 22 := w.extractLsb' 0 22

/-! ### Parts of fields (R54, R58, R65) -/

/-- d[5:2]. -/
def dHi (d : BitVec 6) : BitVec 4 := d.extractLsb' 2 4
/-- d[1:0]. -/
def dLo (d : BitVec 6) : BitVec 2 := d.extractLsb' 0 2
/-- Bits [6:2] of a source field. -/
def aHi (a : BitVec 7) : BitVec 5 := a.extractLsb' 2 5
/-- Bits [1:0] of a source field. -/
def aLo (a : BitVec 7) : BitVec 2 := a.extractLsb' 0 2
/-- Bit [6] of a selector. -/
def bTop (b : BitVec 7) : BitVec 1 := b.extractLsb' 6 1
/-- Bits [5:3] of a selector, FROM of R142. -/
def bFrom (b : BitVec 7) : BitVec 3 := b.extractLsb' 3 3
/-- Bits [2:0] of a selector, TO of R142. -/
def bTo (b : BitVec 7) : BitVec 3 := b.extractLsb' 0 3
/-- Bits [3:1] of a selector. -/
def bMid (b : BitVec 7) : BitVec 3 := b.extractLsb' 1 3
/-- Bit [5] of a selector. -/
def bBit5 (b : BitVec 7) : Bool := b.getLsbD 5
/-- Bit [4] of a selector. -/
def bBit4 (b : BitVec 7) : Bool := b.getLsbD 4
/-- Bit [0] of a selector. -/
def bBit0 (b : BitVec 7) : Bool := b.getLsbD 0
/-- fmt[3:2]. -/
def fmtHi (f : BitVec 4) : BitVec 2 := f.extractLsb' 2 2
/-- fmt[1:0]. -/
def fmtLo (f : BitVec 4) : BitVec 2 := f.extractLsb' 0 2
/-- fmt[1]. -/
def fmtBit1 (f : BitVec 4) : BitVec 1 := f.extractLsb' 1 1
/-- fmt[0]. -/
def fmtBit0 (f : BitVec 4) : Bool := f.getLsbD 0

/-! ### Fields as data, both ways -/

/-- One bit from a Bool. -/
def ofBool (b : Bool) : BitVec 1 := if b then 1#1 else 0#1
/-- R50. -/
def Dest.ofBits (d : BitVec 6) : Dest := ⟨d.getLsbD 5, d.extractLsb' 0 5⟩
/-- R50. -/
def Dest.bits (d : Dest) : BitVec 6 := ofBool d.cls ++ d.ix
/-- R51. -/
def Src.ofBits (a : BitVec 7) : Src := ⟨a.getLsbD 6, a.getLsbD 5, a.extractLsb' 0 5⟩
/-- R51. -/
def Src.bits (a : Src) : BitVec 7 := ofBool a.cls ++ ofBool a.pop ++ a.ix
/-- R51. -/
def Src3.ofBits (c : BitVec 6) : Src3 := ⟨c.getLsbD 5, c.extractLsb' 0 5⟩
/-- R51. -/
def Src3.bits (c : Src3) : BitVec 6 := ofBool c.cls ++ c.ix
/-- R119. -/
def Cond.ofBits : BitVec 4 → Option Cond
  | 0 => some .eq
  | 1 => some .ne
  | 2 => some .lt
  | 3 => some .le
  | 4 => some .gt
  | 5 => some .ge
  | 6 => some .lo
  | 7 => some .ls
  | 8 => some .hi
  | 9 => some .hs
  | 10 => some .tst
  | 11 => some .ntst
  | _ => none
/-- R119. -/
def Cond.bits : Cond → BitVec 4
  | .eq => 0
  | .ne => 1
  | .lt => 2
  | .le => 3
  | .gt => 4
  | .ge => 5
  | .lo => 6
  | .ls => 7
  | .hi => 8
  | .hs => 9
  | .tst => 10
  | .ntst => 11
/-- R136. -/
def FCond.ofBits : BitVec 4 → Option FCond
  | 0 => some .eq
  | 1 => some .ne
  | 2 => some .lt
  | 3 => some .le
  | 4 => some .gt
  | 5 => some .ge
  | 6 => some .ord
  | 7 => some .uno
  | 8 => some .ult
  | 9 => some .ule
  | 10 => some .ugt
  | 11 => some .uge
  | _ => none
/-- R136. -/
def FCond.bits : FCond → BitVec 4
  | .eq => 0
  | .ne => 1
  | .lt => 2
  | .le => 3
  | .gt => 4
  | .ge => 5
  | .ord => 6
  | .uno => 7
  | .ult => 8
  | .ule => 9
  | .ugt => 10
  | .uge => 11
/-- R137. -/
def FClass.ofBits : BitVec 4 → Option FClass
  | 0 => some .nan
  | 1 => some .snan
  | 2 => some .qnan
  | 3 => some .inf
  | 4 => some .zero
  | 5 => some .sub
  | 6 => some .norm
  | 7 => some .fin
  | 8 => some .neg
  | 9 => some .pinf
  | 10 => some .ninf
  | 11 => some .nzero
  | _ => none
/-- R137. -/
def FClass.bits : FClass → BitVec 4
  | .nan => 0
  | .snan => 1
  | .qnan => 2
  | .inf => 3
  | .zero => 4
  | .sub => 5
  | .norm => 6
  | .fin => 7
  | .neg => 8
  | .pinf => 9
  | .ninf => 10
  | .nzero => 11
/-- R142. -/
def FFmt.ofBits : BitVec 3 → Option FFmt
  | 0 => some .f16
  | 1 => some .f32
  | 2 => some .f64
  | 3 => some .fk8a
  | 4 => some .fk8b
  | _ => none
/-- R142. -/
def FFmt.bits : FFmt → BitVec 3
  | .f16 => 0
  | .f32 => 1
  | .f64 => 2
  | .fk8a => 3
  | .fk8b => 4
/-- R142. -/
def IFmt.ofBits : BitVec 3 → Option IFmt
  | 0 => some .i32
  | 1 => some .n32
  | 2 => some .i64
  | 3 => some .n64
  | 4 => some .i16
  | 5 => some .n16
  | 6 => some .i8
  | 7 => some .n8
/-- R142. -/
def IFmt.bits : IFmt → BitVec 3
  | .i32 => 0
  | .n32 => 1
  | .i64 => 2
  | .n64 => 3
  | .i16 => 4
  | .n16 => 5
  | .i8 => 6
  | .n8 => 7
/-- R151. -/
def LdFmt.ofBits : BitVec 4 → Option LdFmt
  | 0 => some .n8
  | 1 => some .i8
  | 2 => some .n16
  | 3 => some .i16
  | 4 => some .n32
  | 5 => some .n64
  | _ => none
/-- R151. -/
def LdFmt.bits : LdFmt → BitVec 4
  | .n8 => 0
  | .i8 => 1
  | .n16 => 2
  | .i16 => 3
  | .n32 => 4
  | .n64 => 5
/-- R151. -/
def StFmt.ofBits : BitVec 4 → Option StFmt
  | 0 => some .n8
  | 2 => some .n16
  | 4 => some .n32
  | 5 => some .n64
  | _ => none
/-- R151. -/
def StFmt.bits : StFmt → BitVec 4
  | .n8 => 0
  | .n16 => 2
  | .n32 => 4
  | .n64 => 5
/-- R98. -/
def TFmt.ofBits : BitVec 4 → Option TFmt
  | 0 => some .n8
  | 1 => some .i8
  | 2 => some .n16
  | 3 => some .i16
  | 4 => some .n32
  | 5 => some .n64
  | 6 => some .f16
  | 7 => some .f32
  | 8 => some .f64
  | 9 => some .fk8a
  | 10 => some .fk8b
  | 11 => some .fk8ax2
  | 12 => some .fk8bx2
  | 13 => some .i8x2
  | _ => none
/-- R98. -/
def TFmt.bits : TFmt → BitVec 4
  | .n8 => 0
  | .i8 => 1
  | .n16 => 2
  | .i16 => 3
  | .n32 => 4
  | .n64 => 5
  | .f16 => 6
  | .f32 => 7
  | .f64 => 8
  | .fk8a => 9
  | .fk8b => 10
  | .fk8ax2 => 11
  | .fk8bx2 => 12
  | .i8x2 => 13
/-- R254. -/
def LdsForm.ofBits : BitVec 2 → Option LdsForm
  | 0 => some .plain
  | 1 => some .ff
  | 2 => some .fe
  | _ => none
/-- R254. -/
def LdsForm.bits : LdsForm → BitVec 2
  | .plain => 0
  | .ff => 1
  | .fe => 2
/-- R254. -/
def StsForm.ofBits : BitVec 2 → Option StsForm
  | 0 => some .plain
  | 1 => some .ef
  | 2 => some .xf
  | _ => none
/-- R254. -/
def StsForm.bits : StsForm → BitVec 2
  | .plain => 0
  | .ef => 1
  | .xf => 2
/-- R157. -/
def PrefLevel.ofBits : BitVec 2 → Option PrefLevel
  | 0 => some .l1
  | 1 => some .l2
  | 2 => some .near
  | _ => none
/-- R157. -/
def PrefLevel.bits : PrefLevel → BitVec 2
  | .l1 => 0
  | .l2 => 1
  | .near => 2
/-- R64. -/
def AtomFn.ofBits : BitVec 4 → Option AtomFn
  | 0 => some .swp
  | 1 => some .cas
  | 2 => some .add
  | 3 => some .and
  | 4 => some .or
  | 5 => some .xor
  | 6 => some .min
  | 7 => some .max
  | 8 => some .minN
  | 9 => some .maxN
  | 10 => some .fadd
  | 11 => some .inc
  | 12 => some .dec
  | _ => none
/-- R64. -/
def AtomFn.bits : AtomFn → BitVec 4
  | .swp => 0
  | .cas => 1
  | .add => 2
  | .and => 3
  | .or => 4
  | .xor => 5
  | .min => 6
  | .max => 7
  | .minN => 8
  | .maxN => 9
  | .fadd => 10
  | .inc => 11
  | .dec => 12
/-- R157. -/
def MultiN.ofBits : BitVec 2 → MultiN
  | 0 => .w2
  | 1 => .w4
  | 2 => .w8
  | _ => .w16
/-- R157. -/
def MultiN.bits : MultiN → BitVec 2
  | .w2 => 0
  | .w4 => 1
  | .w8 => 2
  | .w16 => 3
/-- R395. -/
def Scope.ofBits : BitVec 2 → Scope
  | 0 => .group
  | 1 => .die
  | 2 => .package
  | _ => .system
/-- R395. -/
def Scope.bits : Scope → BitVec 2
  | .group => 0
  | .die => 1
  | .package => 2
  | .system => 3
/-- R64: op[5:4] is the width, 0 or 1. -/
def atomWidth (op : BitVec 6) : Option Bool :=
  if op.extractLsb' 4 2 = 0 then some false else if op.extractLsb' 4 2 = 1 then some true else none
/-- R64: op[3:0] is the function. -/
def atomCode (op : BitVec 6) : BitVec 4 := op.extractLsb' 0 4
/-- R146: MODE is b[5:4], J is b[1:0]; b[6] and b[3:2] are zero. -/
def CbMode.ofBits (b : BitVec 7) : Option CbMode :=
  if bTop b = 0 ∧ b.extractLsb' 2 2 = 0 then
    if b.extractLsb' 4 2 = 0 then (if aLo b = 0 then some .bs else none)
    else if b.extractLsb' 4 2 = 1 then some (.f16x2 (aLo b))
    else if b.extractLsb' 4 2 = 2 then some (.f32x2 (aLo b))
    else none
  else none
/-- R146. -/
def CbMode.bits : CbMode → BitVec 7
  | .bs => 0
  | .f16x2 j => 0#1 ++ 1#2 ++ 0#2 ++ j
  | .f32x2 j => 0#1 ++ 2#2 ++ 0#2 ++ j

/-! ### Decoding by major (R63) -/

/-- Major 0x1 of R63. -/
def decode01 (w : Word) : Option Instr :=
  match fMinor w with
  | 0 => some (.add (Dest.ofBits (fD w)) (Src.ofBits (fA w)) (Src.ofBits (fB w)) (fG w))
  | 1 => some (.addc (Dest.ofBits (fD w)) (Src.ofBits (fA w)) (Src.ofBits (fB w)) (fG w))
  | 2 => some (.sub (Dest.ofBits (fD w)) (Src.ofBits (fA w)) (Src.ofBits (fB w)) (fG w))
  | 3 => some (.subb (Dest.ofBits (fD w)) (Src.ofBits (fA w)) (Src.ofBits (fB w)) (fG w))
  | 4 => if fB w = 0 then some (.neg (Dest.ofBits (fD w)) (Src.ofBits (fA w)) (fG w)) else none
  | 5 => if fB w = 0 then some (.abs (Dest.ofBits (fD w)) (Src.ofBits (fA w)) (fG w)) else none
  | 6 => some (.min (Dest.ofBits (fD w)) (Src.ofBits (fA w)) (Src.ofBits (fB w)) (fG w))
  | 7 => some (.minN (Dest.ofBits (fD w)) (Src.ofBits (fA w)) (Src.ofBits (fB w)) (fG w))
  | 8 => some (.max (Dest.ofBits (fD w)) (Src.ofBits (fA w)) (Src.ofBits (fB w)) (fG w))
  | 9 => some (.maxN (Dest.ofBits (fD w)) (Src.ofBits (fA w)) (Src.ofBits (fB w)) (fG w))
  | 10 => some (.addsat (Dest.ofBits (fD w)) (Src.ofBits (fA w)) (Src.ofBits (fB w)) (fG w))
  | 11 => some (.addsatN (Dest.ofBits (fD w)) (Src.ofBits (fA w)) (Src.ofBits (fB w)) (fG w))
  | 12 => some (.subsat (Dest.ofBits (fD w)) (Src.ofBits (fA w)) (Src.ofBits (fB w)) (fG w))
  | 13 => some (.subsatN (Dest.ofBits (fD w)) (Src.ofBits (fA w)) (Src.ofBits (fB w)) (fG w))
  | _ => none

/-- Major 0x2 of R63. -/
def decode02 (w : Word) : Option Instr :=
  match fMinor w with
  | 0 => some (.and (Dest.ofBits (fD w)) (Src.ofBits (fA w)) (Src.ofBits (fB w)) (fG w))
  | 1 => some (.or (Dest.ofBits (fD w)) (Src.ofBits (fA w)) (Src.ofBits (fB w)) (fG w))
  | 2 => some (.xor (Dest.ofBits (fD w)) (Src.ofBits (fA w)) (Src.ofBits (fB w)) (fG w))
  | 3 => if fB w = 0 then some (.not (Dest.ofBits (fD w)) (Src.ofBits (fA w)) (fG w)) else none
  | 4 => some (.andn (Dest.ofBits (fD w)) (Src.ofBits (fA w)) (Src.ofBits (fB w)) (fG w))
  | 5 => some (.sel (Dest.ofBits (fD w)) (Src.ofBits (fA w)) (Src.ofBits (fB w)) (fG w))
  | 6 => if fB w = 0 then some (.mov (Dest.ofBits (fD w)) (Src.ofBits (fA w)) (fG w)) else none
  | _ => none

/-- Major 0x3 of R63. -/
def decode03 (w : Word) : Option Instr :=
  match fMinor w with
  | 0 => some (.shl (Dest.ofBits (fD w)) (Src.ofBits (fA w)) (Src.ofBits (fB w)) (fG w))
  | 1 => some (.shr (Dest.ofBits (fD w)) (Src.ofBits (fA w)) (Src.ofBits (fB w)) (fG w))
  | 2 => some (.sar (Dest.ofBits (fD w)) (Src.ofBits (fA w)) (Src.ofBits (fB w)) (fG w))
  | 3 => some (.rot (Dest.ofBits (fD w)) (Src.ofBits (fA w)) (Src.ofBits (fB w)) (fG w))
  | 4 => some (.fshf (Dest.ofBits (fD w)) (Src.ofBits (fA w)) (Src.ofBits (fB w)) (fG w))
  | 5 => some (.bfx (Dest.ofBits (fD w)) (Src.ofBits (fA w)) (Src.ofBits (fB w)) (fG w))
  | 6 => some (.bfxN (Dest.ofBits (fD w)) (Src.ofBits (fA w)) (Src.ofBits (fB w)) (fG w))
  | 7 => some (.bfi (Dest.ofBits (fD w)) (Src.ofBits (fA w)) (Src.ofBits (fB w)) (fG w))
  | 8 => if fB w = 0 then some (.brev (Dest.ofBits (fD w)) (Src.ofBits (fA w)) (fG w)) else none
  | 9 => if fB w = 0 then some (.popc (Dest.ofBits (fD w)) (Src.ofBits (fA w)) (fG w)) else none
  | 10 => if fB w = 0 then some (.clz (Dest.ofBits (fD w)) (Src.ofBits (fA w)) (fG w)) else none
  | 11 => if fB w = 0 then some (.ctz (Dest.ofBits (fD w)) (Src.ofBits (fA w)) (fG w)) else none
  | 12 => some (.bytep (Dest.ofBits (fD w)) (Src.ofBits (fA w)) (Src.ofBits (fB w)) (fG w))
  | _ => none

/-- Major 0x4 of R63. -/
def decode04 (w : Word) : Option Instr :=
  match fMinor w with
  | 0 => some (.mul (Dest.ofBits (fD w)) (Src.ofBits (fA w)) (Src.ofBits (fB w)) (fG w))
  | 1 => some (.mulh (Dest.ofBits (fD w)) (Src.ofBits (fA w)) (Src.ofBits (fB w)) (fG w))
  | 2 => some (.mulhN (Dest.ofBits (fD w)) (Src.ofBits (fA w)) (Src.ofBits (fB w)) (fG w))
  | 3 => some (.mulw (Dest.ofBits (fD w)) (Src.ofBits (fA w)) (Src.ofBits (fB w)) (fG w))
  | 4 => some (.mulwN (Dest.ofBits (fD w)) (Src.ofBits (fA w)) (Src.ofBits (fB w)) (fG w))
  | 5 => some (.div (Dest.ofBits (fD w)) (Src.ofBits (fA w)) (Src.ofBits (fB w)) (fG w))
  | 6 => some (.divN (Dest.ofBits (fD w)) (Src.ofBits (fA w)) (Src.ofBits (fB w)) (fG w))
  | 7 => some (.rem (Dest.ofBits (fD w)) (Src.ofBits (fA w)) (Src.ofBits (fB w)) (fG w))
  | 8 => some (.remN (Dest.ofBits (fD w)) (Src.ofBits (fA w)) (Src.ofBits (fB w)) (fG w))
  | 9 => some (.sad (Dest.ofBits (fD w)) (Src.ofBits (fA w)) (Src.ofBits (fB w)) (fG w))
  | _ => none

/-- Major 0x5 of R63. -/
def decode05 (w : Word) : Option Instr :=
  match fMinor w with
  | 0 => (Cond.ofBits (dHi (fD w))).bind fun k => some (.cmp k (dLo (fD w)) (Src.ofBits (fA w)) (Src.ofBits (fB w)) (fG w))
  | 1 => (Cond.ofBits (dHi (fD w))).bind fun k => some (.cmp64 k (dLo (fD w)) (Src.ofBits (fA w)) (Src.ofBits (fB w)) (fG w))
  | 2 => if dHi (fD w) = 0 ∧ aHi (fA w) = 0 ∧ aHi (fB w) = 0 then some (.pand (dLo (fD w)) (aLo (fA w)) (aLo (fB w)) (fG w)) else none
  | 3 => if dHi (fD w) = 0 ∧ aHi (fA w) = 0 ∧ aHi (fB w) = 0 then some (.por (dLo (fD w)) (aLo (fA w)) (aLo (fB w)) (fG w)) else none
  | 4 => if dHi (fD w) = 0 ∧ aHi (fA w) = 0 ∧ aHi (fB w) = 0 then some (.pxor (dLo (fD w)) (aLo (fA w)) (aLo (fB w)) (fG w)) else none
  | 5 => if dHi (fD w) = 0 ∧ aHi (fA w) = 0 ∧ fB w = 0 then some (.pnot (dLo (fD w)) (aLo (fA w)) (fG w)) else none
  | _ => none

/-- Major 0x6 of R63. -/
def decode06 (w : Word) : Option Instr :=
  match fMinor w with
  | 0 => some (.add64 (Dest.ofBits (fD w)) (Src.ofBits (fA w)) (Src.ofBits (fB w)) (fG w))
  | 1 => some (.sub64 (Dest.ofBits (fD w)) (Src.ofBits (fA w)) (Src.ofBits (fB w)) (fG w))
  | 2 => some (.mul64 (Dest.ofBits (fD w)) (Src.ofBits (fA w)) (Src.ofBits (fB w)) (fG w))
  | 3 => some (.shl64 (Dest.ofBits (fD w)) (Src.ofBits (fA w)) (Src.ofBits (fB w)) (fG w))
  | 4 => some (.shr64 (Dest.ofBits (fD w)) (Src.ofBits (fA w)) (Src.ofBits (fB w)) (fG w))
  | 5 => some (.sar64 (Dest.ofBits (fD w)) (Src.ofBits (fA w)) (Src.ofBits (fB w)) (fG w))
  | 6 => some (.lea (Dest.ofBits (fD w)) (Src.ofBits (fA w)) (Src.ofBits (fB w)) (fG w))
  | _ => none

/-- Major 0x7 of R63. -/
def decode07 (w : Word) : Option Instr :=
  match fMinor w with
  | 0 => some (.paddI16x2 (Dest.ofBits (fD w)) (Src.ofBits (fA w)) (Src.ofBits (fB w)) (fG w))
  | 1 => some (.psubI16x2 (Dest.ofBits (fD w)) (Src.ofBits (fA w)) (Src.ofBits (fB w)) (fG w))
  | 2 => some (.pminI16x2 (Dest.ofBits (fD w)) (Src.ofBits (fA w)) (Src.ofBits (fB w)) (fG w))
  | 3 => some (.pmaxI16x2 (Dest.ofBits (fD w)) (Src.ofBits (fA w)) (Src.ofBits (fB w)) (fG w))
  | 4 => some (.paddI8x4 (Dest.ofBits (fD w)) (Src.ofBits (fA w)) (Src.ofBits (fB w)) (fG w))
  | 5 => some (.psubI8x4 (Dest.ofBits (fD w)) (Src.ofBits (fA w)) (Src.ofBits (fB w)) (fG w))
  | 6 => some (.pminI8x4 (Dest.ofBits (fD w)) (Src.ofBits (fA w)) (Src.ofBits (fB w)) (fG w))
  | 7 => some (.pmaxI8x4 (Dest.ofBits (fD w)) (Src.ofBits (fA w)) (Src.ofBits (fB w)) (fG w))
  | _ => none

/-- Major 0x8 of R63. -/
def decode08 (w : Word) : Option Instr :=
  match fSel w with
  | 0 => some (.addi (Dest.ofBits (fD w)) (Src.ofBits (fA w)) (fImm9 w) (fIG w))
  | 1 => some (.andi (Dest.ofBits (fD w)) (Src.ofBits (fA w)) (fImm9 w) (fIG w))
  | 2 => some (.ori (Dest.ofBits (fD w)) (Src.ofBits (fA w)) (fImm9 w) (fIG w))
  | 3 => some (.xori (Dest.ofBits (fD w)) (Src.ofBits (fA w)) (fImm9 w) (fIG w))

/-- Major 0x9 of R63. -/
def decode09 (w : Word) : Option Instr :=
  match fSel w with
  | 0 => some (.shli (Dest.ofBits (fD w)) (Src.ofBits (fA w)) (fImm9 w) (fIG w))
  | 1 => some (.shri (Dest.ofBits (fD w)) (Src.ofBits (fA w)) (fImm9 w) (fIG w))
  | 2 => some (.sari (Dest.ofBits (fD w)) (Src.ofBits (fA w)) (fImm9 w) (fIG w))
  | 3 => (Cond.ofBits (dHi (fD w))).bind fun k => some (.cmpi k (dLo (fD w)) (Src.ofBits (fA w)) (fImm9 w) (fIG w))

/-- Major 0xa of R63. -/
def decode0A (w : Word) : Option Instr :=
  if fA w = 0 then some (.movi (Dest.ofBits (fD w)) (fImm11 w) (fIG w)) else none

/-- Major 0xb of R63. -/
def decode0B (w : Word) : Option Instr :=
  if fA w = 0 then some (.leai (Dest.ofBits (fD w)) (fImm11 w) (fIG w)) else none

/-- Major 0xc of R63. -/
def decode0C (w : Word) : Option Instr :=
  some (.mad (Dest.ofBits (fD w)) (Src.ofBits (fA w)) (Src.ofBits (fB w)) (Src3.ofBits (fC w)))

/-- Major 0xd of R63. -/
def decode0D (uns : Bool) (w : Word) : Option Instr :=
  if uns then some (.madwN (Dest.ofBits (fD w)) (Src.ofBits (fA w)) (Src.ofBits (fB w)) (Src3.ofBits (fC w)))
  else some (.madw (Dest.ofBits (fD w)) (Src.ofBits (fA w)) (Src.ofBits (fB w)) (Src3.ofBits (fC w)))

/-- Major 0xe of R63. -/
def decode0E (uns : Bool) (w : Word) : Option Instr :=
  if uns then some (.dp4aN (Dest.ofBits (fD w)) (Src.ofBits (fA w)) (Src.ofBits (fB w)) (Src3.ofBits (fC w)))
  else some (.dp4a (Dest.ofBits (fD w)) (Src.ofBits (fA w)) (Src.ofBits (fB w)) (Src3.ofBits (fC w)))

/-- Major 0x10 of R63. -/
def decode10 (w : Word) : Option Instr :=
  match fMinor w with
  | 0 => some (.fadd (Dest.ofBits (fD w)) (Src.ofBits (fA w)) (Src.ofBits (fB w)) (fG w))
  | 1 => some (.fsub (Dest.ofBits (fD w)) (Src.ofBits (fA w)) (Src.ofBits (fB w)) (fG w))
  | 2 => some (.fmul (Dest.ofBits (fD w)) (Src.ofBits (fA w)) (Src.ofBits (fB w)) (fG w))
  | 3 => some (.fmin (Dest.ofBits (fD w)) (Src.ofBits (fA w)) (Src.ofBits (fB w)) (fG w))
  | 4 => some (.fmax (Dest.ofBits (fD w)) (Src.ofBits (fA w)) (Src.ofBits (fB w)) (fG w))
  | 5 => if fB w = 0 then some (.fabs (Dest.ofBits (fD w)) (Src.ofBits (fA w)) (fG w)) else none
  | 6 => if fB w = 0 then some (.fneg (Dest.ofBits (fD w)) (Src.ofBits (fA w)) (fG w)) else none
  | 7 => if fB w = 0 then some (.frnd (Dest.ofBits (fD w)) (Src.ofBits (fA w)) (fG w)) else none
  | 8 => some (.fscale (Dest.ofBits (fD w)) (Src.ofBits (fA w)) (Src.ofBits (fB w)) (fG w))
  | _ => none

/-- Major 0x11 of R63. -/
def decode11 (w : Word) : Option Instr :=
  match fMinor w with
  | 0 => some (.faddF64 (Dest.ofBits (fD w)) (Src.ofBits (fA w)) (Src.ofBits (fB w)) (fG w))
  | 1 => some (.fsubF64 (Dest.ofBits (fD w)) (Src.ofBits (fA w)) (Src.ofBits (fB w)) (fG w))
  | 2 => some (.fmulF64 (Dest.ofBits (fD w)) (Src.ofBits (fA w)) (Src.ofBits (fB w)) (fG w))
  | 3 => some (.fminF64 (Dest.ofBits (fD w)) (Src.ofBits (fA w)) (Src.ofBits (fB w)) (fG w))
  | 4 => some (.fmaxF64 (Dest.ofBits (fD w)) (Src.ofBits (fA w)) (Src.ofBits (fB w)) (fG w))
  | 5 => if fB w = 0 then some (.fabsF64 (Dest.ofBits (fD w)) (Src.ofBits (fA w)) (fG w)) else none
  | 6 => if fB w = 0 then some (.fnegF64 (Dest.ofBits (fD w)) (Src.ofBits (fA w)) (fG w)) else none
  | 7 => if fB w = 0 then some (.frndF64 (Dest.ofBits (fD w)) (Src.ofBits (fA w)) (fG w)) else none
  | 8 => some (.fscaleF64 (Dest.ofBits (fD w)) (Src.ofBits (fA w)) (Src.ofBits (fB w)) (fG w))
  | _ => none

/-- Major 0x12 of R63. -/
def decode12 (w : Word) : Option Instr :=
  match fMinor w with
  | 0 => some (.pfaddF16x2 (Dest.ofBits (fD w)) (Src.ofBits (fA w)) (Src.ofBits (fB w)) (fG w))
  | 1 => some (.pfsubF16x2 (Dest.ofBits (fD w)) (Src.ofBits (fA w)) (Src.ofBits (fB w)) (fG w))
  | 2 => some (.pfmulF16x2 (Dest.ofBits (fD w)) (Src.ofBits (fA w)) (Src.ofBits (fB w)) (fG w))
  | 3 => some (.pfminF16x2 (Dest.ofBits (fD w)) (Src.ofBits (fA w)) (Src.ofBits (fB w)) (fG w))
  | 4 => some (.pfmaxF16x2 (Dest.ofBits (fD w)) (Src.ofBits (fA w)) (Src.ofBits (fB w)) (fG w))
  | _ => none

/-- Major 0x13 of R63. -/
def decode13 (w : Word) : Option Instr :=
  match fMinor w with
  | 0 => (FCond.ofBits (dHi (fD w))).bind fun k => some (.fcmpF32 k (dLo (fD w)) (Src.ofBits (fA w)) (Src.ofBits (fB w)) (fG w))
  | 1 => (FCond.ofBits (dHi (fD w))).bind fun k => some (.fcmpF64 k (dLo (fD w)) (Src.ofBits (fA w)) (Src.ofBits (fB w)) (fG w))
  | 2 => if fB w = 0 then (FClass.ofBits (dHi (fD w))).bind fun k => some (.fclassF32 k (dLo (fD w)) (Src.ofBits (fA w)) (fG w)) else none
  | 3 => if fB w = 0 then (FClass.ofBits (dHi (fD w))).bind fun k => some (.fclassF64 k (dLo (fD w)) (Src.ofBits (fA w)) (fG w)) else none
  | _ => none

/-- Major 0x14 of R63. -/
def decode14 (w : Word) : Option Instr :=
  match fMinor w with
  | 0 => some (.fdiv (Dest.ofBits (fD w)) (Src.ofBits (fA w)) (Src.ofBits (fB w)) (fG w))
  | 1 => some (.fdivF64 (Dest.ofBits (fD w)) (Src.ofBits (fA w)) (Src.ofBits (fB w)) (fG w))
  | 2 => if fB w = 0 then some (.fsqrt (Dest.ofBits (fD w)) (Src.ofBits (fA w)) (fG w)) else none
  | 3 => if fB w = 0 then some (.fsqrtF64 (Dest.ofBits (fD w)) (Src.ofBits (fA w)) (fG w)) else none
  | 4 => if fB w = 0 then some (.frcp (Dest.ofBits (fD w)) (Src.ofBits (fA w)) (fG w)) else none
  | 5 => if fB w = 0 then some (.frsq (Dest.ofBits (fD w)) (Src.ofBits (fA w)) (fG w)) else none
  | 6 => if fB w = 0 then some (.fexp2 (Dest.ofBits (fD w)) (Src.ofBits (fA w)) (fG w)) else none
  | 7 => if fB w = 0 then some (.flog2 (Dest.ofBits (fD w)) (Src.ofBits (fA w)) (fG w)) else none
  | 8 => if fB w = 0 then some (.fsin (Dest.ofBits (fD w)) (Src.ofBits (fA w)) (fG w)) else none
  | 9 => if fB w = 0 then some (.fcos (Dest.ofBits (fD w)) (Src.ofBits (fA w)) (fG w)) else none
  | _ => none

/-- Major 0x15 of R63. -/
def decode15 (w : Word) : Option Instr :=
  match fMinor w with
  | 0 => if bTop (fB w) = 0 then (FFmt.ofBits (bFrom (fB w))).bind fun f => (FFmt.ofBits (bTo (fB w))).bind fun t => some (.cvt (Dest.ofBits (fD w)) (Src.ofBits (fA w)) f t (fG w)) else none
  | 1 => if bTop (fB w) = 0 then (FFmt.ofBits (bFrom (fB w))).bind fun f => (IFmt.ofBits (bTo (fB w))).bind fun t => some (.cvti (Dest.ofBits (fD w)) (Src.ofBits (fA w)) f t (fG w)) else none
  | 2 => if bTop (fB w) = 0 then (IFmt.ofBits (bFrom (fB w))).bind fun f => (FFmt.ofBits (bTo (fB w))).bind fun t => some (.cvtf (Dest.ofBits (fD w)) (Src.ofBits (fA w)) f t (fG w)) else none
  | _ => none

/-- Major 0x16 of R63. -/
def decode16 (w : Word) : Option Instr :=
  match fMinor w with
  | 0 => if bTop (fB w) = 0 ∧ bMid (fB w) = 0 then some (.pack8 (Dest.ofBits (fD w)) (Src.ofBits (fA w)) (bBit5 (fB w)) (bBit4 (fB w)) (bBit0 (fB w)) (fG w)) else none
  | 1 => if bTop (fB w) = 0 ∧ bMid (fB w) = 0 then some (.unpack8 (Dest.ofBits (fD w)) (Src.ofBits (fA w)) (bBit5 (fB w)) (bBit4 (fB w)) (bBit0 (fB w)) (fG w)) else none
  | 2 => (CbMode.ofBits (fB w)).bind fun m => some (.cbdec (Dest.ofBits (fD w)) (Src.ofBits (fA w)) m (fG w))
  | _ => none

/-- Major 0x18 of R63. -/
def decode18 (w : Word) : Option Instr :=
  some (.fmaF32 (Dest.ofBits (fD w)) (Src.ofBits (fA w)) (Src.ofBits (fB w)) (Src3.ofBits (fC w)))

/-- Major 0x19 of R63. -/
def decode19 (w : Word) : Option Instr :=
  some (.fmaF64 (Dest.ofBits (fD w)) (Src.ofBits (fA w)) (Src.ofBits (fB w)) (Src3.ofBits (fC w)))

/-- Major 0x1a of R63. -/
def decode1A (w : Word) : Option Instr :=
  some (.pfmaF16x2 (Dest.ofBits (fD w)) (Src.ofBits (fA w)) (Src.ofBits (fB w)) (Src3.ofBits (fC w)))

/-- Major 0x20 of R63. -/
def decode20 (w : Word) : Option Instr :=
  (LdFmt.ofBits (fFmt w)).bind fun f => some (.ld (Dest.ofBits (fD w)) (Src.ofBits (fA w)) (fOff9 w) f)

/-- Major 0x21 of R63. -/
def decode21 (w : Word) : Option Instr :=
  (StFmt.ofBits (fFmt w)).bind fun f => some (.st (Dest.ofBits (fD w)) (Src.ofBits (fA w)) (fOff9 w) f)

/-- Major 0x22 of R63. -/
def decode22 (w : Word) : Option Instr :=
  (TFmt.ofBits (fFmt w)).bind fun f => some (.ldt (Dest.ofBits (fD w)) (Src.ofBits (fA w)) (fOff9 w) f)

/-- Major 0x23 of R63. -/
def decode23 (w : Word) : Option Instr :=
  (TFmt.ofBits (fFmt w)).bind fun f => some (.stt (Dest.ofBits (fD w)) (Src.ofBits (fA w)) (fOff9 w) f)

/-- Major 0x24 of R63. -/
def decode24 (w : Word) : Option Instr :=
  if fmtBit1 (fFmt w) = 0 then (LdsForm.ofBits (fmtHi (fFmt w))).bind fun f => some (.lds (Dest.ofBits (fD w)) (Src.ofBits (fA w)) (fOff9 w) f (fmtBit0 (fFmt w))) else none

/-- Major 0x25 of R63. -/
def decode25 (w : Word) : Option Instr :=
  if fmtBit1 (fFmt w) = 0 then (StsForm.ofBits (fmtHi (fFmt w))).bind fun f => some (.sts (Dest.ofBits (fD w)) (Src.ofBits (fA w)) (fOff9 w) f (fmtBit0 (fFmt w))) else none

/-- Major 0x26 of R63. -/
def decode26 (w : Word) : Option Instr :=
  match fmtHi (fFmt w) with
  | 0 => some (.ldm (Dest.ofBits (fD w)) (Src.ofBits (fA w)) (fOff9 w) (MultiN.ofBits (fmtLo (fFmt w))))
  | 1 => some (.stm (Dest.ofBits (fD w)) (Src.ofBits (fA w)) (fOff9 w) (MultiN.ofBits (fmtLo (fFmt w))))
  | 2 => if fD w = 0 then (PrefLevel.ofBits (fmtLo (fFmt w))).bind fun l => some (.pref (Src.ofBits (fA w)) (fOff9 w) l) else none
  | _ => none

/-- Major 0x30 of R63. -/
def decode30 (w : Word) : Option Instr :=
  match fMinor w with
  | 0 => if dHi (fD w) = 0 ∧ aHi (fA w) = 0 then some (.voteOr (dLo (fD w)) (aLo (fA w)) (Src.ofBits (fB w)) (fG w)) else none
  | 1 => if dHi (fD w) = 0 ∧ aHi (fA w) = 0 then some (.voteAnd (dLo (fD w)) (aLo (fA w)) (Src.ofBits (fB w)) (fG w)) else none
  | 2 => if dHi (fD w) = 0 ∧ aHi (fA w) = 0 then some (.voteEq (dLo (fD w)) (aLo (fA w)) (Src.ofBits (fB w)) (fG w)) else none
  | 3 => if aHi (fA w) = 0 then some (.ballot (Dest.ofBits (fD w)) (aLo (fA w)) (Src.ofBits (fB w)) (fG w)) else none
  | 4 => if dHi (fD w) = 0 ∧ fA w = 0 then some (.elect (dLo (fD w)) (Src.ofBits (fB w)) (fG w)) else none
  | 5 => some (.matchL (Dest.ofBits (fD w)) (Src.ofBits (fA w)) (Src.ofBits (fB w)) (fG w))
  | 6 => if aHi (fA w) = 0 then some (.voteCnt (Dest.ofBits (fD w)) (aLo (fA w)) (Src.ofBits (fB w)) (fG w)) else none
  | _ => none

/-- Major 0x31 of R63. -/
def decode31 (w : Word) : Option Instr :=
  match fMinor w with
  | 0 => some (.shflIdx (Dest.ofBits (fD w)) (Src.ofBits (fA w)) (Src.ofBits (fB w)) (fG w))
  | 1 => some (.shflUp (Dest.ofBits (fD w)) (Src.ofBits (fA w)) (Src.ofBits (fB w)) (fG w))
  | 2 => some (.shflDn (Dest.ofBits (fD w)) (Src.ofBits (fA w)) (Src.ofBits (fB w)) (fG w))
  | 3 => some (.shflXor (Dest.ofBits (fD w)) (Src.ofBits (fA w)) (Src.ofBits (fB w)) (fG w))
  | 4 => if fB w = 0 then some (.redgAdd (Dest.ofBits (fD w)) (Src.ofBits (fA w)) (fG w)) else none
  | 5 => if fB w = 0 then some (.redgMin (Dest.ofBits (fD w)) (Src.ofBits (fA w)) (fG w)) else none
  | 6 => if fB w = 0 then some (.redgMinN (Dest.ofBits (fD w)) (Src.ofBits (fA w)) (fG w)) else none
  | 7 => if fB w = 0 then some (.redgMax (Dest.ofBits (fD w)) (Src.ofBits (fA w)) (fG w)) else none
  | 8 => if fB w = 0 then some (.redgMaxN (Dest.ofBits (fD w)) (Src.ofBits (fA w)) (fG w)) else none
  | 9 => if fB w = 0 then some (.redgAnd (Dest.ofBits (fD w)) (Src.ofBits (fA w)) (fG w)) else none
  | 10 => if fB w = 0 then some (.redgOr (Dest.ofBits (fD w)) (Src.ofBits (fA w)) (fG w)) else none
  | 11 => if fB w = 0 then some (.redgXor (Dest.ofBits (fD w)) (Src.ofBits (fA w)) (fG w)) else none
  | 12 => if fB w = 0 then some (.redgFadd (Dest.ofBits (fD w)) (Src.ofBits (fA w)) (fG w)) else none
  | 13 => if fB w = 0 then some (.scangAdd (Dest.ofBits (fD w)) (Src.ofBits (fA w)) (fG w)) else none
  | 14 => if fB w = 0 then some (.scangAddx (Dest.ofBits (fD w)) (Src.ofBits (fA w)) (fG w)) else none
  | _ => none

/-- Major 0x27 of R63 (R258). -/
def decode27 (w : Word) : Option Instr :=
  (atomWidth (fC w)).bind fun x => (AtomFn.ofBits (atomCode (fC w))).bind fun n =>
    some (.atoms (Dest.ofBits (fD w)) (Src.ofBits (fA w)) (Src.ofBits (fB w)) x n)

/-- Major 0x28 of R63 (R410). -/
def decode28 (w : Word) : Option Instr :=
  (atomWidth (fC w)).bind fun x => (AtomFn.ofBits (atomCode (fC w))).bind fun n =>
    some (.atom (Dest.ofBits (fD w)) (Src.ofBits (fA w)) (Src.ofBits (fB w)) x n)

/-- Major 0x29 of R63 (R410); functions SWP and CAS are unassigned (R64). -/
def decode29 (w : Word) : Option Instr :=
  if fD w = 0 then
    (atomWidth (fC w)).bind fun x => (AtomFn.ofBits (atomCode (fC w))).bind fun n =>
      if n = .swp ∨ n = .cas then none else some (.red (Src.ofBits (fA w)) (Src.ofBits (fB w)) x n)
  else none

/-- Major 0x2A of R63 (R243, R318, R395): with ALL = 1 the a field is zero. -/
def decode2A (w : Word) : Option Instr :=
  if fB w = 0 then
    if (fD w).extractLsb' 3 3 = 0 ∧ ((fD w).getLsbD 2 = true → fA w = 0) then
      match fC w with
      | 0 => some (.acq ((fD w).getLsbD 2) (Scope.ofBits (dLo (fD w))) (Src.ofBits (fA w)))
      | 1 => some (.rel ((fD w).getLsbD 2) (Scope.ofBits (dLo (fD w))) (Src.ofBits (fA w)))
      | 2 => some (.fence ((fD w).getLsbD 2) (Scope.ofBits (dLo (fD w))) (Src.ofBits (fA w)))
      | 3 => if fD w = 0 ∧ fA w = 0 then some .gfence else none
      | 4 => if fD w = 0 ∧ fA w = 0 then some .ebdr else none
      | _ => none
    else none
  else none

/-- Major 0x2C of R63 (R164). -/
def decode2C (w : Word) : Option Instr :=
  match fKind w with
  | 0 => some (.bra (fBG w) (fOff21 w))
  | 1 => some (.brc (fBG w) (fOff21 w))
  | 2 => some (.call (fBG w) (fOff21 w))
  | _ => none

/-- Major 0x2D of R65. -/
def decode2D (w : Word) : Option Instr :=
  match fKind w with
  | 0 => if fBG w = 0 then some (.join (fOff21 w)) else none
  | 1 => if (fOff21 w).extractLsb' 3 1 = 0 then
      some (.brk (fBG w) ((fOff21 w).extractLsb' 4 17) ((fOff21 w).extractLsb' 0 3)) else none
  | 2 => if (fOff21 w).extractLsb' 20 1 = 0 ∧ fB w = 0 ∧ fC w = 0 then
      some (.ret (fBG w) (Src.ofBits (fA w))) else none
  | 3 => if (fOff21 w).extractLsb' 20 1 = 0 ∧ fB w = 0 ∧ fC w = 0 then
      some (.jmpr (fBG w) (Src.ofBits (fA w))) else none
  | 4 => if fOff21 w = 0 then some (.exit (fBG w)) else none
  | _ => none

/-- Major 0x32 of R63 (R244-R246). -/
def decode32 (w : Word) : Option Instr :=
  match fC w with
  | 0 =>
    if fD w = 0 ∧ fA w = 0 ∧ fB w = 0 then some .reform
    else if fD w = 1 ∧ fB w = 0 then some (.reformAge (Src.ofBits (fA w)))
    else none
  | 1 =>
    if w.extractLsb' 6 1 = 0 ∧ (w.extractLsb' 7 5).toNat < 28 then
      some (.rgn (w.extractLsb' 17 9) (w.extractLsb' 12 5) (w.extractLsb' 7 5))
    else none
  | 2 => if (fD w).extractLsb' 3 3 = 0 ∧ fB w = 0 then
      some (.view ((fD w).extractLsb' 0 3) (Src.ofBits (fA w))) else none
  | _ => none

/-- Major 0x33 of R63 (R248). -/
def decode33 (w : Word) : Option Instr :=
  match fC w with
  | 0 => some (.recruit (Dest.ofBits (fD w)) (Src.ofBits (fA w)) (Src.ofBits (fB w)))
  | 1 => if fA w = 0 ∧ fB w = 0 then some (.hwait (Dest.ofBits (fD w))) else none
  | 2 => if fD w = 0 ∧ fA w = 0 ∧ fB w = 0 then some .hdone else none
  | _ => none

/-- The barrier number d[3:0] of R263. -/
def dBar (d : BitVec 6) : BitVec 4 := d.extractLsb' 0 4
/-- Bits d[5:4] of R263: d[5] is zero and d[4] is C. -/
def dBarC (d : BitVec 6) : BitVec 2 := d.extractLsb' 4 2

/-- Major 0x34 of R63 (R263). -/
def decode34 (w : Word) : Option Instr :=
  if fB w = 0 then
    match fC w with
    | 0 => if dBarC (fD w) = 0 then some (.barInit (dBar (fD w)) (Src.ofBits (fA w))) else none
    | 1 =>
      if dBarC (fD w) = 0 ∧ fA w = 0 then some (.barArv (dBar (fD w)))
      else if dBarC (fD w) = 1 then some (.barArvCount (dBar (fD w)) (Src.ofBits (fA w)))
      else none
    | 2 =>
      if dBarC (fD w) = 0 ∧ fA w = 0 then some (.barSyn (dBar (fD w)))
      else if dBarC (fD w) = 1 then some (.barSynCount (dBar (fD w)) (Src.ofBits (fA w)))
      else none
    | 3 => if dBarC (fD w) = 0 ∧ fA w = 0 then some (.barWt (dBar (fD w))) else none
    | 4 => if dBarC (fD w) = 0 ∧ fA w = 0 then some (.barDrp (dBar (fD w))) else none
    | 5 => if fD w = 0 ∧ fA w = 0 then some .gbar else if fD w = 1 ∧ fA w = 0 then some .gbarT else none
    | _ => none
  else none

/-- Major 0x35 of R63 (R262). -/
def decode35 (w : Word) : Option Instr :=
  if fD w = 0 then
    match fC w with
    | 0 => some (.tagF (Src.ofBits (fA w)) (Src.ofBits (fB w)))
    | 1 => some (.tagE (Src.ofBits (fA w)) (Src.ofBits (fB w)))
    | 2 => some (.prsw (Src.ofBits (fA w)) (Src.ofBits (fB w)))
    | _ => none
  else none

/-- Major 0x38 of R63 (R327). -/
def decode38 (w : Word) : Option Instr :=
  if dHi (fD w) = 0 ∧ fB w = 0 then
    match fC w with
    | 0 => some (.cpy (dLo (fD w)) (Src.ofBits (fA w)))
    | 1 => some (.zro (dLo (fD w)) (Src.ofBits (fA w)))
    | _ => none
  else none

/-- Major 0x39 of R63 (R330). -/
def decode39 (w : Word) : Option Instr :=
  if dHi (fD w) = 0 ∧ fB w = 0 then
    match fC w with
    | 0 => some (.gth (dLo (fD w)) (Src.ofBits (fA w)))
    | 1 => some (.sca (dLo (fD w)) (Src.ofBits (fA w)))
    | _ => none
  else none

/-- Major 0x3A of R63 (R334): a queue mask of 0 is unassigned. -/
def decode3A (w : Word) : Option Instr :=
  if fB w = 0 then
    match fC w with
    | 0 => if dBarC (fD w) = 0 ∧ fA w = 0 ∧ dBar (fD w) ≠ 0 then some (.qfnc (dBar (fD w))) else none
    | 1 => if dBarC (fD w) = 0 ∧ fA w = 0 ∧ dBar (fD w) ≠ 0 then some (.qwt (dBar (fD w))) else none
    | 2 => if fD w = 0 then some (.fetchw (Src.ofBits (fA w))) else none
    | _ => none
  else none

/-- Major 0x3B of R63 (R340): the class and pop bits of APPEND's b stay in the word, and cause 0x02 answers for them. -/
def decode3B (w : Word) : Option Instr :=
  match fC w with
  | 0 => if dHi (fD w) = 0 ∧ dLo (fD w) ≠ 3 then
      some (.append (dLo (fD w)) (Src.ofBits (fA w)) (Src.ofBits (fB w))) else none
  | 1 => if fB w = 0 then some (.take (Dest.ofBits (fD w)) (Src.ofBits (fA w))) else none
  | 2 => if fD w = 0 ∧ fB w = 0 then some (.quies (Src.ofBits (fA w))) else none
  | _ => none

/-- Major 0x3C of R63 (R168, R374, R372, R458). -/
def decode3C (w : Word) : Option Instr :=
  match fC w with
  | 0 => if fD w = 0 then some (.trap (fA w ++ fB w)) else none
  | 1 => if fD w = 0 then some (.sysc (fA w ++ fB w)) else none
  | 2 => if fD w = 0 then some (.syscTry (fA w ++ fB w)) else none
  | 3 => if fA w = 0 then some (.rdsr (Dest.ofBits (fD w)) (fB w)) else none
  | 4 => if fD w = 0 then some (.wrsr (Src.ofBits (fA w)) (fB w)) else none
  | 5 =>
    if fD w = 0 ∧ fA w = 0 ∧ fB w = 0 then some .rte
    else if fD w = 1 then some (.rteGrp (Src.ofBits (fA w)) (Src.ofBits (fB w)))
    else none
  | 6 => if fD w = 0 ∧ fA w = 0 ∧ fB w = 0 then some .yield else none
  | 7 => if fD w = 0 ∧ fB w = 0 then some (.sleep (Src.ofBits (fA w))) else none
  | 8 =>
    if fB w = 0 then some (.locq (Dest.ofBits (fD w)) (Src.ofBits (fA w)))
    else if fB w = 1 then some (.locqPa (Dest.ofBits (fD w)) (Src.ofBits (fA w)))
    else none
  | 9 => if fB w = 0 then some (.ptupd (Dest.ofBits (fD w)) (Src.ofBits (fA w))) else none
  | 10 => some (.rclm (Dest.ofBits (fD w)) (Src.ofBits (fA w)) (Src.ofBits (fB w)))
  | _ => none

/-- Major 0x3E of R63 (R275, R291). -/
def decode3E (w : Word) : Option Instr :=
  match fC w with
  | 0 => if fD w = 0 ∧ fB w = 0 then some (.mxCfg (Src.ofBits (fA w))) else none
  | 1 => if (fD w).extractLsb' 1 5 = 0 then
      some (.mxLdb ((fD w).getLsbD 0) (Src.ofBits (fA w)) (Src.ofBits (fB w))) else none
  | 2 => if dHi (fD w) = 0 ∧ fB w = 0 then
      some (.mxMma ((fD w).getLsbD 1) ((fD w).getLsbD 0) (Src.ofBits (fA w))) else none
  | 3 => if fD w = 0 ∧ fB w = 0 then some (.mxZero (Src.ofBits (fA w))) else none
  | 4 => if (fA w).extractLsb' 1 6 = 0 ∧ fB w = 0 then
      some (.mxZsk (Dest.ofBits (fD w)) ((fA w).getLsbD 0)) else none
  | 5 =>
    if fD w = 0 ∧ fA w = 0 ∧ fB w = 0 then some .mxDrain
    else if (fD w).extractLsb' 4 2 = 0 ∧ (fD w).getLsbD 3 = true ∧ fB w = 0 then
      some (.mxDrainConv ((fD w).extractLsb' 0 3) (Src.ofBits (fA w)))
    else none
  | 6 => if (fD w).extractLsb' 3 3 = 0 ∧ fB w = 0 then
      some (.qpush ((fD w).getLsbD 2) (dLo (fD w)) (Src.ofBits (fA w))) else none
  | _ => none

/-- Major 0x3F of R63 (R56-R60). -/
def decode3F (w : Word) : Option Instr :=
  match fHKind w with
  | 0 => some (.limm (fPayload w))
  | 1 => some (.pfx ((fPayload w).extractLsb' 20 2) ((fPayload w).extractLsb' 17 3) ((fPayload w).extractLsb' 14 3)
      ((fPayload w).extractLsb' 12 2) ((fPayload w).getLsbD 11) ((fPayload w).getLsbD 10) ((fPayload w).extractLsb' 0 10))
  | 2 => some (.sch ((fPayload w).extractLsb' 20 2) ((fPayload w).getLsbD 19) ((fPayload w).extractLsb' 13 6)
      ((fPayload w).extractLsb' 0 13))
  | _ => none

/-- The instruction a word holds (R63), or nothing. `uns` is the UNS bit of the PFX in the word's hint run, which
selects MADW.N and DP4A.N (R58). -/
def decode (uns : Bool) (w : Word) : Option Instr :=
  match fMajor w with
  | 0x01 => decode01 w
  | 0x02 => decode02 w
  | 0x03 => decode03 w
  | 0x04 => decode04 w
  | 0x05 => decode05 w
  | 0x06 => decode06 w
  | 0x07 => decode07 w
  | 0x08 => decode08 w
  | 0x09 => decode09 w
  | 0x0A => decode0A w
  | 0x0B => decode0B w
  | 0x0C => decode0C w
  | 0x0D => decode0D uns w
  | 0x0E => decode0E uns w
  | 0x10 => decode10 w
  | 0x11 => decode11 w
  | 0x12 => decode12 w
  | 0x13 => decode13 w
  | 0x14 => decode14 w
  | 0x15 => decode15 w
  | 0x16 => decode16 w
  | 0x18 => decode18 w
  | 0x19 => decode19 w
  | 0x1A => decode1A w
  | 0x20 => decode20 w
  | 0x21 => decode21 w
  | 0x22 => decode22 w
  | 0x23 => decode23 w
  | 0x24 => decode24 w
  | 0x25 => decode25 w
  | 0x26 => decode26 w
  | 0x27 => decode27 w
  | 0x28 => decode28 w
  | 0x29 => decode29 w
  | 0x2A => decode2A w
  | 0x2C => decode2C w
  | 0x2D => decode2D w
  | 0x30 => decode30 w
  | 0x31 => decode31 w
  | 0x32 => decode32 w
  | 0x33 => decode33 w
  | 0x34 => decode34 w
  | 0x35 => decode35 w
  | 0x38 => decode38 w
  | 0x39 => decode39 w
  | 0x3A => decode3A w
  | 0x3B => decode3B w
  | 0x3C => decode3C w
  | 0x3E => decode3E w
  | 0x3F => decode3F w
  | _ => none

/-! ### Encoding -/

/-- Format A (R48). -/
def packA (m d : BitVec 6) (a b : BitVec 7) (g : BitVec 2) (minor : BitVec 4) : Word := m ++ d ++ a ++ b ++ g ++ minor
/-- Formats F and E (R48). -/
def packF (m d : BitVec 6) (a b : BitVec 7) (c : BitVec 6) : Word := m ++ d ++ a ++ b ++ c
/-- Format I (R48). -/
def packI (m d : BitVec 6) (a : BitVec 7) (i : BitVec 11) (g : BitVec 2) : Word := m ++ d ++ a ++ i ++ g
/-- Format M (R48). -/
def packM (m d : BitVec 6) (a : BitVec 7) (o : BitVec 9) (f : BitVec 4) : Word := m ++ d ++ a ++ o ++ f
/-- Format B (R48). -/
def packB (m : BitVec 6) (g : BitVec 2) (k : BitVec 3) (o : BitVec 21) : Word := m ++ g ++ k ++ o
/-- Format H (R48). -/
def packH (k : BitVec 4) (p : BitVec 22) : Word := 0x3F#6 ++ k ++ p

/-- The word of an instruction, from the same tables. The rows of the table that are steps and no words encode to
nothing. -/
def encode : Instr → Option Word
  | .add d a b g => some (packA 0x1 d.bits a.bits b.bits g 0)
  | .addc d a b g => some (packA 0x1 d.bits a.bits b.bits g 1)
  | .sub d a b g => some (packA 0x1 d.bits a.bits b.bits g 2)
  | .subb d a b g => some (packA 0x1 d.bits a.bits b.bits g 3)
  | .neg d a g => some (packA 0x1 d.bits a.bits 0 g 4)
  | .abs d a g => some (packA 0x1 d.bits a.bits 0 g 5)
  | .min d a b g => some (packA 0x1 d.bits a.bits b.bits g 6)
  | .minN d a b g => some (packA 0x1 d.bits a.bits b.bits g 7)
  | .max d a b g => some (packA 0x1 d.bits a.bits b.bits g 8)
  | .maxN d a b g => some (packA 0x1 d.bits a.bits b.bits g 9)
  | .addsat d a b g => some (packA 0x1 d.bits a.bits b.bits g 10)
  | .addsatN d a b g => some (packA 0x1 d.bits a.bits b.bits g 11)
  | .subsat d a b g => some (packA 0x1 d.bits a.bits b.bits g 12)
  | .subsatN d a b g => some (packA 0x1 d.bits a.bits b.bits g 13)
  | .and d a b g => some (packA 0x2 d.bits a.bits b.bits g 0)
  | .or d a b g => some (packA 0x2 d.bits a.bits b.bits g 1)
  | .xor d a b g => some (packA 0x2 d.bits a.bits b.bits g 2)
  | .not d a g => some (packA 0x2 d.bits a.bits 0 g 3)
  | .andn d a b g => some (packA 0x2 d.bits a.bits b.bits g 4)
  | .sel d a b g => some (packA 0x2 d.bits a.bits b.bits g 5)
  | .mov d a g => some (packA 0x2 d.bits a.bits 0 g 6)
  | .shl d a b g => some (packA 0x3 d.bits a.bits b.bits g 0)
  | .shr d a b g => some (packA 0x3 d.bits a.bits b.bits g 1)
  | .sar d a b g => some (packA 0x3 d.bits a.bits b.bits g 2)
  | .rot d a b g => some (packA 0x3 d.bits a.bits b.bits g 3)
  | .fshf d a b g => some (packA 0x3 d.bits a.bits b.bits g 4)
  | .bfx d a b g => some (packA 0x3 d.bits a.bits b.bits g 5)
  | .bfxN d a b g => some (packA 0x3 d.bits a.bits b.bits g 6)
  | .bfi d a b g => some (packA 0x3 d.bits a.bits b.bits g 7)
  | .brev d a g => some (packA 0x3 d.bits a.bits 0 g 8)
  | .popc d a g => some (packA 0x3 d.bits a.bits 0 g 9)
  | .clz d a g => some (packA 0x3 d.bits a.bits 0 g 10)
  | .ctz d a g => some (packA 0x3 d.bits a.bits 0 g 11)
  | .bytep d a b g => some (packA 0x3 d.bits a.bits b.bits g 12)
  | .mul d a b g => some (packA 0x4 d.bits a.bits b.bits g 0)
  | .mulh d a b g => some (packA 0x4 d.bits a.bits b.bits g 1)
  | .mulhN d a b g => some (packA 0x4 d.bits a.bits b.bits g 2)
  | .mulw d a b g => some (packA 0x4 d.bits a.bits b.bits g 3)
  | .mulwN d a b g => some (packA 0x4 d.bits a.bits b.bits g 4)
  | .div d a b g => some (packA 0x4 d.bits a.bits b.bits g 5)
  | .divN d a b g => some (packA 0x4 d.bits a.bits b.bits g 6)
  | .rem d a b g => some (packA 0x4 d.bits a.bits b.bits g 7)
  | .remN d a b g => some (packA 0x4 d.bits a.bits b.bits g 8)
  | .sad d a b g => some (packA 0x4 d.bits a.bits b.bits g 9)
  | .cmp k p a b g => some (packA 0x5 (k.bits ++ p) a.bits b.bits g 0)
  | .cmp64 k p a b g => some (packA 0x5 (k.bits ++ p) a.bits b.bits g 1)
  | .pand p q r g => some (packA 0x5 (0#4 ++ p) (0#5 ++ q) (0#5 ++ r) g 2)
  | .por p q r g => some (packA 0x5 (0#4 ++ p) (0#5 ++ q) (0#5 ++ r) g 3)
  | .pxor p q r g => some (packA 0x5 (0#4 ++ p) (0#5 ++ q) (0#5 ++ r) g 4)
  | .pnot p q g => some (packA 0x5 (0#4 ++ p) (0#5 ++ q) 0 g 5)
  | .add64 d a b g => some (packA 0x6 d.bits a.bits b.bits g 0)
  | .sub64 d a b g => some (packA 0x6 d.bits a.bits b.bits g 1)
  | .mul64 d a b g => some (packA 0x6 d.bits a.bits b.bits g 2)
  | .shl64 d a b g => some (packA 0x6 d.bits a.bits b.bits g 3)
  | .shr64 d a b g => some (packA 0x6 d.bits a.bits b.bits g 4)
  | .sar64 d a b g => some (packA 0x6 d.bits a.bits b.bits g 5)
  | .lea d a b g => some (packA 0x6 d.bits a.bits b.bits g 6)
  | .paddI16x2 d a b g => some (packA 0x7 d.bits a.bits b.bits g 0)
  | .psubI16x2 d a b g => some (packA 0x7 d.bits a.bits b.bits g 1)
  | .pminI16x2 d a b g => some (packA 0x7 d.bits a.bits b.bits g 2)
  | .pmaxI16x2 d a b g => some (packA 0x7 d.bits a.bits b.bits g 3)
  | .paddI8x4 d a b g => some (packA 0x7 d.bits a.bits b.bits g 4)
  | .psubI8x4 d a b g => some (packA 0x7 d.bits a.bits b.bits g 5)
  | .pminI8x4 d a b g => some (packA 0x7 d.bits a.bits b.bits g 6)
  | .pmaxI8x4 d a b g => some (packA 0x7 d.bits a.bits b.bits g 7)
  | .addi d a i g => some (packI 0x8 d.bits a.bits (0#2 ++ i) g)
  | .andi d a i g => some (packI 0x8 d.bits a.bits (1#2 ++ i) g)
  | .ori d a i g => some (packI 0x8 d.bits a.bits (2#2 ++ i) g)
  | .xori d a i g => some (packI 0x8 d.bits a.bits (3#2 ++ i) g)
  | .shli d a i g => some (packI 0x9 d.bits a.bits (0#2 ++ i) g)
  | .shri d a i g => some (packI 0x9 d.bits a.bits (1#2 ++ i) g)
  | .sari d a i g => some (packI 0x9 d.bits a.bits (2#2 ++ i) g)
  | .cmpi k p a i g => some (packI 0x9 (k.bits ++ p) a.bits (3#2 ++ i) g)
  | .movi d i g => some (packI 0xa d.bits 0 i g)
  | .leai d i g => some (packI 0xb d.bits 0 i g)
  | .mad d a b c => some (packF 0xc d.bits a.bits b.bits c.bits)
  | .madw d a b c => some (packF 0xd d.bits a.bits b.bits c.bits)
  | .madwN d a b c => some (packF 0xd d.bits a.bits b.bits c.bits)
  | .dp4a d a b c => some (packF 0xe d.bits a.bits b.bits c.bits)
  | .dp4aN d a b c => some (packF 0xe d.bits a.bits b.bits c.bits)
  | .fadd d a b g => some (packA 0x10 d.bits a.bits b.bits g 0)
  | .fsub d a b g => some (packA 0x10 d.bits a.bits b.bits g 1)
  | .fmul d a b g => some (packA 0x10 d.bits a.bits b.bits g 2)
  | .fmin d a b g => some (packA 0x10 d.bits a.bits b.bits g 3)
  | .fmax d a b g => some (packA 0x10 d.bits a.bits b.bits g 4)
  | .fabs d a g => some (packA 0x10 d.bits a.bits 0 g 5)
  | .fneg d a g => some (packA 0x10 d.bits a.bits 0 g 6)
  | .frnd d a g => some (packA 0x10 d.bits a.bits 0 g 7)
  | .fscale d a b g => some (packA 0x10 d.bits a.bits b.bits g 8)
  | .faddF64 d a b g => some (packA 0x11 d.bits a.bits b.bits g 0)
  | .fsubF64 d a b g => some (packA 0x11 d.bits a.bits b.bits g 1)
  | .fmulF64 d a b g => some (packA 0x11 d.bits a.bits b.bits g 2)
  | .fminF64 d a b g => some (packA 0x11 d.bits a.bits b.bits g 3)
  | .fmaxF64 d a b g => some (packA 0x11 d.bits a.bits b.bits g 4)
  | .fabsF64 d a g => some (packA 0x11 d.bits a.bits 0 g 5)
  | .fnegF64 d a g => some (packA 0x11 d.bits a.bits 0 g 6)
  | .frndF64 d a g => some (packA 0x11 d.bits a.bits 0 g 7)
  | .fscaleF64 d a b g => some (packA 0x11 d.bits a.bits b.bits g 8)
  | .pfaddF16x2 d a b g => some (packA 0x12 d.bits a.bits b.bits g 0)
  | .pfsubF16x2 d a b g => some (packA 0x12 d.bits a.bits b.bits g 1)
  | .pfmulF16x2 d a b g => some (packA 0x12 d.bits a.bits b.bits g 2)
  | .pfminF16x2 d a b g => some (packA 0x12 d.bits a.bits b.bits g 3)
  | .pfmaxF16x2 d a b g => some (packA 0x12 d.bits a.bits b.bits g 4)
  | .fcmpF32 k p a b g => some (packA 0x13 (k.bits ++ p) a.bits b.bits g 0)
  | .fcmpF64 k p a b g => some (packA 0x13 (k.bits ++ p) a.bits b.bits g 1)
  | .fclassF32 k p a g => some (packA 0x13 (k.bits ++ p) a.bits 0 g 2)
  | .fclassF64 k p a g => some (packA 0x13 (k.bits ++ p) a.bits 0 g 3)
  | .fdiv d a b g => some (packA 0x14 d.bits a.bits b.bits g 0)
  | .fdivF64 d a b g => some (packA 0x14 d.bits a.bits b.bits g 1)
  | .fsqrt d a g => some (packA 0x14 d.bits a.bits 0 g 2)
  | .fsqrtF64 d a g => some (packA 0x14 d.bits a.bits 0 g 3)
  | .frcp d a g => some (packA 0x14 d.bits a.bits 0 g 4)
  | .frsq d a g => some (packA 0x14 d.bits a.bits 0 g 5)
  | .fexp2 d a g => some (packA 0x14 d.bits a.bits 0 g 6)
  | .flog2 d a g => some (packA 0x14 d.bits a.bits 0 g 7)
  | .fsin d a g => some (packA 0x14 d.bits a.bits 0 g 8)
  | .fcos d a g => some (packA 0x14 d.bits a.bits 0 g 9)
  | .cvt d a f t g => some (packA 0x15 d.bits a.bits (0#1 ++ f.bits ++ t.bits) g 0)
  | .cvti d a f t g => some (packA 0x15 d.bits a.bits (0#1 ++ f.bits ++ t.bits) g 1)
  | .cvtf d a f t g => some (packA 0x15 d.bits a.bits (0#1 ++ f.bits ++ t.bits) g 2)
  | .pack8 d a w k h g => some (packA 0x16 d.bits a.bits (0#1 ++ ofBool w ++ ofBool k ++ 0#3 ++ ofBool h) g 0)
  | .unpack8 d a w k h g => some (packA 0x16 d.bits a.bits (0#1 ++ ofBool w ++ ofBool k ++ 0#3 ++ ofBool h) g 1)
  | .cbdec d a m g => some (packA 0x16 d.bits a.bits m.bits g 2)
  | .fmaF32 d a b c => some (packF 0x18 d.bits a.bits b.bits c.bits)
  | .fmaF64 d a b c => some (packF 0x19 d.bits a.bits b.bits c.bits)
  | .pfmaF16x2 d a b c => some (packF 0x1a d.bits a.bits b.bits c.bits)
  | .ld d a o f => some (packM 0x20 d.bits a.bits o f.bits)
  | .st d a o f => some (packM 0x21 d.bits a.bits o f.bits)
  | .ldt d a o f => some (packM 0x22 d.bits a.bits o f.bits)
  | .stt d a o f => some (packM 0x23 d.bits a.bits o f.bits)
  | .lds d a o f s => some (packM 0x24 d.bits a.bits o (f.bits ++ 0#1 ++ ofBool s))
  | .sts d a o f s => some (packM 0x25 d.bits a.bits o (f.bits ++ 0#1 ++ ofBool s))
  | .ldm d a o n => some (packM 0x26 d.bits a.bits o (0#2 ++ n.bits))
  | .stm d a o n => some (packM 0x26 d.bits a.bits o (1#2 ++ n.bits))
  | .pref a o l => some (packM 0x26 0 a.bits o (2#2 ++ l.bits))
  | .atoms d a b w n => some (packF 0x27 d.bits a.bits b.bits (0#1 ++ ofBool w ++ n.bits))
  | .atom d a b w n => some (packF 0x28 d.bits a.bits b.bits (0#1 ++ ofBool w ++ n.bits))
  | .red a b w n => some (packF 0x29 0 a.bits b.bits (0#1 ++ ofBool w ++ n.bits))
  | .acq l s a => some (packF 0x2A (0#3 ++ ofBool l ++ s.bits) a.bits 0 0)
  | .rel l s a => some (packF 0x2A (0#3 ++ ofBool l ++ s.bits) a.bits 0 1)
  | .fence l s a => some (packF 0x2A (0#3 ++ ofBool l ++ s.bits) a.bits 0 2)
  | .gfence => some (packF 0x2A 0 0 0 3)
  | .ebdr => some (packF 0x2A 0 0 0 4)
  | .bra g o => some (packB 0x2C g 0 o)
  | .brc g o => some (packB 0x2C g 1 o)
  | .call g o => some (packB 0x2C g 2 o)
  | .join o => some (packB 0x2D 0 0 o)
  | .brk g o n => some (packB 0x2D g 1 (o ++ 0#1 ++ n))
  | .ret g a => some (packB 0x2D g 2 (0#1 ++ a.bits ++ 0#13))
  | .jmpr g a => some (packB 0x2D g 3 (0#1 ++ a.bits ++ 0#13))
  | .exit g => some (packB 0x2D g 4 0)
  | .voteOr p q b g => some (packA 0x30 (0#4 ++ p) (0#5 ++ q) b.bits g 0)
  | .voteAnd p q b g => some (packA 0x30 (0#4 ++ p) (0#5 ++ q) b.bits g 1)
  | .voteEq p q b g => some (packA 0x30 (0#4 ++ p) (0#5 ++ q) b.bits g 2)
  | .ballot d q b g => some (packA 0x30 d.bits (0#5 ++ q) b.bits g 3)
  | .elect p b g => some (packA 0x30 (0#4 ++ p) 0 b.bits g 4)
  | .matchL d a b g => some (packA 0x30 d.bits a.bits b.bits g 5)
  | .voteCnt d q b g => some (packA 0x30 d.bits (0#5 ++ q) b.bits g 6)
  | .shflIdx d a b g => some (packA 0x31 d.bits a.bits b.bits g 0)
  | .shflUp d a b g => some (packA 0x31 d.bits a.bits b.bits g 1)
  | .shflDn d a b g => some (packA 0x31 d.bits a.bits b.bits g 2)
  | .shflXor d a b g => some (packA 0x31 d.bits a.bits b.bits g 3)
  | .redgAdd d a g => some (packA 0x31 d.bits a.bits 0 g 4)
  | .redgMin d a g => some (packA 0x31 d.bits a.bits 0 g 5)
  | .redgMinN d a g => some (packA 0x31 d.bits a.bits 0 g 6)
  | .redgMax d a g => some (packA 0x31 d.bits a.bits 0 g 7)
  | .redgMaxN d a g => some (packA 0x31 d.bits a.bits 0 g 8)
  | .redgAnd d a g => some (packA 0x31 d.bits a.bits 0 g 9)
  | .redgOr d a g => some (packA 0x31 d.bits a.bits 0 g 10)
  | .redgXor d a g => some (packA 0x31 d.bits a.bits 0 g 11)
  | .redgFadd d a g => some (packA 0x31 d.bits a.bits 0 g 12)
  | .scangAdd d a g => some (packA 0x31 d.bits a.bits 0 g 13)
  | .scangAddx d a g => some (packA 0x31 d.bits a.bits 0 g 14)
  | .reform => some (packF 0x32 0 0 0 0)
  | .reformAge a => some (packF 0x32 1 a.bits 0 0)
  | .rgn w l h => some (0x32#6 ++ w ++ l ++ h ++ 0#1 ++ 1#6)
  | .view n a => some (packF 0x32 (0#3 ++ n) a.bits 0 2)
  | .recruit d a b => some (packF 0x33 d.bits a.bits b.bits 0)
  | .hwait d => some (packF 0x33 d.bits 0 0 1)
  | .hdone => some (packF 0x33 0 0 0 2)
  | .barInit n a => some (packF 0x34 (0#2 ++ n) a.bits 0 0)
  | .barArv n => some (packF 0x34 (0#2 ++ n) 0 0 1)
  | .barArvCount n a => some (packF 0x34 (1#2 ++ n) a.bits 0 1)
  | .barSyn n => some (packF 0x34 (0#2 ++ n) 0 0 2)
  | .barSynCount n a => some (packF 0x34 (1#2 ++ n) a.bits 0 2)
  | .barWt n => some (packF 0x34 (0#2 ++ n) 0 0 3)
  | .barDrp n => some (packF 0x34 (0#2 ++ n) 0 0 4)
  | .gbar => some (packF 0x34 0 0 0 5)
  | .gbarT => some (packF 0x34 1 0 0 5)
  | .tagF a b => some (packF 0x35 0 a.bits b.bits 0)
  | .tagE a b => some (packF 0x35 0 a.bits b.bits 1)
  | .prsw a b => some (packF 0x35 0 a.bits b.bits 2)
  | .cpy n a => some (packF 0x38 (0#4 ++ n) a.bits 0 0)
  | .zro n a => some (packF 0x38 (0#4 ++ n) a.bits 0 1)
  | .gth n a => some (packF 0x39 (0#4 ++ n) a.bits 0 0)
  | .sca n a => some (packF 0x39 (0#4 ++ n) a.bits 0 1)
  | .qfnc m => some (packF 0x3A (0#2 ++ m) 0 0 0)
  | .qwt m => some (packF 0x3A (0#2 ++ m) 0 0 1)
  | .fetchw a => some (packF 0x3A 0 a.bits 0 2)
  | .append n a b => some (packF 0x3B (0#4 ++ n) a.bits b.bits 0)
  | .take d a => some (packF 0x3B d.bits a.bits 0 1)
  | .quies a => some (packF 0x3B 0 a.bits 0 2)
  | .trap k => some (packF 0x3C 0 (k.extractLsb' 7 7) (k.extractLsb' 0 7) 0)
  | .sysc k => some (packF 0x3C 0 (k.extractLsb' 7 7) (k.extractLsb' 0 7) 1)
  | .syscTry k => some (packF 0x3C 0 (k.extractLsb' 7 7) (k.extractLsb' 0 7) 2)
  | .rdsr d r => some (packF 0x3C d.bits 0 r 3)
  | .wrsr a r => some (packF 0x3C 0 a.bits r 4)
  | .rte => some (packF 0x3C 0 0 0 5)
  | .rteGrp a b => some (packF 0x3C 1 a.bits b.bits 5)
  | .yield => some (packF 0x3C 0 0 0 6)
  | .sleep a => some (packF 0x3C 0 a.bits 0 7)
  | .locq d a => some (packF 0x3C d.bits a.bits 0 8)
  | .locqPa d a => some (packF 0x3C d.bits a.bits 1 8)
  | .ptupd d a => some (packF 0x3C d.bits a.bits 0 9)
  | .rclm d a b => some (packF 0x3C d.bits a.bits b.bits 10)
  | .mxCfg a => some (packF 0x3E 0 a.bits 0 0)
  | .mxLdb s a b => some (packF 0x3E (0#5 ++ ofBool s) a.bits b.bits 1)
  | .mxMma r s a => some (packF 0x3E (0#4 ++ ofBool r ++ ofBool s) a.bits 0 2)
  | .mxZero a => some (packF 0x3E 0 a.bits 0 3)
  | .mxZsk d c => some (packF 0x3E d.bits (0#6 ++ ofBool c) 0 4)
  | .mxDrain => some (packF 0x3E 0 0 0 5)
  | .mxDrainConv n a => some (packF 0x3E (0#2 ++ 1#1 ++ n) a.bits 0 5)
  | .qpush w n a => some (packF 0x3E (0#3 ++ ofBool w ++ n) a.bits 0 6)
  | .limm i => some (packH 0 i)
  | .pfx g r o s c u z => some (packH 1 (g ++ r ++ o ++ s ++ ofBool c ++ ofBool u ++ z))
  | .sch p k d z => some (packH 2 (p ++ ofBool k ++ d ++ z))
  | _ => none

/-- The UNS bit that an instruction's hint run must carry for its word to decode to it (R58). -/
def unsOf : Instr → Bool
  | .madwN _ _ _ _ => true
  | .dp4aN _ _ _ _ => true
  | _ => false

/-! ### Bytes -/

/-- The four bytes of a word, lowest address first (R46). -/
def wordBytes (w : Word) : List (BitVec 8) :=
  [w.extractLsb' 0 8, w.extractLsb' 8 8, w.extractLsb' 16 8, w.extractLsb' 24 8]

/-- A word from four bytes, lowest address first (R46). -/
def bytesWord (b0 b1 b2 b3 : BitVec 8) : Word := b3 ++ b2 ++ b1 ++ b0

/-- The first instruction of a byte string, with the rest of it. -/
def decodeBytes (uns : Bool) : List (BitVec 8) → Option (Instr × List (BitVec 8))
  | b0 :: b1 :: b2 :: b3 :: rest => (decode uns (bytesWord b0 b1 b2 b3)).map fun i => (i, rest)
  | _ => none

/-- The instruction the decoder reads from a word numbered as spec/opcode_table.json numbers its bits. Every word
instruction is 32 bits, so `nbits` is 32; a row that is an event has no bits. -/
def decodeTableWord (nbits w : Nat) : Option Instr :=
  if nbits = 0 then none
  else (decodeBytes false (wordBytes (BitVec.ofNat 32 w))).map Prod.fst

end Sys2Proof
end

