-- ==== Sys2Proof/Config.lean ====
section
/-! DEFINITION. What an implementation fixes and the free values: the fuse values that the spec leaves to the part
(notes/assumptions/4.md), and the values that it leaves open altogether, which are constants without a body
(notes/assumptions/6.md). -/
namespace Sys2Proof.Config

/-! ### Fuses -/

/-- A store die is present (R225). -/
def storeDie : Bool := true
/-- Enabled physical clusters of each die (R379): clusters 0-13, with 14 and 15 spare. -/
def clen : BitVec 16 := 0x3FFF
/-- Spare clusters unused on each die (R379). -/
def nspare : Nat := 2
/-- Enabled cores of each cluster (R350). -/
def cen : BitVec 4 := 0xF
/-- Launch-record versions accepted (R438). -/
def lvMin : BitVec 16 := 1
/-- Launch-record versions accepted (R438). -/
def lvMax : BitVec 16 := 1
/-- Dramon versions (R472). -/
def dvMin : BitVec 16 := 1
/-- Dramon versions (R472). -/
def dvMax : BitVec 16 := 1
/-- Host interface versions (R472). -/
def hvMin : BitVec 16 := 1
/-- Host interface versions (R472). -/
def hvMax : BitVec 16 := 1
/-- Bases of the register blocks, in units of 4 KiB of local physical address (R471): core, cluster, die, L2, package
and fabric blocks. -/
def capCC : Nat := 0xF0001000
/-- R471. -/
def capCL : Nat := 0xF0002000
/-- R471. -/
def capDI : Nat := 0xF0003000
/-- R471. -/
def capL2 : Nat := 0xF0004000
/-- R471. -/
def capPK : Nat := 0xF0005000
/-- R471. -/
def capFB : Nat := 0xF0006000
/-- Local physical address of the service firmware image's entry, in the LPDDR-6 of shore die 0 (R470). -/
def imageEntry : BitVec 60 := 0x20000000000
/-- Entries of the pending-repair list (R436). -/
def repairMax : Nat := 65536
/-- Spare rows held in the memory controllers of a stack or of a shore die's LPDDR-6 (R435). -/
def spareRows : Nat := 64

/-! ### Free values -/

/-- The SHA-256 hash of an image, or of what the attestation interface extends, by the count of them (R467). -/
opaque imageHash : Nat → BitVec 256
/-- The security version of an image, by the count of images offered (R467). -/
opaque imageVersion : Nat → Nat
/-- The signature of an image offered verifies under a key that the root key has signed, by the count of images offered (R466,
R467). -/
opaque imageSigned : Nat → Bool
/-- The SHA-256 extension of a measurement register, MEAS ← SHA-256(MEAS ‖ hash) (R467). -/
opaque extend : BitVec 256 → BitVec 256 → BitVec 256
/-- The bytes of a signed report, in the device's own layout, of its contents: nonce, PID, MEAS0-MEAS3, the anti-rollback
counters, the identity and attestation leaf indices (R466, R468, R469). -/
opaque report : BitVec 256 → Nat → List (BitVec 256) → List (Nat × Nat) → Nat → Nat → List (BitVec 8)
/-- The value word that a device's own reply of status 0xFE leaves in v1, by occasion (R170, R433). -/
opaque retryValue : Nat → BitVec 32
/-- The reply address of a system call that a service thread makes, which has no context area (R170, R426). -/
opaque serviceReply : Nat → BitVec 44
/-- MDIE and MKIND of the locality word for an unassigned local address (R375, R434). -/
opaque holeKind : Nat → BitVec 5
/-- The owner word that stands beside the poison of a word that was V when its home slice was lost (R381, R459). -/
opaque lostOwner : Nat → BitVec 28
/-- A word of host memory as the host holds it when the device reads it, by occasion and address (R397). -/
opaque hostWord : Nat → Nat → BitVec 32
/-- A byte of the device's own layout of the saved state from offset 0xB000 of a context area (R426), by save and
offset. -/
opaque savedByte : Nat → Nat → BitVec 8

end Sys2Proof.Config
end

