-- ==== Sys2Proof/Machine/Flags.lean ====
section
/-! DEFINITION. The status bits: the IEEE exception flags of sr.fflags and sr.fmask (01_thread_state.md R38, R39), the
sticky bits of sr.xstat (R40), and what an enabled flag does. -/
namespace Sys2Proof.Machine

/-- The five exception flags, laid out as sr.fflags (R38). -/
abbrev FFlags := BitVec 5

/-- Invalid operation. -/
def flagNV : FFlags := 16
/-- Division by zero. -/
def flagDZ : FFlags := 8
/-- Overflow. -/
def flagOF : FFlags := 4
/-- Underflow: tiny and inexact. -/
def flagUF : FFlags := 2
/-- Inexact. -/
def flagNX : FFlags := 1

/-- One flag under a condition. -/
def flagIf (c : Bool) (f : FFlags) : FFlags := if c then f else 0

/-- The sticky bits of sr.xstat (R40). -/
abbrev XStat := BitVec 4

/-- A member mask named an absent member. -/
def xstatAM : XStat := 1
/-- An integer operation or a conversion saturated. -/
def xstatSAT : XStat := 2
/-- Entries of a headland queue copy were discarded at REFORM. -/
def xstatQD : XStat := 4
/-- A LOCQ found no sound copy of a page-table entry. -/
def xstatTE : XStat := 8

/-- Some raised flag is enabled (R39). -/
def trapsOn (mask raised : FFlags) : Bool := decide (mask &&& raised ≠ 0)

/-- The rounding modes (R100). -/
inductive RM
  | rn | rz | ru | rd
  deriving DecidableEq, Repr

/-- The mode a PFX RM field names: 0 is the instruction's default and 5-7 are reserved (R58). -/
def RM.ofField (dflt : RM) (f : BitVec 3) : Option RM :=
  match f with
  | 0 => some dflt
  | 1 => some .rn
  | 2 => some .rz
  | 3 => some .ru
  | 4 => some .rd
  | _ => none

end Sys2Proof.Machine
end

