-- ==== Sys2Proof/Machine/State.lean ====
section
/-! DEFINITION. The state of one KLF960 package: every piece of state the spec names, as plain data, and the state right
after module reset. The fields that are the model's own (`agenda`, `cur`, `slow`, `nonce`, `nextId`) are named in
notes/assumptions. -/
namespace Sys2Proof.Machine

/-! ### Threads (01_thread_state.md) -/

/-- A lease: the work list the item came from (R342). -/
structure Lease where
  asn : Nat
  list : Nat
  deriving DecidableEq, Repr

/-- Flags that the matrix engine raised in a thread: whether an MX.DRAIN has completed since, and the barriers at which the
headland has then arrived, in their current phases (R104, R276). -/
structure MxFlag where
  flags : FFlags
  drained : Bool
  fences : List Nat
  deriving DecidableEq, Repr

/-- What a thread, a helper, a headland or a service thread holds (R13, R43, R45, R271). The register words of a
compute thread are its register space; those of a helper are its 32 private words; registers 2k and 2k + 1 of the
headland's table are the halves of hk (R69). A word not listed is 0. -/
structure Thread where
  regs : Table Nat Word
  p1 : Bool
  p2 : Bool
  p3 : Bool
  wb : BitVec 9
  fflags : FFlags
  /-- flags that the matrix engine raised and that no team barrier orders before a WRSR of the thread (R104) -/
  mxFlags : List MxFlag
  fmask : FFlags
  xstat : XStat
  tid : Nat
  lane : Nat
  gid : Nat
  live : Bool
  /-- gather-return streams g0-g3 (R34, R332) -/
  streams : Table Nat (List Word)
  /-- helper-result stream; in a helper, the entries it holds (R36, R209) -/
  hr : List Word
  lease : Option Lease
  /-- old values of the register words written in the interval, newest first; nothing while none are recorded (R231) -/
  log : Option (List (Nat × Word))
  /-- signature of the thread's store stream since the checkpoint (R346) -/
  sig : BitVec 64
  /-- instructions issued with the thread in the running mask since the checkpoint (R345) -/
  count : Nat
  /-- register words that hold uncorrectable data (R288, R24) -/
  bad : List Nat
  /-- register words of the region in force that it has written and that no write-back has completed, ascending (R22, R24,
  R159) -/
  dirty : List Nat
  deriving DecidableEq, Repr

/-! ### Causes of memory accesses (R149) -/

/-- A memory-access cause with its place in the order of R149. For cause 0x08 the place in its page of the word that
raced, and how many words the home slices of this package found in a race, which they then count (R404, R405). -/
structure MemCause where
  rank : Nat
  cause : BitVec 8
  aux : BitVec 24
  word : Option Nat := none
  races : Nat := 0
  deriving DecidableEq, Repr

/-! ### Quad contexts (07_thread_memory_control.md, 02_instruction_formats.md) -/

/-- An entry of the reconvergence stack (R161-R163). -/
structure Entry where
  token : Bool
  mask : BitVec 4
  pc : VAddr
  deriving DecidableEq, Repr

/-- A PFX payload (R58); `rest` is its reserved field, which is checked at the instruction (R59). -/
structure PfxHint where
  g : PredIx
  rm : BitVec 3
  ord : BitVec 3
  scope : BitVec 2
  cpop : Bool
  uns : Bool
  rest : BitVec 10
  deriving DecidableEq, Repr

/-- A SCH payload (R60). -/
structure SchHint where
  pri : BitVec 2
  park : Bool
  dist : BitVec 6
  deriving DecidableEq, Repr

/-- The hint run in progress: its words so far and whether a kind came twice (R61). -/
structure HintRun where
  limm : Option (BitVec 22)
  pfx : Option PfxHint
  sch : Option SchHint
  len : Nat
  twice : Bool
  deriving DecidableEq, Repr

/-- One lane's share of a load in flight: where it goes and what it reads (R152). -/
structure LoadPart where
  lane : Nat
  ref : ThreadRef
  va : Nat
  pa : Nat
  size : Nat
  deriving DecidableEq, Repr

/-- How a load's bytes become slots: LD, LDT, LDM from a word, which is translated or still to be (R151, R156, R158, R373). -/
inductive LoadForm
  | ld (f : LdFmt)
  | ldt (f : TFmt)
  | ldm (word n : Nat) (known : Bool)
  deriving DecidableEq, Repr

/-- The conversion of an MX.DRAIN with what it captured at issue (R298). -/
structure MxConv where
  cfg : DWord
  cview : DWord
  oview : DWord
  rows : List (Nat × Nat)
  cb : Nat
  rm : RM
  /-- its group is one of the higher core of a pair (R308) -/
  high : Bool
  deriving DecidableEq, Repr

/-- What an instruction that executes again found lacking: its own word, which has yet to be fetched; what is no part of a
memory access; the end of its access's checks; a window that admits it (R316); once admitted in a window, room in the ebb
queue or the drain of an older atomic; its turn at the scratchpad (R255), or room in an engine queue (R319). -/
inductive Lack
  | fetch
  | resource
  | checks
  | stall
  | admitted (window : Nat)
  | turn
  deriving DecidableEq, Repr

/-- What a parked gang waits for (R194). A `retry` re-executes its instruction when it next issues; every other wait is
ended by the step that the docstring names. -/
inductive Wait
  /-- what an instruction found lacking; `dest` says that it has a destination to write (R245) -/
  | retry (why : Lack) (dest : Bool)
  /-- a tag wait on words that must all be full or all be empty, in the order of its number (R255), with the time it
  began and whether the release of the instruction has been performed; ended by the tag change or by TAG_WAIT_TIMEOUT -/
  | tag (order : Nat) (words : List Nat) (full : Bool) (since : Nat) (released : Bool)
  /-- LOAD_REPLY -/
  | load (d : Dest) (form : LoadForm) (parts : List LoadPart) (acquire : Option Scope) (pops : List (BitVec 5))
  /-- LOAD_REPLY once the entries of the atomic have drained: old values and causes come in as they drain -/
  | atom (op : Nat) (d : Dest) (wide : Bool) (refs : List LoadPart) (got : List (ThreadRef × DWord))
      (bad : List (Nat × MemCause)) (acquire : Option Scope) (pops : List (BitVec 5))
  /-- SLEEP_DEADLINE, or a kick in a service thread -/
  | sleep (deadline : Option Nat)
  /-- BARRIER_WAIT_END: barrier, the phase waited on, and once the wait is over whether the barrier broke -/
  | barrier (n : Nat) (phase : Bool) (done : Option Bool)
  /-- BARRIER_WAIT_END: GBAR and its form, and once the wait is over whether the grid's barrier broke -/
  | gbar (traps : Bool) (done : Option Bool)
  /-- HWAIT_COMPLETE -/
  | hwait (d : Dest)
  /-- SYSC_REPLY: a call whose entries are placed -/
  | call (id : Nat)
  /-- SYSC_WAITLIST_WAKE: a place on the ring's wait list, and the call's k -/
  | ring (order : Nat) (k : BitVec 14)
  /-- QWT: entries of the named queues numbered below the mark (R336) -/
  | queues (m : BitVec 4) (mark : Nat)
  /-- QUIES_WAKE -/
  | quies (list : Nat) (pops : List (BitVec 5))
  /-- MX_DRAIN_COMPLETE; with its conversion -/
  | drain (conv : Option MxConv)
  /-- MX_ZSK_READ -/
  | zsk (d : Dest) (clr : Bool)
  /-- a release, an acquire, EBDR, GFENCE: retried until every older access of the group is over, and every entry of the
  stream numbered below the mark has drained (R314, R394); no younger instruction of the group issues before that -/
  | release (mark : Nat)
  /-- the PTUPD in progress -/
  | ptupd (d : Dest)
  /-- BREAKWATER_COMPARE: a checkpoint of a pair (R345), and the retry once it has committed -/
  | cut
  | cutDone
  deriving DecidableEq, Repr

/-- A quad context, a helper context, a headland's or a service thread's sequencer (R161, R186). `stack` is the entries
the sequencer holds, topmost first; `spilled` counts the entries below them in the spill area (R162). -/
structure Ctx where
  pc : VAddr
  m : BitVec 4
  stack : List Entry
  spilled : Nat
  idle : Bool
  run : HintRun
  wait : Option Wait
  /-- the quads that parked together -/
  gang : List Nat
  /-- completed words of a multi-word operation, for its restart (R159) -/
  count : Nat
  /-- the guard in force of the instruction that parked -/
  guard : PredIx
  /-- time of its last issue, the time since which its next word is ready, and the SCH priority of the instruction last
  issued (R191) -/
  issued : Nat
  ready : Nat
  pri : BitVec 2
  /-- the number that stood next when its wait began: of two waiting gangs of a group, the one with the smaller number
  issued its instruction first -/
  order : Nat
  /-- the checkpoint of the instruction at the PC has committed and its records are made: an instruction that a fault has
  stopped since then goes on behind it (R348, R349) -/
  past : Bool
  deriving DecidableEq, Repr

/-! ### Groups, helpers, teams (08_core_execution.md) -/

/-- A cause held with a party until its next instruction boundary: the word concerned, the threads whose entries caused
the report (R181). -/
structure Deferred where
  cause : BitVec 8
  addr : Nat
  refs : List ThreadRef
  aux : BitVec 24
  deriving DecidableEq, Repr

/-- A group (R185, R194). -/
structure Group where
  core : Nat
  width : Nat
  /-- the first physical quad of its range while it is live -/
  quad0 : Nat
  live : Bool
  /-- the quads whose gang met the fault whose record stands (R180) -/
  faulted : Option (List Nat)
  ended : Bool
  /-- copies of the headland queues q0-q3 (R33) -/
  queues : Table Nat (List Word)
  deferred : List Deferred
  /-- ac counted towards the watchdog and towards the tag timeout (R233, R256) -/
  wdog : Nat
  tagTimer : Nat
  /-- time the group took its live context, or began to wait for one (R197) -/
  since : Nat
  /-- time it parked or faulted (R196) -/
  parkedAt : Nat
  /-- without a live context, and not parked: it stands in the standby order since `since` (R194, R197) -/
  standby : Bool
  /-- the words of its region write-back that stood completed in the record of the context save that met a fault, until the
  first instruction after the resume (R24, R159) -/
  saved : Option Nat
  deriving DecidableEq, Repr

/-- The states of a helper (R212). -/
inductive HelperSt
  | granted | running | completed | released | faulted (cause : BitVec 8)
  deriving DecidableEq, Repr

/-- A helper, by core and helper frame (R205-R212). -/
structure Helper where
  tk : Nat
  /-- the recruiter's tid -/
  tid : Nat
  hix : Nat
  /-- donor lane: group, physical quad, lane of the quad -/
  donor : Nat
  quad : Nat
  lane : Nat
  pc : VAddr
  st : HelperSt
  /-- an event of R210 has occurred: it stops at its next instruction boundary -/
  leaves : Bool
  deriving DecidableEq, Repr

/-- An outstanding recruitment, by team and tid of the recruiter, with its snapshot of v16-v31 (R206, R207). -/
structure Recruitment where
  core : Nat
  frames : List Nat
  snap : List Word
  deriving DecidableEq, Repr

/-- A barrier record with its member bitmap (R215). -/
structure Barrier where
  broken : Bool
  ovr : Bool
  phase : Bool
  init : Bool
  drop : Nat
  exp : Nat
  arr : Nat
  members : List Nat
  /-- tids that have arrived in the current phase -/
  arrived : List Nat
  deriving DecidableEq, Repr

/-- A tidepool entry: key, age limit, threads with the time they were filed, and whether its oldest has reached the
limit (R201, R202). -/
structure Tidepool where
  core : Nat
  key : VAddr
  limit : Nat
  threads : List (Nat × Nat)
  due : Bool
  deriving DecidableEq, Repr

/-- A B slot: whether an MX.LDB into it has been issued since the last accepted MX.CFG, and its K × N elements as exact f64
patterns (R281, R295). -/
structure MxSlot where
  issued : Bool
  b : List Nat
  /-- it holds uncorrectable data (R288) -/
  bad : Bool
  deriving DecidableEq, Repr

/-- A matrix multiply in the engine queue with what it captured at issue: the configuration, the two views, the rows by
lane and tid, the group, its slot; then the steps completed and A of each row, read before the first step, as exact f64
patterns (R284, R295). -/
structure MxMma where
  cfg : DWord
  aview : DWord
  cview : DWord
  rows : List (Nat × Nat)
  gid : Nat
  slot1 : Bool
  reuse : Bool
  cb : Nat
  rm : RM
  step : Nat
  a : List (Nat × List Nat)
  /-- its group is one of the higher core of a pair (R308) -/
  high : Bool
  deriving DecidableEq, Repr

/-- An operation of the matrix engine queue (R284). MX.ZSK and MX.DRAIN stand with the headland that waits in them. -/
inductive MxOp
  | ldb (cfg : DWord) (slot1 : Bool) (off soff poff : Nat)
  | mma (m : MxMma)
  | zero (cfg : DWord) (cview : DWord) (rows : List (Nat × Nat)) (cb : Nat) (high : Bool)
  deriving DecidableEq, Repr

/-- The matrix engine state of a team (R278-R289). -/
structure Mx where
  mxc : DWord
  queue : List MxOp
  slot0 : MxSlot
  slot1 : MxSlot
  /-- the group whose A the reuse latch holds, or will hold once the operations issued so far are done; none while it is
  invalid (R283) -/
  latch : Option Nat
  /-- A of each row as the last MX.MMA without REUSE read it -/
  latchA : List (Nat × List Nat)
  halves : Word
  skipped : Word
  /-- a flag that is enabled in some thread was raised since the last MX.DRAIN (R298) -/
  pending : Bool
  deriving DecidableEq, Repr

/-- The four engine commands (R319). -/
inductive EngKind
  | cpy | zro | gth | sca
  deriving DecidableEq, Repr

/-- A command in an engine queue: its descriptor as read at acceptance, who issued it, the mark below which the issuing
stream's ebb entries drain first (R322), and its progress: units done, the index in force (SCA), the words of a gathered
row that its stream has not taken yet (R331, R332). -/
structure EngCmd where
  id : Nat
  kind : EngKind
  desc : List (BitVec 8)
  pc : VAddr
  lane : Nat
  gid : Nat
  ref : ThreadRef
  /-- the issuing core (R323) -/
  core : Nat
  mark : Nat
  done : Nat
  ix : Nat
  row : List Word
  held : Bool
  deriving DecidableEq, Repr

/-- An entry of an engine queue: a command, or a fence entry (R319, R335). -/
inductive EngEntry
  | cmd (c : EngCmd)
  | fence (id : Nat) (m : BitVec 4)
  deriving DecidableEq, Repr

/-- A park on cause 0x05: the access it stands at, whether the queue still waits, and whether a PTUPD has completed since
(R324). -/
structure EngPark where
  done : Nat
  va : Nat
  waiting : Bool
  due : Bool
  deriving DecidableEq, Repr

/-- What an access does (R363). -/
inductive Access
  | read | write | atomic | fetch
  deriving DecidableEq, Repr

/-- An access that the head of an engine queue has translated and not yet performed: address, kind, physical address
(R373). -/
structure EngTrans where
  va : Nat
  kind : Access
  pa : Nat
  deriving DecidableEq, Repr

/-- An engine queue (R319, R324). -/
structure EngQueue where
  trans : List EngTrans
  entries : List EngEntry
  parked : Option EngPark
  /-- halted, with the cause, address and AUX of its engine fault record -/
  halted : Option (BitVec 8 × Nat × BitVec 24)
  deriving DecidableEq, Repr

/-- An old line of scratchpad with its tags (R231). -/
structure LineLog where
  line : Nat
  bytes : List (BitVec 8)
  fe : List Bool
  pr : Bool
  /-- its words that held uncorrectable data -/
  bad : List Nat
  deriving DecidableEq, Repr

/-- The redundant-pair role of a guard level 2 team with its partner (R344). -/
inductive PairRole
  | none
  | primary (shadow : Nat)
  | shadow (primary : Nat)
  deriving DecidableEq, Repr

/-- Identity of a team in its grid, and of its launch (R420). -/
structure Launch where
  asn : Nat
  cls : Nat
  grd : Nat
  /-- threads, group width, register-space bytes, scratchpad bytes -/
  t : Nat
  w : Nat
  s : Nat
  z : Nat
  tx : Nat
  ty : Nat
  tz : Nat
  crec : Nat
  kentry : VAddr
  hentry : VAddr
  rfm : Bool
  l1big : Bool
  /-- the launch queue, the index of the record in it, and the number of the record as it was taken -/
  queue : Nat
  index : Nat
  rec_ : Nat
  deriving DecidableEq, Repr

/-- A resident or pre-empted team. -/
structure Team where
  launch : Launch
  /-- the lower core, whether the team spans the pair, its slot there, and on the higher core -/
  core : Nat
  paired : Bool
  slot : Nat
  slot2 : Nat
  /-- physical base of its context area and CTXSZ -/
  ctxBase : Nat
  ctxSize : Nat
  views : Table Nat DWord
  /-- scratchpad bytes, full words, lines with engine fills outstanding (R213, R214) -/
  pad : Table Nat (BitVec 8)
  full : List Nat
  /-- words of scratchpad that hold uncorrectable data (R252) -/
  padBad : List Nat
  filling : Table Nat Nat
  barriers : Table Nat Barrier
  /-- the last ac in which a record was updated, with the lowest arriving tid of each of its updates, 2048 of a headland's
  (R217) -/
  updates : Table Nat (Nat × List Nat)
  /-- tids arrived at GBAR since its last completion (R269) -/
  gbarArrived : List Nat
  pools : Table Nat Tidepool
  mx : Mx
  engines : Table Nat EngQueue
  /-- push-port queues hq0-hq3 with gid tags (R274) -/
  push : Table Nat (List (Word × Nat))
  /-- the headland has ended, or its fault record stands (R271, R182) -/
  hEnded : Bool
  hFaulted : Bool
  hWdog : Nat
  hTagTimer : Nat
  hDeferred : List Deferred
  /-- causes of threads that stand in a tidepool (R181) -/
  poolDeferred : List Deferred
  /-- ebb policy, allowance and the window counter of each core (R316, R317) -/
  pol : Bool
  allow : Nat
  used : Table Nat Nat
  usedWindow : Nat
  /-- regions latched at placement: (index, first 4 KiB unit, units) (R393) -/
  regions : List (Nat × Nat × Nat)
  lineLog : Option (List LineLog)
  /-- the interval cannot be rolled back, and the rollbacks it has had (R231, R232) -/
  nonRollback : Bool
  rollbacks : Nat
  /-- an uncorrectable error was consumed: the team stops at its instruction boundaries and rolls back (R232) -/
  rolling : Bool
  /-- bytes of the berm log that the team's records of the interval take on its lower (0) and higher (1) core (R231) -/
  berm : Table Nat Nat
  /-- the comparison of the interval has found a mismatch (R347) -/
  mismatched : Bool
  /-- the pair stands at a cut and waits for its partner (R345) -/
  atCut : Bool
  /-- both copies stand at the same cut (R345) -/
  cut : Bool
  pair : PairRole
  /-- FETCHW: mailbox offsets waiting for an answer, the coordinates of the teams withdrawn (R337) -/
  fetches : List Nat
  withdrawn : List (Nat × Nat × Nat)
  preempted : Bool
  /-- placed before its first instruction, ended or failed, with its cause (R315) -/
  ended : Bool
  failed : Option (BitVec 8)
  placedAt : Nat
  /-- time of the last pre-emption -/
  savedAt : Nat
  deriving DecidableEq, Repr

/-- The control state a checkpoint frame holds (R230, R287). -/
structure Frame where
  threads : Table ThreadRef Thread
  ctxs : Table Party Ctx
  groups : Table (Nat × Nat) Group
  recruits : Table (Nat × Nat) Recruitment
  /-- the helpers of those recruitments, stopped, with what HWAIT reads of their threads -/
  helpers : Table (Nat × Nat) (Helper × Thread)
  pools : Table Nat Tidepool
  barriers : Table Nat Barrier
  views : Table Nat DWord
  mx : Mx
  push : Table Nat (List (Word × Nat))
  engines : Table Nat EngQueue
  /-- tids arrived at GBAR, and whether the headland had ended or stood faulted -/
  gbarArrived : List Nat
  hEnded : Bool
  hFaulted : Bool
  deriving DecidableEq, Repr

/-! ### Memory system (12_cluster.md, 14_die.md, 15_package_memory_model.md) -/

/-- An owner word (R385). -/
structure Owner where
  tslot : Nat
  pkg : Nat
  agent : Nat
  deriving DecidableEq, Repr

/-- The state of a word at its home slice; V is not listed (R387), but for a word that was lost with its slice and has
become V again (R381). The pair of a registration is the ASN and region of
the write that made it (R393); `atomic` says that an atomic performed in the owner's L1 made it (R413). -/
inductive WordSt
  | open_ (o : Owner) (asn region : Nat)
  | closed (o : Owner) (asn region : Nat) (atomic : Bool)
  | lost (o : Owner)
  | valid
  deriving DecidableEq, Repr

/-- A clean copy of a word in an L1, a near cache or a guest line, with its tag (R388, R377, R393). -/
structure Copy where
  val : Word
  asn : Nat
  region : Nat
  deriving DecidableEq, Repr

/-- A registration this package holds on a word of another package, with its data (R449, R450). -/
structure GuestReg where
  val : Word
  owner : Owner
  isOpen : Bool
  asn : Nat
  region : Nat
  /-- an atomic of its owner registered it, and has yet to be performed (R413) -/
  atom : Bool := false
  fresh : Bool := false
  deriving DecidableEq, Repr

/-- A stream of the ebb lane: entries of one stream drain in order (R314). -/
inductive StreamId
  | group (tk gid : Nat)
  | helper (core frame : Nat)
  | headland (tk : Nat)
  | service (n : Nat)
  deriving DecidableEq, Repr

/-- One lane's atomic in an ebb entry (R411). -/
structure AtomPart where
  lane : Nat
  ref : ThreadRef
  va : Nat
  pa : Nat
  fn : AtomFn
  wide : Bool
  operand : DWord
  cmp : DWord
  returns : Bool
  deriving DecidableEq, Repr

/-- One byte of a store in an ebb entry: physical address, virtual address, data, lane; `store` tells the stores of one lane
apart, of which an STM makes one for each word (R158, R478). -/
structure BytePart where
  pa : Nat
  va : Nat
  val : BitVec 8
  lane : Nat
  ref : ThreadRef
  store : Nat := 0
  deriving DecidableEq, Repr

/-- What an ebb entry does when it drains (R311). -/
inductive EbbKind
  | store (bytes : List BytePart) (strong : Bool)
  | atoms (parts : List AtomPart)
  deriving DecidableEq, Repr

/-- An entry of an ebb queue (R311-R313). -/
structure EbbEntry where
  seq : Nat
  /-- the instruction that made it -/
  op : Nat
  stream : StreamId
  tk : Option Nat
  owner : Owner
  asn : Nat
  region : Nat
  line : Nat
  held : Bool
  kind : EbbKind
  deriving DecidableEq, Repr

/-- A leaf held in a TLB or returned by a walk (R361, R362). -/
structure Leaf where
  entry : DWord
  size : Nat
  deriving DecidableEq, Repr

/-- A TLB entry: ASN, first 4 KiB unit of the page, leaf (R366). -/
structure TlbEntry where
  asn : Nat
  vpn : Nat
  leaf : Leaf
  deriving DecidableEq, Repr

/-- What a walk found where it found no leaf: no present leaf, or no sound copy of an entry (R365, R368). -/
inductive NoLeaf
  | absent | poison
  deriving DecidableEq, Repr

/-- An entry of a die's miss table: the miss, the parties that wait on it, and what its walk found instead of a leaf (R367,
R368). -/
structure Miss where
  asn : Nat
  vpn : Nat
  waiters : List Party
  found : Option NoLeaf
  deriving DecidableEq, Repr

/-- A core (R185, R224-R229). -/
structure Core where
  lfail : BitVec 64
  lerrs : Nat
  spf : Bool
  out : Bool
  deg : Bool
  orphan : Nat
  spare : Nat
  wdog : Nat
  /-- physical lane of each logical lane that the map moves (R227) -/
  lanes : Table Nat Nat
  /-- time of the last exchange of live contexts (R197) -/
  rotated : Nat
  /-- the team that took the matrix engine's last step (R285) -/
  mxLast : Nat
  /-- the last ac in which it issued, with the instruction words of that ac, the physical quads that they use and whether a
  headland word is among them; the team slot of the last headland word (R190) -/
  portAt : Nat
  words : Nat
  busy : List Nat
  hword : Bool
  hslot : Nat
  deriving DecidableEq, Repr

/-- The caches and queues of an agent: its L1, its ebb queue, its contention predictor, its TLB. -/
structure CoreMem where
  l1 : Table Nat Copy
  ebb : List EbbEntry
  predictor : Table Nat Nat
  tlb : List TlbEntry
  deriving DecidableEq, Repr

/-- A cluster's registers and TLB (R350, R366). -/
structure Cluster where
  mism : Nat
  suspect : Bool
  tlb : List TlbEntry
  deriving DecidableEq, Repr

/-- A die (R358, R379, R381). -/
structure Die where
  clen : BitVec 16
  nspare : Nat
  fatal : Bool
  link : Bool
  clout : BitVec 16
  trep : Nat
  dtabb : BitVec 41
  ntab : Nat
  near : Table Nat Copy
  misses : List Miss
  /-- the walk cache: table, index, entry, the youngest first (R364) -/
  walks : List (Nat × Nat × Nat)
  containing : Bool
  /-- time at which the error that is being contained was detected (R381) -/
  detected : Nat
  throttle : Nat
  deriving DecidableEq, Repr

/-- A forward outstanding at a home slice: its word, the owner it went to, what it asks for, the read of another package that
the owner answers as well, its deadline, and whether a HOLD has moved it (R384, R391, R451, R473). -/
structure Held where
  word : Nat
  owner : Owner
  kind : FwdKind
  asks : Option (Nat × Nat)
  deadline : Nat
  extended : Bool
  deriving DecidableEq, Repr

/-- What an atomic message carries: function, width, operand and compare value (R411). -/
structure MsgAtom where
  fn : AtomFn
  wide : Bool
  operand : DWord
  cmp : DWord
  deriving DecidableEq, Repr

/-- A request as it reaches a home slice from another package, or from a host bridge, with the number of the request: a read
or a registration of a word, an atomic at an address (R389, R462). -/
inductive HomeMsg
  | read (o : Owner) (w req : Nat)
  | write (o : Owner) (w : Nat) (strong full : Bool) (req : Nat)
  | atomic (o : Owner) (pa : Nat) (x : MsgAtom) (req : Nat)
  | host (o : Owner) (w : Nat) (own : Bool)
  deriving DecidableEq, Repr

/-- A request that waits at a home slice behind others for its word (R384): the access of a party, or of an engine queue;
an ebb entry, or the oldest of a host port's writes (agent 0x240 + port); a message, which is kept whole. -/
inductive Waiter
  | party (p : Party)
  | entry (agent seq : Nat)
  | message (m : HomeMsg)
  deriving DecidableEq, Repr

/-! ### The package (16_package_operation.md, 17_package_program.md) -/

/-- A launch record taken from its ring, with its progress (R422, R423). -/
structure Record where
  /-- the model's number of the record: the same index of a ring may be taken again -/
  id : Nat
  queue : Nat
  index : Nat
  asn : Nat
  bits : BitVec 512
  /-- teams placed or withdrawn, completed, failed -/
  next : Nat
  ndone : Nat
  nfail : Nat
  cause : BitVec 8
  state : Nat
  kicked : Nat
  deriving DecidableEq, Repr

/-- A launch queue as latched, and its kicks: the TAIL that each found, and its time (R418, R423). -/
structure LatchedQueue where
  base : Nat
  asn : Nat
  sz : Nat
  kicks : List (Nat × Nat)
  /-- the model's number from which on records are those of this ring -/
  first : Nat
  deriving DecidableEq, Repr

/-- One lane's outstanding system call (R170, R431). -/
structure CallPart where
  ref : ThreadRef
  slot : Nat
  answered : Bool
  deriving DecidableEq, Repr

/-- A system call whose entries are placed (R170-R172). -/
structure Call where
  id : Nat
  party : Party
  try_ : Bool
  parts : List CallPart
  deriving DecidableEq, Repr

/-- A pending-repair entry (R436). -/
structure Repair where
  kind : Nat
  loc : BitVec 64
  fail : Bool
  deriving DecidableEq, Repr

/-- An address space's compaction entry as latched, with its 256 lists (R339, R427). -/
structure WorkLists where
  valid : Bool
  k : Nat
  lists : Table Nat (List (List Word))
  /-- parties whose APPEND has issued and not yet placed its items, each with its PC -/
  inFlight : List (Party × VAddr)
  deriving DecidableEq, Repr

/-- The package registers and agents (R418-R438). -/
structure Package where
  pqtb : BitVec 44
  cutb : BitVec 44
  pctxb : BitVec 44
  pctxl : BitVec 64
  cur : BitVec 16
  svMax : BitVec 16
  svMin : BitVec 16
  ovf : Bool
  repairs : List Repair
  trips : Nat
  coolantFailed : Bool
  schalt : Table Nat (BitVec 64)
  queues : Table Nat LatchedQueue
  records : List Record
  /-- notices that wait for room in the ring of service queue 0 (R429) -/
  notices : List (BitVec 512)
  calls : List Call
  work : Table Nat WorkLists
  /-- spare rows used, by memory (0-7 stacks, 8-9 shore dies), and the 4 KiB frames that read as poison for want of one
  (R435) -/
  spares : Table Nat Nat
  badFrames : List Nat
  deriving DecidableEq, Repr

/-- The L2 registers (R414, R415). -/
structure L2 where
  races : Nat
  lost : Nat
  rtabb : BitVec 34
  smap : Table Nat Nat
  /-- dies that became unreachable, each with the slice map that stood before: every word that had its home there is L
  (R381, R415) -/
  gone : List (Nat × Table Nat Nat)
  deriving DecidableEq, Repr

/-- The table-update engine: frame owners, the shore die that runs it, the command in progress (R369-R372). -/
structure TableEngine where
  owners : Table Nat Nat
  shoreDie : Nat
  command : Option (Nat × BitVec 256)
  deriving DecidableEq, Repr

/-- A service thread's own registers (R174, R177, R428). -/
structure Service where
  tvec : DWord
  epc : DWord
  einfo : DWord
  eaddr : DWord
  halted : Bool
  wake : Bool
  regions : List (Nat × Nat × Nat)
  deferred : List Deferred
  deriving DecidableEq, Repr

/-! ### The fabric (18_fabric.md) -/

/-- The message classes between packages (R448). -/
inductive MsgKind
  | read | write | atomic | fwd | data | close | wback | err | hold
  deriving DecidableEq, Repr

/-- A message that this package sent: class, the package it goes to, the line, the words with their data; of a request the
requester's owner word, and of a request or its answer the number of the request; whether a registration is strong, and
of the whole word; the operation of an ATOMIC, the cause that an ERR answers with; what a FWD asks for and the read that
waits for it; the state codes of a DATA's words that are not V; the package in recovery that a HOLD names. -/
structure Msg where
  kind : MsgKind
  to_ : Nat
  line : Nat
  words : List (Nat × Word)
  owner : Nat := 0
  req : Nat := 0
  strong : Bool := false
  full : Bool := false
  atom : Option MsgAtom := none
  cause : Option MemCause := none
  fwd : Option FwdKind := none
  asks : Option (Nat × Nat) := none
  states : List (Nat × BitVec 2) := []
  holds : Option Nat := none
  deriving DecidableEq, Repr

/-- A request sent to another package's home: what it asks for and for which access, its deadline, the answer once it is
here, or the cause that it ended with (R452, R455). -/
structure Request where
  id : Nat
  kind : MsgKind
  for_ : Waiter
  owner : Owner
  line : Nat
  words : List Nat
  deadline : Nat
  extended : Bool
  answer : Option (Table Nat Word)
  failed : Option MemCause
  /-- words of the answer that their home does not give in V (R449) -/
  registered : List Nat := []
  /-- of a registration: whether it is strong, and the tag that it carries (R389, R393) -/
  strong : Bool := false
  asn : Nat := 0
  region : Nat := 0
  deriving DecidableEq, Repr

/-- A flit that has not been acknowledged: its number, and the package and the line of the message that it carries, none of a
recovery notice (R445, R446). -/
structure Flit where
  seq : Nat
  msg : Option (Nat × Nat)
  deriving DecidableEq, Repr

/-- A Dramon port (R445-R447). -/
structure Port where
  up : Bool
  width : Nat
  verr : Bool
  ver : BitVec 16
  peer : BitVec 12
  replays : Nat
  expected : Nat
  sent : Nat
  /-- the replay buffer, oldest first, and what waits for room in it -/
  buffer : List Flit
  waiting : List (Option (Nat × Nat))
  same : Nat
  deriving DecidableEq, Repr

/-- What a host port has received and not yet performed: a byte of a CXL.mem write at a local address, or a kick of an entry of
the queue table (R462, R464). -/
inductive HostOp
  | byte (a : Nat) (v : BitVec 8)
  | kick (q : Nat)
  deriving DecidableEq, Repr

/-- A host port (R461-R465). -/
structure HostPort where
  down : Bool
  rate : Nat
  width : Nat
  /-- in the order of arrival -/
  writes : List HostOp
  deriving DecidableEq, Repr

/-- A range of local physical addresses that the host address decoder gives to host memory: start, bytes, host port (R397,
R461). The spec gives the decoder's registers no layout (notes/assumptions/23.md). -/
structure HostRange where
  base : Nat
  len : Nat
  port : Nat
  deriving DecidableEq, Repr

/-- The fabric registers and agents (R472). -/
structure Fabric where
  pid : BitVec 12
  pidSet : Bool
  fwdto : BitVec 32
  holdlim : BitVec 32
  recov : Bool
  frtab : BitVec 44
  hverOk : Bool
  hverSel : BitVec 16
  hrr : Table Nat (BitVec 64)
  hbase : Table Nat (BitVec 64)
  fence : Table Nat (BitVec 64)
  ports : Table Nat Port
  hosts : Table Nat HostPort
  /-- requests to other packages, messages sent, newest first -/
  requests : List Request
  sent : List Msg
  /-- the host address decoder, and the bytes that device writes sent to host memory, newest first (R397) -/
  hdec : List HostRange
  /-- forwards of other packages answered with HOLD, to be answered once recovery ends, and the time of the last recovery notice
  (R454) -/
  kept : List (Nat × Named)
  noticed : Nat
  hostSent : List (Nat × BitVec 8)
  deriving DecidableEq, Repr

/-- Boot and attestation (R467-R469). -/
structure Boot where
  /-- the images extended into each measurement register, by number, oldest first: the register's value is the fold of
  `Config.extend` over their hashes -/
  meas : Table Nat (List Nat)
  /-- the images of each kind (0 the ROM stage, 1 the service firmware) accepted so far: the anti-rollback counter of the kind
  is the greatest of their security versions -/
  antiRollback : Table Nat (List Nat)
  identityLeaf : Nat
  attestTree : Nat
  attestLeaf : Nat
  /-- images offered so far, with what the attestation interface has extended -/
  images : Nat
  /-- the next write of an index to MRAM fails (R468) -/
  writeFails : Bool
  deriving DecidableEq, Repr

/-! ### What moves next -/

/-- A turn of the agenda: which agent moves next (notes/assumptions/2.md). -/
inductive Turn
  /-- the party issues its next word; with `slow`, a load's reply comes later -/
  | issue (p : Party) (slow : Bool)
  /-- a step of an agent that is no instruction word; with `slow`, a forward that it needs is answered later -/
  | event (i : Instr) (slow : Bool := false)
  /-- time passes, in ac -/
  | tick (n : Nat)
  /-- a cache drops the clean copies of a word's line, an L1 that is full writes its registered words back -/
  | evictL1 (agent word : Nat)
  | evictNear (die word : Nat)
  | evictGuest (word : Nat)
  /-- an owner closes an open registration early (R388) -/
  | closeEarly (word : Nat)
  /-- a word of a team's scratchpad, of a thread's register space, or a B slot comes to hold uncorrectable data (R252, R288) -/
  | padError (tk word : Nat)
  | regError (r : ThreadRef) (word : Nat)
  | slotError (tk : Nat) (slot1 : Bool)
  /-- the service firmware programs the host address decoder, whose registers the spec gives no layout (R461) -/
  | programHdec (ranges : List HostRange)
  /-- the attestation interface extends MEAS2 or MEAS3; the next write of an index to MRAM fails (R467, R468) -/
  | extendMeas (three : Bool)
  | mramFailure
  deriving DecidableEq, Repr

/-- The machine. -/
structure State where
  /-- local physical memory, by byte address; a byte not listed is 0 (notes/assumptions/1.md) -/
  mem : List Host.Cell
  /-- words not in V, poisoned words, outstanding forwards (R387, R435, R384) -/
  words : Table Nat WordSt
  poison : List Nat
  held : List Held
  /-- the requests that wait at a word's home slice, in the order of their arrival (R384), and the bytes that the device
  itself has yet to write, oldest first (R480) -/
  queue : Table Nat (List Waiter)
  devPending : List (Nat × List (BitVec 8))
  /-- guest lines and registrations on words of other packages (R449) -/
  guest : Table Nat Copy
  guestRegs : Table Nat GuestReg
  threads : Table ThreadRef Thread
  ctxs : Table Party Ctx
  groups : Table (Nat × Nat) Group
  helpers : Table (Nat × Nat) Helper
  recruits : Table (Nat × Nat) Recruitment
  teams : Table Nat Team
  frames : Table Nat Frame
  cores : Table Nat Core
  coreMem : Table Nat CoreMem
  /-- L1 size of each core that holds teams, in KiB (R213) -/
  l1size : Table Nat Nat
  clusters : Table Nat Cluster
  dies : Table Nat Die
  services : Table Nat Service
  pkg : Package
  l2 : L2
  table : TableEngine
  fab : Fabric
  boot : Boot
  /-- bring-up mode (R470) -/
  bm : Bool
  /-- the package timebase (R174) -/
  time : BitVec 64
  agenda : List Turn
  cur : Party
  slow : Bool
  nonce : Nat
  nextId : Nat
  deriving DecidableEq, Repr

/-- How a step can stop with a fault. No instruction or step of this spec does. -/
inductive Fault
  /-- Raised by nothing: the spec describes what follows every condition it names. Safe. -/
  | none
  deriving DecidableEq, Repr

/-- How a step can be refused. -/
inductive Refusal
  /-- Raised by an arm of exec whose meaning is not written. Safe. -/
  | notModelled (mnemonic : String)
  deriving DecidableEq, Repr

/-- What exec and step answer. -/
abbrev Outcome := Host.Outcome State Fault Refusal

/-! ### Reset -/

/-- A hint run with no word. -/
def HintRun.empty : HintRun := ⟨none, none, none, 0, false⟩

/-- A thread at its start (R13, R271). -/
def Thread.fresh : Thread :=
  ⟨[], false, false, false, 4, 0, [], 0, 0, 0, 0, 0, true, [], [], none, none, 0, 0, [], []⟩

/-- A context with the given PC and mask (R186, R202). -/
def Ctx.fresh (pc : VAddr) (m : BitVec 4) : Ctx := ⟨pc, m, [], 0, false, HintRun.empty, none, [], 0, 0, 0, 0, 0, 0, false⟩

/-- An empty engine queue (R319). -/
def EngQueue.fresh : EngQueue := ⟨[], [], none, none⟩

/-- A core as its fuses leave it (R224-R229, notes/assumptions/4.md). -/
def Core.fresh : Core := ⟨0, 0, false, false, false, 0x7F, 0x7F, 100000, [], 0, 0, 0, 0, [], false, 0⟩

/-- An agent's empty caches. -/
def CoreMem.fresh : CoreMem := ⟨[], [], [], []⟩

/-- A cluster after reset (R350). -/
def Cluster.fresh : Cluster := ⟨0, false, []⟩

/-- A die after reset (R379). -/
def Die.fresh : Die := ⟨Config.clen, Config.nspare, false, false, 0, 0, 0, 0, [], [], [], false, 0, 0⟩

/-- A service thread after reset (R174, R470). -/
def Service.fresh : Service := ⟨0, 0, 0, 0, false, false, [], []⟩

/-- The package registers after reset (R438, R433). Of PCTXL R438 gives no register map and no reset value: it starts at 0
(DESIGN CHOICE, notes/assumptions/127.md). -/
def Package.reset : Package :=
  { pqtb := 0, cutb := 0, pctxb := 0, pctxl := 0, cur := 1, svMax := 1, svMin := 1, ovf := false, repairs := [],
    trips := 0, coolantFailed := false, schalt := [], queues := [], records := [], notices := [], calls := [],
    work := [], spares := [], badFrames := [] }

/-- The fabric registers after reset (R472). -/
def Fabric.reset : Fabric :=
  { pid := 0, pidSet := false, fwdto := 200, holdlim := 2000, recov := true, frtab := 0, hverOk := false,
    hverSel := 0, hrr := [], hbase := [], fence := [], ports := [], hosts := [], requests := [], sent := [], hdec := [],
    kept := [], noticed := 0, hostSent := [] }

/-- Attestation state after reset (R467, R468, notes/assumptions/6.md). -/
def Boot.reset : Boot :=
  { meas := [(0, [0]), (1, [1])], antiRollback := [(0, [0]), (1, [1])], identityLeaf := 0, attestTree := 0, attestLeaf := 0, images := 2
    writeFails := false }

/-- The machine right after module reset (R470): bring-up mode, service thread 0 at the image entry and every other
service thread in SLEEP with no deadline. A service thread that is not listed is one of those (`Ops`). -/
def State.reset : State :=
  { mem := [], words := [], poison := [], held := [], queue := [], devPending := [], guest := [], guestRegs := [],
    threads := [], ctxs := [(.service 0, Ctx.fresh Config.imageEntry 1)], groups := [], helpers := [], recruits := [],
    teams := [], frames := [], cores := [], coreMem := [], l1size := [], clusters := [], dies := [], services := [],
    pkg := Package.reset, l2 := ⟨0, 0, 0, [], []⟩, table := ⟨[], 0, none⟩, fab := Fabric.reset, boot := Boot.reset,
    bm := true, time := 0, agenda := [], cur := .service 0, slow := false, nonce := 0, nextId := 0 }

end Sys2Proof.Machine
end

