-- ==== Sys2Proof/Machine/Table.lean ====
section
/-! DEFINITION. Tables of the state, and memory as a canonical list of bytes: read, write, remove; the bytes of numbers. -/
namespace Sys2Proof.Machine

variable {κ α : Type} [DecidableEq κ]

/-- The entry of a key. -/
def tget (k : κ) : Table κ α → Option α
  | [] => none
  | (k', v) :: t => if k' = k then some v else tget k t

/-- The entry of a key, or the table's default. -/
def tgetD (k : κ) (d : α) (t : Table κ α) : α := (tget k t).getD d

/-- The table with a key's entry replaced, or added at its end. -/
def tset (k : κ) (v : α) : Table κ α → Table κ α
  | [] => [(k, v)]
  | (k', v') :: t => if k' = k then (k', v) :: t else (k', v') :: tset k v t

/-- The table without a key's entries. -/
def tdel (k : κ) : Table κ α → Table κ α
  | [] => []
  | (k', v') :: t => if k' = k then tdel k t else (k', v') :: tdel k t

/-- Every entry changed in place. -/
def tmap (f : κ → α → α) : Table κ α → Table κ α
  | [] => []
  | (k, v) :: t => (k, f k v) :: tmap f t

/-! ### Memory -/

/-- One byte of memory: a byte not listed reads 0 (notes/assumptions/1.md). -/
def mget (a : Nat) : List Host.Cell → BitVec 8
  | [] => 0
  | (k, v) :: m => if a < k then 0 else if a = k then v else mget a m

/-- Memory with one byte written, in the canonical form: addresses rising, no byte 0 listed. -/
def mset (a : Nat) (v : BitVec 8) : List Host.Cell → List Host.Cell
  | [] => if v = 0 then [] else [(a, v)]
  | (k, w) :: m =>
    if a < k then (if v = 0 then (k, w) :: m else (a, v) :: (k, w) :: m)
    else if a = k then (if v = 0 then m else (a, v) :: m)
    else (k, w) :: mset a v m

/-- Every address of the list is above `b`, addresses rise, and no byte is 0. -/
def memAbove (b : Option Nat) : List Host.Cell → Bool
  | [] => true
  | (k, v) :: m => (match b with | none => true | some x => decide (x < k)) && decide (v ≠ 0) && memAbove (some k) m

/-- The canonical form of memory. -/
def Memory.wf (m : List Host.Cell) : Bool := memAbove none m

/-- Bytes written one after another from an address. -/
def msets (a : Nat) : List (BitVec 8) → List Host.Cell → List Host.Cell
  | [], m => m
  | b :: bs, m => msets (a + 1) bs (mset a b m)

/-- `n` bytes from an address. -/
def mgets (a : Nat) : Nat → List Host.Cell → List (BitVec 8)
  | 0, _ => []
  | n + 1, m => mget a m :: mgets (a + 1) n m

/-! ### Bytes and numbers, little-endian -/

/-- The low `n` bytes of a number, lowest first. -/
def natBytes : Nat → Nat → List (BitVec 8)
  | 0, _ => []
  | n + 1, x => BitVec.ofNat 8 x :: natBytes n (x / 256)

/-- The number that bytes hold, lowest first. -/
def bytesNat : List (BitVec 8) → Nat
  | [] => 0
  | b :: bs => b.toNat + 256 * bytesNat bs

/-- Bits [hi:lo] of a number. -/
def bits (x hi lo : Nat) : Nat := x / 2 ^ lo % 2 ^ (hi + 1 - lo)

/-- The word at a word-aligned address. -/
def mword (a : Nat) (m : List Host.Cell) : Word := BitVec.ofNat 32 (bytesNat (mgets a 4 m))

/-! ### Lists -/

/-- The numbers from 0 to n - 1, ascending. -/
def upto : Nat → List Nat
  | 0 => []
  | n + 1 => upto n ++ [n]

/-- Insertion by a key, before equal keys. -/
def insertBy (key : α → Nat) (x : α) : List α → List α
  | [] => [x]
  | y :: ys => if key x ≤ key y then x :: y :: ys else y :: insertBy key x ys

/-- The list in ascending order of a key; equal keys keep their order. -/
def sortBy (key : α → Nat) : List α → List α
  | [] => []
  | x :: xs => insertBy key x (sortBy key xs)

/-- The least element by a key, the first among equals. -/
def leastBy (key : α → Nat) : List α → Option α
  | [] => none
  | x :: xs => match leastBy key xs with
    | none => some x
    | some y => if key y < key x then some y else some x

/-- A fold over the state. -/
def forEach {σ : Type} (xs : List α) (s : σ) (f : α → σ → σ) : σ := xs.foldl (fun acc x => f x acc) s

end Sys2Proof.Machine
end

