-- ==== Sys2Proof/Machine/Ops.lean ====
section
/-! DEFINITION. The named operations over the state: threads and their registers, contexts and gangs, the memory bytes
a device write changes, notices, retiring and parking an instruction, taking an exception and returning from one
(07_thread_memory_control.md R176-R182, 08_core_execution.md R186-R188). -/
namespace Sys2Proof.Machine

/-! ### Threads -/

/-- A thread that the table does not list: a service thread as reset leaves it, otherwise one that is not live. -/
def Thread.absent (r : ThreadRef) : Thread :=
  match r with
  | .service n => { Thread.fresh with tid := n }
  | _ => { Thread.fresh with live := false }

/-- A thread. -/
def State.thread (s : State) (r : ThreadRef) : Thread := tgetD r (Thread.absent r) s.threads

/-- The state with a thread changed. -/
def State.setThread (s : State) (r : ThreadRef) (t : Thread) : State := { s with threads := tset r t s.threads }

/-- The state with a thread updated. -/
def State.onThread (s : State) (r : ThreadRef) (f : Thread → Thread) : State := s.setThread r (f (s.thread r))

/-- A register-space word (R14). -/
def Thread.word (t : Thread) (w : Nat) : Word := tgetD w 0 t.regs

/-- A register-space word written, with its old value logged on the interval's first write (R231); it is sound afterwards
(notes/assumptions/108.md). -/
def Thread.setWord (t : Thread) (w : Nat) (v : Word) : Thread :=
  { t with
    bad := t.bad.filter (· ≠ w)
    regs := tset w v t.regs
    log := t.log.map fun l => if l.any fun x => decide (x.1 = w) then l else (w, t.word w) :: l }

/-- A word added to an ascending list. -/
def addWord (w : Nat) : List Nat → List Nat
  | [] => [w]
  | x :: xs => if w < x then w :: x :: xs else if w = x then x :: xs else x :: addWord w xs

/-- A word written through a slot of a compute thread: a dirty word of its region (R22, R24). -/
def Thread.writeSlot (t : Thread) (w : Nat) (v : Word) : Thread := { t.setWord w v with dirty := addWord w t.dirty }

/-- Flags of the matrix engine that no team barrier orders yet (R104). -/
def Thread.engineFlags (t : Thread) : FFlags := t.mxFlags.foldl (fun f x => f ||| x.flags) 0

/-- A predicate; p0 reads as true (R25). -/
def Thread.pred (t : Thread) (p : PredIx) : Bool :=
  match p with
  | 0 => true
  | 1 => t.p1
  | 2 => t.p2
  | _ => t.p3

/-- A predicate written; p0 is never named here (R25). -/
def Thread.setPred (t : Thread) (p : PredIx) (b : Bool) : Thread :=
  match p with
  | 0 => t
  | 1 => { t with p1 := b }
  | 2 => { t with p2 := b }
  | _ => { t with p3 := b }

/-! ### Contexts -/

/-- A service thread that is not listed sleeps with no deadline (R470); it wakes at the image entry
(notes/assumptions/15.md). -/
def Ctx.absent (p : Party) : Ctx :=
  match p with
  | .service _ => { Ctx.fresh Config.imageEntry 1 with wait := some (.sleep none) }
  | _ => { Ctx.fresh 0 0 with idle := true }

/-- A context: of one quad, by a gang's name, of a helper gang, of a headland, of a service thread. -/
def State.ctx (s : State) (p : Party) : Ctx := tgetD p (Ctx.absent p) s.ctxs

/-- The state with a context changed. -/
def State.setCtx (s : State) (p : Party) (c : Ctx) : State := { s with ctxs := tset p c s.ctxs }

/-- The state with a context updated. -/
def State.onCtx (s : State) (p : Party) (f : Ctx → Ctx) : State := s.setCtx p (f (s.ctx p))

/-- Stack depth (R186). -/
def Ctx.depth (c : Ctx) : Nat := c.stack.length + c.spilled

/-- Address of the word that the context fetches next: past the hint words of its run (R61). -/
def Ctx.fetchPc (c : Ctx) : VAddr := c.pc + BitVec.ofNat 60 (4 * c.run.len)

/-- A wait that keeps its gang from issuing; a `retry` or a `release` re-executes its instruction instead. -/
def Wait.blocks : Wait → Bool
  | .retry _ _ => false
  | .tag _ _ _ _ _ => false
  | .release _ => false
  | .queues _ _ => false
  | .cutDone => false
  | _ => true

/-- The context may issue: it is not idle, has running lanes, and no wait blocks it. -/
def Ctx.mayIssue (c : Ctx) : Bool :=
  !c.idle && decide (c.m ≠ 0) && (match c.wait with | none => true | some w => !w.blocks)

/-! ### Groups, teams, helpers -/

/-- A group that does not exist. -/
def Group.absent : Group :=
  ⟨0, 8, 0, false, none, true, [], [], 0, 0, 0, 0, false, none⟩

/-- A group. -/
def State.group (s : State) (tk gid : Nat) : Group := tgetD (tk, gid) Group.absent s.groups

/-- The state with a group updated. -/
def State.onGroup (s : State) (tk gid : Nat) (f : Group → Group) : State :=
  { s with groups := tset (tk, gid) (f (s.group tk gid)) s.groups }

/-- The unconfigured matrix engine (R271). -/
def Mx.fresh : Mx := ⟨0, [], ⟨false, [], false⟩, ⟨false, [], false⟩, none, [], 0, 0, false⟩

/-- A launch of nothing. -/
def Launch.absent : Launch := ⟨0, 0, 0, 0, 8, 256, 0, 0, 0, 0, 0, 0, 0, false, false, 0, 0, 0⟩

/-- A team at its start (R17, R213-R215, R271, R278). -/
def Team.fresh (l : Launch) (core : Nat) : Team :=
  { launch := l, core := core, paired := false, slot := 0, slot2 := 0, ctxBase := 0, ctxSize := 0, views := [], pad := [],
    full := [], padBad := [], filling := [], barriers := [], updates := [], gbarArrived := [], pools := [],
    mx := Mx.fresh, engines := [], push := [], hEnded := decide (l.hentry = 0), hFaulted := false, hWdog := 0,
    hTagTimer := 0, hDeferred := [], poolDeferred := [], pol := false, allow := 0, used := [], usedWindow := 0,
    regions := [], lineLog := none, nonRollback := false, rollbacks := 0, rolling := false, berm := [],
    mismatched := false, atCut := false, cut := false, pair := .none, fetches := [],
    withdrawn := [], preempted := false, ended := false, failed := none, placedAt := 0, savedAt := 0 }

/-- A team that does not exist. -/
def Team.absent : Team := { Team.fresh Launch.absent 0 with ended := true }

/-- A team. -/
def State.team (s : State) (tk : Nat) : Team := tgetD tk Team.absent s.teams

/-- The state with a team updated. -/
def State.onTeam (s : State) (tk : Nat) (f : Team → Team) : State :=
  { s with teams := tset tk (f (s.team tk)) s.teams }

/-- The reuse latch becomes invalid when it names the group (R283). -/
def Team.dropLatch (gid : Nat) (t : Team) : Team :=
  if t.mx.latch = some gid then { t with mx := { t.mx with latch := none } } else t

/-- A helper that does not exist. -/
def Helper.absent : Helper := ⟨0, 0, 0, 0, 0, 0, 0, .released, false⟩

/-- A helper, by core and frame. -/
def State.helper (s : State) (core frame : Nat) : Helper := tgetD (core, frame) Helper.absent s.helpers

/-- The state with a helper updated. -/
def State.onHelper (s : State) (core frame : Nat) (f : Helper → Helper) : State :=
  { s with helpers := tset (core, frame) (f (s.helper core frame)) s.helpers }

/-- A service thread's own registers. -/
def State.service (s : State) (n : Nat) : Service := tgetD n Service.fresh s.services

/-- The state with a service thread's registers updated. -/
def State.onService (s : State) (n : Nat) (f : Service → Service) : State :=
  { s with services := tset n (f (s.service n)) s.services }

/-- A core. -/
def State.core (s : State) (c : Nat) : Core := tgetD c Core.fresh s.cores

/-- The state with a core updated. -/
def State.onCore (s : State) (c : Nat) (f : Core → Core) : State := { s with cores := tset c (f (s.core c)) s.cores }

/-- An agent's caches and ebb queue. -/
def State.cmem (s : State) (a : Nat) : CoreMem := tgetD a CoreMem.fresh s.coreMem

/-- The state with an agent's caches and ebb queue updated. -/
def State.onCmem (s : State) (a : Nat) (f : CoreMem → CoreMem) : State :=
  { s with coreMem := tset a (f (s.cmem a)) s.coreMem }

/-- A die. -/
def State.die (s : State) (d : Nat) : Die := tgetD d Die.fresh s.dies

/-- The state with a die updated. -/
def State.onDie (s : State) (d : Nat) (f : Die → Die) : State := { s with dies := tset d (f (s.die d)) s.dies }

/-- A cluster, by die × 16 + physical cluster. -/
def State.cluster (s : State) (c : Nat) : Cluster := tgetD c Cluster.fresh s.clusters

/-- The state with a cluster updated. -/
def State.onCluster (s : State) (c : Nat) (f : Cluster → Cluster) : State :=
  { s with clusters := tset c (f (s.cluster c)) s.clusters }

/-! ### Where a party stands -/

/-- The kind of a party's stream (R67). -/
def streamOf : Party → Stream
  | .gang _ _ _ => .compute
  | .helper _ _ => .helper
  | .headland _ => .headland
  | .service _ => .service

/-- The team of a helper context: that of the helpers in it. -/
def State.helperTeam (s : State) (core quad : Nat) : Option Nat :=
  (s.helpers.find? fun x => decide (x.1.1 = core) && decide (x.2.quad = quad) && decide (x.2.st = .running)
    || (decide (x.1.1 = core) && decide (x.2.quad = quad) && decide (x.2.st = .granted))).map fun x => x.2.tk

/-- The team a party belongs to; a service thread belongs to none. -/
def State.teamOf (s : State) : Party → Option Nat
  | .gang tk _ _ => some tk
  | .helper c q => s.helperTeam c q
  | .headland tk => some tk
  | .service _ => none

/-- An engine queue of a team. -/
def Team.engine (t : Team) (q : Nat) : EngQueue := tgetD q EngQueue.fresh t.engines

/-- The core for which an engine queue performs its head: the one that issued the command (R323). -/
def Team.engineCore (t : Team) (q : Nat) : Nat :=
  match (t.engine q).entries with
  | .cmd c :: _ => c.core
  | _ => t.core

/-- The core, or barrel core 0x200-0x203, that runs a party (R385, R428). An engine queue q accesses memory as gang 1000 + q
of its team (R323, R363). -/
def State.agentOf (s : State) : Party → Nat
  | .gang tk gid _ => if 1000 ≤ gid then (s.team tk).engineCore (gid - 1000) else (s.group tk gid).core
  | .helper c _ => c
  | .headland tk => (s.team tk).core
  | .service n => 0x200 + n / 64 % 4

/-- The die of a compute core's agent number (R385). -/
def dieOfAgent (a : Nat) : Nat := a / 64

/-- The address space of a party (R418): 0 for a service thread. -/
def State.asnOf (s : State) (p : Party) : Nat :=
  match s.teamOf p with
  | some tk => (s.team tk).launch.asn
  | none => 0

/-- The team's slot on one of its cores (R385). -/
def Team.slotOn (t : Team) (core : Nat) : Nat := if core = t.core then t.slot else t.slot2

/-- The owner word of a party's accesses: the issuing core, acting for the team (R385). -/
def State.ownerOf (s : State) (p : Party) : Owner :=
  match s.teamOf p with
  | some tk => ⟨(s.team tk).slotOn (s.agentOf p), s.fab.pid.toNat, s.agentOf p⟩
  | none => ⟨0, s.fab.pid.toNat, s.agentOf p⟩

/-- The gid of a thread that stands in a tidepool. -/
def noGid : Nat := 256

/-- The cores that a team spans (R306). -/
def Team.cores (t : Team) : List Nat := if t.paired then [t.core, t.core + 1] else [t.core]

/-- An owner word that a core of the team acts under (R385, R386). -/
def State.owns (s : State) (t : Team) (o : Owner) : Bool :=
  decide (o.tslot = t.slotOn o.agent) && decide (o.pkg = s.fab.pid.toNat) && t.cores.contains o.agent

/-- A resident team on a core pair acts under the owner word (R386). -/
def State.pairOwns (s : State) (t : Team) (o : Owner) : Bool := t.paired && !t.ended && !t.preempted && s.owns t o

/-- Two owner words of one owner: equal, or both of one team on a core pair (R386). -/
def State.sameOwner (s : State) (a b : Owner) : Bool :=
  decide (a = b) || s.teams.any fun x => s.pairOwns x.2 a && s.pairOwns x.2 b

/-- The agents of an owner: both cores of its team on a pair. -/
def State.ownerAgents (s : State) (o : Owner) : List Nat :=
  match s.teams.find? fun x => s.pairOwns x.2 o with
  | some x => x.2.cores
  | none => [o.agent]

/-- The bits of an owner word (R385). -/
def Owner.bits (o : Owner) : Nat := o.agent + o.pkg * 2 ^ 12 + o.tslot * 2 ^ 24

/-- The party's stream of the ebb lane (R314). -/
def State.streamIds (_ : State) (p : Party) (refs : List ThreadRef) : List StreamId :=
  match p with
  | .gang tk gid _ => [.group tk gid]
  | .headland tk => [.headland tk]
  | .service n => [.service n]
  | .helper _ _ => refs.filterMap fun r => match r with | .helper c f => some (.helper c f) | _ => none

/-! ### Gangs and lanes -/

/-- A lane of an issuing gang: its index in the group and its thread. -/
structure Lane where
  ix : Nat
  ref : ThreadRef
  deriving DecidableEq, Repr

/-- The live compute thread in a lane of a group (R13, R202). -/
def State.laneThread (s : State) (tk gid ix : Nat) : Option ThreadRef :=
  s.threads.findSome? fun x => match x.1 with
    | .compute k _ => if k = tk ∧ x.2.gid = gid ∧ x.2.lane = ix ∧ x.2.live = true then some x.1 else none
    | _ => none

/-- The lanes of one quad whose bits a mask holds, ascending. -/
def State.quadLanes (s : State) (tk gid quad : Nat) (m : BitVec 4) : List Lane :=
  [0, 1, 2, 3].filterMap fun j =>
    if m.getLsbD j then (s.laneThread tk gid (4 * quad + j)).map fun r => ⟨4 * quad + j, r⟩ else none

/-- A tag wait. -/
def Wait.isTag : Wait → Bool
  | .tag _ _ _ _ _ => true
  | _ => false

/-- The context is in a tag wait. -/
def Ctx.tagWait (c : Ctx) : Bool := match c.wait with | some w => w.isTag | none => false

/-- Two quads of a group run as one gang: equal PC, depth and hint run, and neither waits apart; those in a tag wait keep
the place in its order that they hold (R186, R255). -/
def Ctx.ganged (a b : Ctx) : Bool :=
  decide (a.pc = b.pc) && decide (a.depth = b.depth) && decide (a.run = b.run) && a.mayIssue && b.mayIssue
    && decide (a.count = b.count) && decide (a.past = b.past) && ((!a.tagWait && !b.tagWait) || decide (a.wait = b.wait))

/-- The quads of a group, by its width (R185). -/
def Group.quads (g : Group) : List Nat := upto (g.width / 4)

/-- The context waits for a step other than its own issue. -/
def Ctx.blocked (c : Ctx) : Bool := match c.wait with | some w => w.blocks | none => false

/-- The quad runs, or waits, as one gang with the quad of a party (R186): those that parked together until their wait
ends; otherwise those that issue together. -/
def State.inGang (s : State) (p : Party) (tk gid q : Nat) : Bool :=
  let a := s.ctx (.gang tk gid q)
  let b := s.ctx p
  if b.blocked then b.gang.contains q && decide (a.wait = b.wait) else a.ganged b

/-- The contexts that issue, or wait, together with a party (R186): the quads of its gang, ascending; itself
otherwise. -/
def State.gang (s : State) (p : Party) : List Party :=
  match p with
  | .gang tk gid q => ((s.group tk gid).quads.filter fun q' => q' = q || s.inGang p tk gid q').map (.gang tk gid ·)
  | _ => [p]

/-- The context that a party's accesses go under: the first quad of its gang. -/
def State.leader (s : State) (p : Party) : Party := (s.gang p).headD p

/-- The running lanes of one context. -/
def State.ctxLanes (s : State) (p : Party) : List Lane :=
  match p with
  | .gang tk gid q => s.quadLanes tk gid q (s.ctx p).m
  | .helper c q => [0, 1, 2, 3].filterMap fun j =>
      if (s.ctx p).m.getLsbD j then
        s.helpers.findSome? fun x =>
          if x.1.1 = c ∧ x.2.quad = q ∧ x.2.lane = j ∧ (x.2.st = .running ∨ x.2.st = .granted) then
            some ⟨j, .helper c x.1.2⟩
          else none
      else none
  | .headland tk => [⟨0, .headland tk⟩]
  | .service n => [⟨0, .service n⟩]

/-- Each thread once: the lanes of a list whose thread stands in none before them. -/
def onceEach : List ThreadRef → List Lane → List Lane
  | _, [] => []
  | seen, l :: ls => if seen.contains l.ref then onceEach seen ls else l :: onceEach (l.ref :: seen) ls

/-- The running lanes of the gang of a party, ascending. -/
def State.lanes (s : State) (p : Party) : List Lane := onceEach [] ((s.gang p).flatMap s.ctxLanes)

/-- The lanes whose guard predicate is true (R26, R27). -/
def State.active (s : State) (p : Party) (g : PredIx) : List Lane :=
  (s.lanes p).filter fun l => (s.thread l.ref).pred g

/-- A lane mask by index in the group. -/
def laneMask (ls : List Lane) : BitVec 64 := ls.foldl (fun m l => m ||| BitVec.ofNat 64 (2 ^ l.ix)) 0

/-- A context stands at an instruction boundary: inside no hint run, or parked at the instruction that the run attaches
to (R62). -/
def Ctx.atBoundary (c : Ctx) : Bool := decide (c.run.len = 0) || c.wait.isSome

/-- The contexts of a gang updated. -/
def State.onGang (s : State) (p : Party) (f : Ctx → Ctx) : State := forEach (s.gang p) s fun q s => s.onCtx q f

/-- The issuing context: all contexts of a gang share its PC and hint run. -/
def State.cctx (s : State) : Ctx := s.ctx s.cur

/-! ### Device writes and notices -/

/-- Words from a byte range. -/
def wordsOf (a n : Nat) : List Nat := (upto ((a % 4 + n + 3) / 4)).map fun i => a / 4 * 4 + 4 * i

/-- Logical slice of a line (R383). -/
def logicalSlice (pa : Nat) : Nat :=
  let x := BitVec.ofNat 44 pa
  (x.extractLsb' 6 8 ^^^ x.extractLsb' 14 8 ^^^ x.extractLsb' 22 8 ^^^ x.extractLsb' 30 8
    ^^^ (x.extractLsb' 38 6).zeroExtend 8).toNat

/-- The word's home slice was lost with its die (R381). -/
def State.homeGone (s : State) (w : Nat) : Bool :=
  s.l2.gone.any fun x => decide (tgetD (logicalSlice w) (logicalSlice w) x.2 / 32 = x.1)

/-- An owner from the bits of its owner word. -/
def ownerOfBits (n : Nat) : Owner := ⟨n / 2 ^ 24 % 16, n / 2 ^ 12 % 2 ^ 12, n % 2 ^ 12⟩

/-- The state of a word at its home slice: nothing stands for V. -/
def State.wordSt (s : State) (w : Nat) : Option WordSt :=
  match tget w s.words with
  | some .valid => none
  | some x => some x
  | none => if s.homeGone w then some (.lost (ownerOfBits (Config.lostOwner w).toNat)) else none

/-- A word's forward is over. -/
def State.unhold (s : State) (w : Nat) : State :=
  if s.held.isEmpty then s else { s with held := s.held.filter fun h => decide (h.word ≠ w) }

/-- A word becomes V; a forward of it is over. -/
def State.makeV (s : State) (w : Nat) : State :=
  { s.unhold w with words := if s.homeGone w then tset w .valid s.words else tdel w s.words }

/-- The word is lost at its home slice. -/
def State.isLost (s : State) (w : Nat) : Bool :=
  match s.wordSt w with
  | some (.lost _) => true
  | _ => false

/-- The owner is a core or barrel core of this package: its data stands in `mem`. -/
def State.localOwner (s : State) (o : Owner) : Bool :=
  decide (o.pkg = s.fab.pid.toNat) && decide (o.agent < 0x240)

/-- Requests to other packages dropped, but for those that close words. -/
def State.dropRequestsOf (s : State) (mine : Waiter → Bool) : State :=
  if s.fab.requests.isEmpty then s
  else { s with fab := { s.fab with requests := s.fab.requests.filter fun x => !mine x.for_ || decide (x.kind = .close) } }

/-- Places at home slices given up. -/
def State.leaveQueuesOf (s : State) (mine : Waiter → Bool) : State :=
  if s.queue.isEmpty then s
  else { s with queue := s.queue.filterMap fun x =>
    let q := x.2.filter fun r => !mine r
    if q = [] then none else some (x.1, q) }

/-- Parties wait on no walk any more; an absence that every party has taken is gone. -/
def State.forgetMissesOf (s : State) (mine : Party → Bool) : State :=
  if s.dies.all fun x => x.2.misses.isEmpty then s
  else
    let left (m : Miss) : Option Miss :=
      let ws := m.waiters.filter fun p => !mine p
      if ws = [] then none else some { m with waiters := ws }
    { s with dies := tmap (fun _ d => { d with misses := d.misses.filterMap left }) s.dies }

/-- Whatever the instructions of some parties asked for and waited on is forgotten. -/
def State.forgetParties (s : State) (mine : Party → Bool) : State :=
  let w (x : Waiter) : Bool := match x with | .party p => mine p | _ => false
  ((s.dropRequestsOf w).leaveQueuesOf w).forgetMissesOf mine

/-- The contention predictor of an agent (R413). -/
def predIndex (pa : Nat) : Nat := bits pa 14 6

/-- Counter raised when an atomic's registration is revoked or recalled (R413). -/
def State.bumpPredictor (s : State) (agent w : Nat) : State :=
  s.onCmem agent fun m =>
    { m with predictor := tset (predIndex w) (Nat.min 3 (tgetD (predIndex w) 0 m.predictor + 1)) m.predictor }

/-- A local address of HBM4E (R434). -/
def isHbm (l : Nat) : Bool := decide (l < 0x8000000000)

/-- Home slice of a logical slice (R383). -/
def L2.slice (l : L2) (h : Nat) : Nat := tgetD h h l.smap

/-- Home slice of a line (R383). -/
def State.homeSlice (s : State) (pa : Nat) : Nat := s.l2.slice (logicalSlice pa)

/-- Die of the home slice (R383). -/
def State.homeDie (s : State) (pa : Nat) : Nat := s.homeSlice pa / 32

/-- The access needs a die whose fatal error is being contained: it parks (R381). The slices of an unreachable die are those
of the map that stood before. -/
def State.contained (s : State) (w : Nat) : Bool :=
  s.dies.any (fun x => x.2.containing) &&
    ((s.die (s.homeDie w)).containing || (isHbm w && (s.die (w / 2 ^ 36)).containing)
      || s.l2.gone.any fun x => (s.die x.1).containing && decide (tgetD (logicalSlice w) (logicalSlice w) x.2 / 32 = x.1))

/-- The data of a word is here, its die is not being contained, and no request for it stands at its home slice: the device
may write it (R381, R480). -/
def State.devReady (s : State) (w : Nat) : Bool :=
  !s.contained w && !(s.held.any fun h => decide (h.word = w)) && (tgetD w [] s.queue).isEmpty && (match s.wordSt w with
    | some (.open_ o _ _) => s.localOwner o
    | some (.closed o _ _ _) => s.localOwner o
    | _ => true)

/-- Bytes of one word written by the device: a lost word drops them; a registered copy is recalled, and the word is V and
registered to no one (R480). Poison goes when all 4 bytes are written (R435). -/
def State.devPut (s : State) (a : Nat) (bs : List (BitVec 8)) : State :=
  let w := a / 4 * 4
  if s.isLost w then s
  else
    let s := match s.wordSt w with
      | some (.closed o _ _ true) => s.bumpPredictor o.agent w
      | _ => s
    { s with
      mem := msets a bs s.mem
      poison := if bs.length = 4 then s.poison.filter (· ≠ w) else s.poison }.makeV w

/-- Bytes of one word that the device writes: behind its own writes that still wait for a recall, one after another
(R480). -/
def State.devPiece (s : State) (a : Nat) (bs : List (BitVec 8)) : State :=
  if s.devPending.isEmpty && s.devReady (a / 4 * 4) then s.devPut a bs
  else { s with devPending := s.devPending ++ [(a, bs)] }

/-- A byte range in pieces that lie in one word each. -/
def wordPieces (a : Nat) (bs : List (BitVec 8)) : List (Nat × List (BitVec 8)) :=
  (wordsOf a bs.length).map fun w =>
    let from_ := Nat.max a w
    (from_, (bs.drop (from_ - a)).take (w + 4 - from_))

/-- A device write of R480. -/
def State.devWrite (s : State) (a : Nat) (bs : List (BitVec 8)) : State :=
  forEach (wordPieces a bs) s fun x s => s.devPiece x.1 x.2

/-- A number written by the device as `n` bytes. -/
def State.devWriteNat (s : State) (a n x : Nat) : State := s.devWrite a (natBytes n x)

/-- The fields of a notice (R429). -/
def noticeBits (handle tx ty tz asn time agent kind cause : Nat) : BitVec 512 :=
  BitVec.ofNat 512 (cause + kind * 2 ^ 8 + agent * 2 ^ 32 + time * 2 ^ 256 + asn * 2 ^ 372 + ty * 2 ^ 384
    + tz * 2 ^ 400 + tx * 2 ^ 416 + handle * 2 ^ 448)

/-- A notice that names a launch's team posted: it stands behind those that wait for room in the ring (R429). -/
def State.noticeFor (s : State) (l : Launch) (handle agent kind cause : Nat) : State :=
  { s with pkg := { s.pkg with notices := s.pkg.notices ++
      [noticeBits handle l.tx l.ty l.tz l.asn s.time.toNat agent kind cause] } }

/-- A notice posted, which names a team or none (R429). -/
def State.notice (s : State) (tk : Option Nat) (handle agent kind cause : Nat) : State :=
  s.noticeFor (match tk with | some k => (s.team k).launch | none => Launch.absent) handle agent kind cause

/-! ### Retiring and parking -/

/-- The SCH priority that a hint run gives (R60). -/
def HintRun.pri (r : HintRun) : BitVec 2 := match r.sch with | some h => h.pri | none => 0

/-- A context whose instruction has retired: past the word, its hint run used up, not waiting. -/
def Ctx.retired (now : Nat) (c : Ctx) : Ctx :=
  { c with pc := c.fetchPc + 4, run := HintRun.empty, wait := none, gang := [], count := 0, guard := 0, issued := now
           ready := now, pri := c.run.pri, order := 0, past := false }

/-- The instruction of a party ends the last tag wait of its group: the group's tag timer is cleared (R256,
notes/assumptions/104.md). -/
def State.tagOver (s : State) (p : Party) : Bool :=
  match p with
  | .gang tk gid _ => (s.ctx p).tagWait && (s.group tk gid).quads.all fun q =>
      !(s.ctx (.gang tk gid q)).tagWait || (s.gang p).contains (.gang tk gid q)
  | _ => true

/-- The issue of a party counted: its watchdog cleared, and the timer of a tag wait that is satisfied; a COUNT left by a
context save is used up (R159, R233, R256). -/
def State.noteIssue (s : State) (p : Party) : State :=
  match p with
  | .gang tk gid _ =>
    s.onGroup tk gid fun g => { g with wdog := 0, tagTimer := if s.tagOver p then 0 else g.tagTimer, saved := none }
  | .headland tk => s.onTeam tk fun t => { t with hWdog := 0, hTagTimer := 0 }
  | _ => s

/-- The instruction of the issuing gang retires (R62): every running thread's count grows (R345). -/
def State.retire (s : State) : State :=
  let s1 := forEach (s.lanes s.cur) s fun l s => s.onThread l.ref fun t => { t with count := t.count + 1 }
  (s1.noteIssue s.cur).onGang s.cur (Ctx.retired s.time.toNat)

/-- The party is noted as parked from now on, and its instruction as issued, unless it was parked already (R159, R196,
R233). -/
def State.noteParked (s : State) (p : Party) : State :=
  if (s.ctx p).wait.isSome then s
  else match p with
  | .gang tk gid _ => s.onGroup tk gid fun g => { g with parkedAt := s.time.toNat, wdog := 0, saved := none }
  | .headland tk => s.onTeam tk fun t => { t with hWdog := 0 }
  | _ => s

/-- The quad numbers of contexts. -/
def gangQuads (ps : List Party) : List Nat := ps.filterMap fun p => match p with | .gang _ _ q => some q | _ => none

/-- The number of a party's wait: that with which it began. -/
def State.waitOrder (s : State) (p : Party) : Nat :=
  if (s.ctx p).wait.isSome then (s.ctx p).order else s.nextId

/-- The issuing gang parks at its instruction. -/
def State.park (s : State) (w : Wait) : State :=
  let o := s.waitOrder s.cur
  { (s.noteParked s.cur).onGang s.cur
      (fun c => { c with wait := some w, gang := gangQuads (s.gang s.cur), order := o }) with
    nextId := Nat.max s.nextId (o + 1) }

/-- A wait that records how far its instruction has come: its checkpoint has committed, its release began, its bytes are
admitted. -/
def Wait.keeps : Wait → Bool
  | .cutDone => true
  | .release _ => true
  | .retry (.admitted _) _ => true
  | _ => false

/-- The instruction that waits has been admitted by its team's allowance (R316): a store or an atomic asks before its
checkpoint and its release. -/
def Wait.pastAdmission : Wait → Bool
  | .retry (.admitted _) _ => true
  | .cutDone => true
  | .release _ => true
  | _ => false

/-- A wait that the watchdog counts (R233). -/
def Wait.counted : Wait → Bool
  | .tag _ _ _ _ _ => false
  | .sleep _ => false
  | .call _ => false
  | .ring _ _ => false
  | .ptupd _ => false
  | .cutDone => false
  | _ => true

/-- A wait that the stream rests in: the watchdog does not count while one of its gangs is in it. -/
def Wait.rests : Wait → Bool
  | .sleep _ => true
  | .call _ => true
  | .ring _ _ => true
  | _ => false

/-- The wait of an access whose value is not bound, or that has not been entered, yet; of an engine command that no queue
has accepted yet (R243, R394). -/
def Wait.accesses : Wait → Bool
  | .retry .resource _ => false
  | .retry .fetch _ => false
  | .retry _ _ => true
  | .tag _ _ _ _ _ => true
  | .load _ _ _ _ _ => true
  | .atom _ _ _ _ _ _ _ _ => true
  | .cut => true
  | .cutDone => true
  | _ => false

/-- The wait of an instruction that has destinations still to write (R245). -/
def Wait.writes : Wait → Bool
  | .retry _ dest => dest
  | .load _ _ _ _ _ => true
  | .atom _ _ _ _ _ _ _ _ => true
  | .hwait _ => true
  | .call _ => true
  | .ring _ _ => true
  | .zsk _ _ => true
  | .ptupd _ => true
  | .cut => true
  | .cutDone => true
  | .tag _ _ full _ _ => full
  | .gbar traps _ => !traps
  | .sleep _ => false
  | .barrier _ _ _ => false
  | .queues _ _ => false
  | .quies _ _ => false
  | .drain _ => false
  | .release _ => false

/-- A wait that holds the younger instructions of the other gangs of its group: a system call, SLEEP and the ring's wait
list park the whole group (R170, R171, R175); no younger access issues before a release or an acquire is over (R396); and
while a load, a returning atomic or the checks of an access may still fault, nothing younger has become visible (R180;
DEDUCED, notes/assumptions/7.md). -/
def Wait.holdsGroup : Wait → Bool
  | .sleep _ => true
  | .call _ => true
  | .ring _ _ => true
  | .release _ => true
  | .load _ _ _ _ _ => true
  | .atom _ _ _ _ _ _ _ _ => true
  | .retry .checks _ => true
  | .retry .stall _ => true
  | _ => false

/-- The waits of a group's quads that stand outside a party's gang, with the number of each. -/
def State.otherWaits (s : State) (p : Party) : List (Nat × Wait) :=
  match p with
  | .gang tk gid _ =>
    let mine := s.gang p
    (s.group tk gid).quads.filterMap fun q =>
      let c := s.ctx (.gang tk gid q)
      if mine.contains (.gang tk gid q) || c.idle then none else c.wait.map fun w => (c.order, w)
  | _ => []

/-- Another gang of the party's group has an older access that is still out (R243, R394). -/
def State.olderOut (s : State) (p : Party) : Bool :=
  (s.otherWaits p).any fun x => x.2.accesses && decide (x.1 < s.waitOrder p)

/-- Another gang of the party's group has an older instruction that may still write (R245). -/
def State.olderWrites (s : State) (p : Party) : Bool :=
  (s.otherWaits p).any fun x => x.2.writes && decide (x.1 < s.waitOrder p)

/-- Another gang of the party's group stands inside a hint run: the run and its instruction are one unit, and the party
goes on behind it (R62, notes/assumptions/7.md). -/
def State.runAhead (s : State) (p : Party) : Bool :=
  match p with
  | .gang tk gid _ =>
    let mine := s.gang p
    (s.group tk gid).quads.any fun q =>
      let c := s.ctx (.gang tk gid q)
      !mine.contains (.gang tk gid q) && !c.idle && !c.atBoundary
  | _ => false

/-- Another gang of the party's group holds the group with an instruction older than the party's, or stands inside a hint
run. -/
def State.groupHeld (s : State) (p : Party) : Bool :=
  (s.otherWaits p).any (fun x => x.2.holdsGroup && decide (x.1 < s.waitOrder p)) || s.runAhead p

/-- The issuing gang parks until a resource it lacks is there; it then executes the instruction again, from where its wait
says that it stands. -/
def State.parkRetry (s : State) (why : Lack := .resource) (dest : Bool := true) : State :=
  s.park (match s.cctx.wait with
    | some w => if w.keeps then w else .retry why dest
    | none => .retry why dest)

/-- The issuing gang parks until its next word can be fetched; nothing of it has issued (R367). A gang that waits already, and
would execute its instruction again, stays as it is. -/
def State.parkFetch (s : State) : State :=
  if s.cctx.wait.isSome then s
  else
    let s1 := match s.cur with
      | .gang tk gid _ => s.onGroup tk gid fun g => { g with parkedAt := s.time.toNat }
      | _ => s
    { s1.onGang s.cur (fun c => { c with wait := some (.retry .fetch false), gang := gangQuads (s.gang s.cur), order := s.nextId })
      with nextId := s.nextId + 1 }

/-- The issuing gang's next word has been fetched: it waits for it no longer. -/
def State.fetched (s : State) : State :=
  if s.cctx.wait = some (.retry .fetch false) then s.onGang s.cur fun c => { c with wait := none, gang := [], order := 0 }
  else s

/-! ### Taking an exception (R178-R182) -/

/-- An exception: its cause, the lanes that met it, its address and AUX, whether it resumes after the instruction, and
the further fields of the record (R179). -/
structure Trap where
  cause : BitVec 8
  lanes : List Lane
  addr : Nat := 0
  aux : BitVec 24 := 0
  after : Bool := false
  fetch : Bool := false
  write : Bool := false
  defer : Bool := false
  count : Nat := 0
  ocause : BitVec 8 := 0
  hix : Nat := 0
  deriving DecidableEq, Repr

/-- The resume PC: the first word of the hint run, or the word after the instruction (R178). -/
def Trap.pc (t : Trap) (c : Ctx) : VAddr := if t.after then c.fetchPc + 4 else c.pc

/-- The 32 bytes of a fault record (R179). -/
def faultRecord (t : Trap) (mask : BitVec 64) (pc : VAddr) : Nat :=
  let lane := match t.lanes with | l :: _ => l.ix | [] => 0
  t.aux.toNat + (if t.write then 2 ^ 28 else 0) + (if t.fetch then 2 ^ 29 else 0) + (if t.defer then 2 ^ 30 else 0)
    + t.count * 2 ^ 31 + lane * 2 ^ 36 + t.hix * 2 ^ 42 + t.ocause.toNat * 2 ^ 48 + t.cause.toNat * 2 ^ 56
    + pc.toNat * 2 ^ 64 + t.addr % 2 ^ 60 * 2 ^ 128 + mask.toNat * 2 ^ 192

/-- Handle of a group's fault record (R426). -/
def Team.groupRecord (t : Team) (gid : Nat) : Nat := t.ctxBase + 0x80 + 32 * gid

/-- Handle of the headland's fault record (R426). -/
def Team.headlandRecord (t : Team) : Nat := t.ctxBase + 0x40

/-- The wait stands behind the checkpoint that its instruction takes when issued (R230). -/
def Wait.pastCut : Wait → Bool
  | .cutDone => true
  | .release _ => true
  | .queues _ _ => true
  | .atom _ _ _ _ _ _ _ _ => true
  | .tag _ _ _ _ released => released
  | _ => false

/-- The checkpoint of the context's instruction has committed. -/
def Ctx.pastCut (c : Ctx) : Bool := c.past || (match c.wait with | some w => w.pastCut | none => false)

/-- A context squashed by a fault: its hint state is dropped, its wait abandoned, and no word of a multi-word operation is
done (R158, R159: COUNT stands in the record of a group alone). An instruction whose checkpoint has committed stays behind
it, at its own PC. -/
def Ctx.squashed (c : Ctx) (pc : VAddr) : Ctx :=
  { c with pc := pc, run := HintRun.empty, wait := none, gang := [], guard := 0, count := 0, order := 0
           past := decide (pc = c.pc) && c.pastCut }

/-- The entries of an ebb queue that a helper entered and that are still held are dropped; a returning atomic that it has
issued is not held, and stands (R209, R210). -/
def dropHelperEntries (core frame : Nat) (es : List EbbEntry) : List EbbEntry :=
  es.filter fun e => !(e.held && decide (e.stream = .helper core frame))

/-- A wait without one of its threads: nothing is bound there any more. -/
def Wait.without (r : ThreadRef) : Wait → Wait
  | .load d f parts acq pops => .load d f (parts.filter (·.ref ≠ r)) acq pops
  | .atom op d w refs got bad acq pops =>
    .atom op d w (refs.filter (·.ref ≠ r)) (got.filter (·.1 ≠ r)) bad acq pops
  | w => w

/-- A context without some lanes: they leave the mask and every entry; with no lane left it is idle. -/
def Ctx.without (gone : BitVec 4) (c : Ctx) : Ctx :=
  let m := c.m &&& ~~~gone
  let stack := c.stack.map fun e => { e with mask := e.mask &&& ~~~gone }
  let none := decide (m = 0) && decide (c.spilled = 0) && stack.all fun e => decide (e.mask = 0)
  { c with m := m, stack := if none then [] else stack, idle := c.idle || none }

/-- An entry's parts as the recruiter's. -/
def EbbKind.asRecruiter (lane : Nat) (r : ThreadRef) : EbbKind → EbbKind
  | .store bs strong => .store (bs.map fun b => { b with lane := lane, ref := r }) strong
  | .atoms xs => .atoms (xs.map fun x => { x with lane := lane, ref := r })

/-- The entries of returning atomics that a helper leaves behind stand in its recruiter's stream: its later accesses wait for
them (R210, R250, R411). -/
def adoptEntries (core frame : Nat) (id : StreamId) (lane : Nat) (r : ThreadRef) (es : List EbbEntry) : List EbbEntry :=
  es.map fun e => if e.stream = .helper core frame then { e with stream := id, kind := e.kind.asRecruiter lane r } else e

/-- A helper stops: it leaves its context's mask, and its held entries are discarded unless it completed (R210). -/
def State.stopHelper (s : State) (core frame : Nat) (st : HelperSt) : State :=
  let h := s.helper core frame
  let s := s.onHelper core frame fun h => { h with st := st }
  let s := s.onCtx (.helper core h.quad) fun c =>
    { c.without (BitVec.ofNat 4 (2 ^ h.lane)) with wait := c.wait.map (Wait.without (.helper core frame)) }
  let r : ThreadRef := .compute h.tk h.tid
  let left (es : List EbbEntry) : List EbbEntry :=
    adoptEntries core frame (.group h.tk (s.thread r).gid) (s.thread r).lane r (dropHelperEntries core frame es)
  let s := s.onCmem core fun m => { m with ebb := left m.ebb }
  if st = .completed then s
  else s.onThread (.helper core frame) fun t => { t with hr := [], lease := none }

/-- The regions of a group's threads end at its fault: what they wrote is written back, but where a word holds uncorrectable
data that write-back is still to be done (R24). -/
def State.cutRegions (s : State) (tk gid : Nat) : State :=
  let cut (r : ThreadRef) (t : Thread) : Thread := match r with
    | .compute k _ => if k = tk ∧ t.gid = gid ∧ t.dirty.any t.bad.contains = false then { t with dirty := [] } else t
    | _ => t
  { s with threads := tmap cut s.threads }

/-- A group takes an exception: record, faulted state, notice (R180). A load or atomic of another sub-gang that was out
when the group became Faulted may meet a cause of its own: the spec does not say what becomes of the record that stands;
the later one replaces it, and the gang of the earlier one executes its instruction again once the group resumes (DESIGN
CHOICE, notes/assumptions/105.md). -/
def State.groupTrap (s : State) (tk gid : Nat) (quads : List Nat) (t : Trap) (pc : VAddr) (mask : BitVec 64) : State :=
  let h := (s.team tk).groupRecord gid
  let s := s.devWriteNat (h % 2 ^ 44) 32 (faultRecord t mask pc)
  let s := forEach quads s fun q s => s.onCtx (.gang tk gid q) fun c => c.squashed pc
  let s := (s.cutRegions tk gid).onGroup tk gid fun g =>
    { g with faulted := some quads, parkedAt := s.time.toNat, wdog := 0, saved := none }
  s.notice (some tk) h (s.group tk gid).core 0 t.cause.toNat

/-- The headland takes an exception (R182). -/
def State.headlandTrap (s : State) (tk : Nat) (t : Trap) (pc : VAddr) : State :=
  let h := (s.team tk).headlandRecord
  let s := s.devWriteNat (h % 2 ^ 44) 32 (faultRecord { t with lanes := [⟨0, .headland tk⟩] } 1 pc)
  let s := s.onCtx (.headland tk) fun c => c.squashed pc
  let s := s.onTeam tk fun m => { m with hFaulted := true, hWdog := 0 }
  s.notice (some tk) h (s.team tk).core 0 t.cause.toNat

/-- sr.einfo at trap entry (R174). -/
def einfoOf (cause : BitVec 8) (aux : BitVec 24) : DWord :=
  BitVec.ofNat 64 (cause.toNat + aux.toNat * 2 ^ 16 + 2 ^ 63)

/-- A service thread takes an exception: it saves its resume PC, the address and the cause and goes on at sr.tvec; a
second trap halts it and is reported (R177, R430). -/
def State.serviceTrap (s : State) (n : Nat) (t : Trap) (pc : VAddr) : State :=
  let v := s.service n
  if v.einfo.getLsbD 63 then
    let s := s.onService n fun v => { v with halted := true }
    let s := s.onCtx (.service n) fun c => { c with run := HintRun.empty, wait := none }
    let old := tgetD (n / 64) 0 s.pkg.schalt
    let s := { s with pkg := { s.pkg with
      schalt := tset (n / 64) (old ||| BitVec.ofNat 64 (2 ^ (n % 64))) s.pkg.schalt } }
    s.notice none 0 (0x200 + n / 64) 7 t.cause.toNat
  else
    let s := s.onService n fun v =>
      { v with epc := pc.zeroExtend 64, eaddr := BitVec.ofNat 64 (t.addr % 2 ^ 60), einfo := einfoOf t.cause t.aux }
    s.onCtx (.service n) fun c =>
      c.squashed ((s.service n).tvec.extractLsb' 0 60 &&& ~~~(3 : BitVec 60))

/-- Helpers take an exception: those that met it become Faulted, and their recruiter learns of it at HWAIT (R182). -/
def State.helperTrap (s : State) (p : Party) (t : Trap) : State :=
  let s := forEach t.lanes s fun l s => match l.ref with
    | .helper c f => s.stopHelper c f (.faulted t.cause)
    | _ => s
  s.onCtx p fun c => { c with run := HintRun.empty, wait := none }

/-- Taking an exception: the one operation every trap goes through. -/
def State.raise (s : State) (t : Trap) : State :=
  let c := s.cctx
  let pc := t.pc c
  match s.cur with
  | .gang tk gid _ => s.groupTrap tk gid (gangQuads (s.gang s.cur)) t pc (laneMask t.lanes)
  | .headland tk => s.headlandTrap tk t pc
  | .service n => s.serviceTrap n t pc
  | .helper _ _ => s.helperTrap s.cur t

/-- An exception with only a cause: every active lane met it. -/
def State.raiseCause (s : State) (act : List Lane) (cause : BitVec 8) : State := s.raise { cause := cause, lanes := act }

/-! ### Returning from an exception (R176) -/

/-- RTE: a service thread goes on at sr.epc, and IT is cleared. Bits [1:0] of the PC are always zero (R46), whatever
sr.epc holds there (notes/assumptions/106.md). -/
def State.serviceReturn (s : State) (n : Nat) : State :=
  let v := s.service n
  let s := s.onService n fun v => { v with einfo := v.einfo &&& ~~~(BitVec.ofNat 64 (2 ^ 63)) }
  s.onCtx (.service n) fun c => c.squashed (v.epc.extractLsb' 0 60 &&& ~~~(3 : BitVec 60))

/-- A faulted group restarts at its record's PC, applying COUNT to the instruction there. After the fault of a context save
its gangs go on as they stood and COUNT applies to the write-back that the save left off, unless firmware has changed the PC
(R24, R159, R176). -/
def State.groupReturn (s : State) (tk gid : Nat) (pc : VAddr) (count : Nat) : State :=
  match (s.group tk gid).faulted with
  | none => s
  | some quads =>
    let left := (s.group tk gid).saved.isSome && quads.all fun q => decide ((s.ctx (.gang tk gid q)).pc = pc)
    let s := if left then s
      else forEach quads s fun q s => s.onCtx (.gang tk gid q) fun c => { c.squashed pc with count := count }
    s.onGroup tk gid fun g => { g with faulted := none, saved := if left then some count else none }

/-- A faulted headland restarts at its record's PC. -/
def State.headlandReturn (s : State) (tk : Nat) (pc : VAddr) : State :=
  (s.onCtx (.headland tk) fun c => c.squashed pc).onTeam tk fun t => { t with hFaulted := false }

end Sys2Proof.Machine
end

