-- ==== Sys2Proof/Machine/Descriptor.lean ====
section
/-! DEFINITION. The descriptors of the engine commands: their fields, the checks that need no memory, the addresses of
their elements and the scratchpad lines that they fill (12_cluster.md R328-R333, 08_core_execution.md R214). -/
namespace Sys2Proof.Machine

/-- Bits [hi:lo] of a descriptor. -/
def dBits (d : List (BitVec 8)) (hi lo : Nat) : Nat := bits (bytesNat d) hi lo

/-- A 48-bit stride as a signed number. -/
def stride (x : Nat) : Int := (BitVec.ofNat 48 x).toInt

/-- A dimension of a copy: elements, source and destination stride. -/
structure CopyDim where
  count : Nat
  sstr : Int
  dstr : Int
  deriving DecidableEq, Repr

/-- The fields of a CPY or ZRO descriptor (R328); `dims` begins with dimension 0. -/
structure CopyDesc where
  src : Nat
  dst : Nat
  size : Nat
  ssp : Bool
  dsp : Bool
  dims : List CopyDim
  deriving DecidableEq, Repr

/-- The base of dimension k's 128 bits. -/
def dimBase (k : Nat) : Nat := 128 * k + 128

/-- The fields of a CPY or ZRO descriptor. -/
def copyDesc (d : List (BitVec 8)) : CopyDesc :=
  let e := 2 ^ dBits d 140 139
  let dim (k : Nat) : CopyDim :=
    ⟨dBits d (dimBase k + 31) (dimBase k), stride (dBits d (dimBase k + 79) (dimBase k + 32)),
      stride (dBits d (dimBase k + 127) (dimBase k + 80))⟩
  { src := dBits d 63 0, dst := dBits d 127 64, size := e, ssp := decide (dBits d 138 138 = 1)
    dsp := decide (dBits d 137 137 = 1)
    dims := ⟨dBits d 191 160, e, e⟩ :: (upto (dBits d 143 141 - 1)).map fun k => dim (k + 1) }

/-- Elements of a copy. -/
def CopyDesc.total (c : CopyDesc) : Nat := c.dims.foldl (fun n x => n * x.count) 1

/-- Source and destination displacement of an element, dimension 0 fastest (R329). -/
def shift : List CopyDim → Nat → Int × Int
  | [], _ => (0, 0)
  | x :: xs, i =>
    let r := shift xs (i / x.count)
    let c : Int := (i % x.count : Nat)
    (c * x.sstr + r.1, c * x.dstr + r.2)

/-- Lowest displacement of a shape and the one past the highest byte, for a stride. -/
def extentBy (f : CopyDim → Int) (dims : List CopyDim) (size : Nat) : Int × Int :=
  dims.foldl (fun (r : Int × Int) x =>
    let far := f x * ((x.count - 1 : Nat) : Int)
    if far < 0 then (r.1 + far, r.2) else (r.1, r.2 + far)) (0, (size : Int))

/-- Source address of an element. -/
def CopyDesc.srcAt (c : CopyDesc) (i : Nat) : Int := c.src + (shift c.dims i).1
/-- Destination address of an element. -/
def CopyDesc.dstAt (c : CopyDesc) (i : Nat) : Int := c.dst + (shift c.dims i).2
/-- The byte range of the source. -/
def CopyDesc.srcRange (c : CopyDesc) : Int × Int :=
  let r := extentBy (·.sstr) c.dims c.size
  (c.src + r.1, c.src + r.2)
/-- The byte range of the destination. -/
def CopyDesc.dstRange (c : CopyDesc) : Int × Int :=
  let r := extentBy (·.dstr) c.dims c.size
  (c.dst + r.1, c.dst + r.2)

/-- Two byte ranges intersect. -/
def meets (a b : Int × Int) : Bool := decide (a.1 < b.2) && decide (b.1 < a.2)

/-- A CPY or ZRO descriptor is malformed (R328). -/
def copyMalformed (zro : Bool) (d : List (BitVec 8)) : Bool :=
  let c := copyDesc d
  let ndim := dBits d 143 141
  decide (dBits d 255 192 ≠ 0) || decide (dBits d 159 144 ≠ 0) || decide (dBits d 136 128 ≠ 0) || decide (ndim = 0)
    || c.dims.any (fun x => decide (x.count = 0))
    || (upto 6).any (fun k => decide (ndim ≤ k + 1) && decide (dBits d (dimBase (k + 1) + 127) (dimBase (k + 1)) ≠ 0))
    || (zro && (decide (c.src ≠ 0) || c.ssp))
    || (!zro && decide (c.ssp = c.dsp) && meets c.srcRange c.dstRange)

/-- The values of a CPY or ZRO descriptor that must be multiples of the element size, in the order of the header and the
dimensions. -/
def copyAligned (d : List (BitVec 8)) : List (Nat × Nat) :=
  let c := copyDesc d
  let strides (k : Nat) : List (Nat × Nat) :=
    [(dBits d (dimBase k + 79) (dimBase k + 32), c.size), (dBits d (dimBase k + 127) (dimBase k + 80), c.size)]
  [(c.src, c.size), (c.dst, c.size)] ++ (upto (dBits d 143 141 - 1)).flatMap fun k => strides (k + 1)

/-- The fields of a GTH or SCA descriptor (R330). -/
structure GatherDesc where
  base : Nat
  idx : Nat
  data : Nat
  nidx : Nat
  nrows : Nat
  rowb : Nat
  rstr : Nat
  dk : Nat
  gs : Nat
  iw : Nat
  isp : Bool
  ssp : Bool
  sfmt : Nat
  deriving DecidableEq, Repr

/-- The fields of a GTH or SCA descriptor. -/
def gatherDesc (d : List (BitVec 8)) : GatherDesc :=
  { base := dBits d 63 0, idx := dBits d 127 64, data := dBits d 191 128, nidx := dBits d 223 192
    nrows := dBits d 255 224, rowb := dBits d 287 256, rstr := dBits d 319 288, dk := dBits d 324 323
    gs := dBits d 326 325, iw := if dBits d 327 327 = 1 then 8 else 4, isp := decide (dBits d 328 328 = 1)
    ssp := decide (dBits d 329 329 = 1), sfmt := dBits d 331 330 }

/-- Bytes of an element of SCA. -/
def GatherDesc.esize (g : GatherDesc) : Nat := if g.sfmt % 2 = 1 then 8 else 4

/-- A GTH or SCA descriptor is malformed (R330); `thread` says that the issuer has gather-return streams. -/
def gatherMalformed (sca thread : Bool) (d : List (BitVec 8)) : Bool :=
  let g := gatherDesc d
  decide (dBits d 511 332 ≠ 0) || decide (dBits d 322 320 ≠ 0) || decide (g.rowb < 4) || decide (4096 < g.rowb)
    || decide (g.dk = 3)
    || (if sca then decide (g.dk ≠ 0) || decide (g.gs ≠ 0) else decide (g.sfmt ≠ 0) || g.ssp)
    || (!sca && decide (g.dk = 0) && !thread)

/-- The values of a GTH or SCA descriptor that must be aligned, with their alignment. -/
def gatherAligned (sca : Bool) (d : List (BitVec 8)) : List (Nat × Nat) :=
  let g := gatherDesc d
  let e := if sca then g.esize else 4
  [(g.base, e), (g.rstr, e), (g.rowb, e), (g.data, e), (g.idx, g.iw)]

/-- Address of index i. -/
def GatherDesc.idxAt (g : GatherDesc) (i : Nat) : Nat := g.idx + g.iw * i

/-! ### What a command is -/

/-- Bytes of a command's descriptor. -/
def descSize : EngKind → Nat
  | .cpy | .zro => 128
  | .gth | .sca => 64

/-- The descriptor is malformed. -/
def malformed (k : EngKind) (thread : Bool) (d : List (BitVec 8)) : Bool :=
  match k with
  | .cpy => copyMalformed false d
  | .zro => copyMalformed true d
  | .gth => gatherMalformed false thread d
  | .sca => gatherMalformed true thread d

/-- The values that must be aligned. -/
def alignedVals (k : EngKind) (d : List (BitVec 8)) : List (Nat × Nat) :=
  match k with
  | .cpy | .zro => copyAligned d
  | .gth => gatherAligned false d
  | .sca => gatherAligned true d

/-- The scratchpad ranges that a command names, each with the descriptor's value for it. -/
def padRanges (k : EngKind) (d : List (BitVec 8)) : List (Nat × Int × Int) :=
  match k with
  | .cpy | .zro =>
    let c := copyDesc d
    (if c.ssp then [(c.src, c.srcRange)] else []) ++ (if c.dsp then [(c.dst, c.dstRange)] else [])
  | .gth | .sca =>
    let g := gatherDesc d
    if g.nidx = 0 then []
    else
      (if g.isp then [(g.idx, ((g.idx : Int), ((g.idx + g.iw * g.nidx : Nat) : Int)))] else [])
        ++ (if g.dk = 1 ∨ g.ssp = true then [(g.data, ((g.data : Int), ((g.data + g.rowb * g.nidx : Nat) : Int)))] else [])

/-- The command writes memory, or the accumulators of a table in memory (R344). -/
def EngCmd.writesMemory (c : EngCmd) : Bool :=
  match c.kind with
  | .cpy | .zro => !(copyDesc c.desc).dsp
  | .gth => decide ((gatherDesc c.desc).dk = 2)
  | .sca => true

/-- Units of a command: elements of CPY and ZRO, indices of GTH, adds of SCA. -/
def EngCmd.units (c : EngCmd) : Nat :=
  match c.kind with
  | .cpy | .zro => (copyDesc c.desc).total
  | .gth => (gatherDesc c.desc).nidx
  | .sca => let g := gatherDesc c.desc; g.nidx * (g.rowb / g.esize)

/-- DONE of the engine fault record (R325). -/
def EngCmd.doneField (c : EngCmd) : Nat :=
  match c.kind with
  | .sca => let g := gatherDesc c.desc; c.done / (g.rowb / g.esize)
  | _ => c.done

/-- Scratchpad bytes that unit i writes: offset and size. -/
def EngCmd.padUnit (c : EngCmd) (i : Nat) : Option (Nat × Nat) :=
  match c.kind with
  | .cpy | .zro => let x := copyDesc c.desc; if x.dsp then some ((x.dstAt i).toNat, x.size) else none
  | .gth => let g := gatherDesc c.desc; if g.dk = 1 then some (g.data + i * g.rowb, g.rowb) else none
  | .sca => none

/-- Lines that meet a byte range. -/
def linesOf (a n : Nat) : List Nat := if n = 0 then [] else (upto ((a % 64 + n + 63) / 64)).map fun i => a / 64 + i

/-- Unit i writes into a line. -/
def EngCmd.touches (c : EngCmd) (i line : Nat) : Bool :=
  match c.padUnit i with
  | some (a, n) => (linesOf a n).contains line
  | none => false

/-- The command still writes into a line, from a unit on. -/
def EngCmd.fillsFrom (c : EngCmd) (from_ line : Nat) : Bool :=
  (upto c.units).any fun i => decide (from_ ≤ i) && c.touches i line

/-- The lines of a scratchpad of z bytes that the command still writes, from a unit on. -/
def EngCmd.linesFrom (c : EngCmd) (from_ z : Nat) : List Nat :=
  if (c.padUnit 0).isNone then [] else (upto ((z + 63) / 64)).filter (c.fillsFrom from_)

/-! ### Rollback (R232, R326, R348) -/

/-- The command with an id in a queue. -/
def EngQueue.cmd? (q : EngQueue) (id : Nat) : Option EngCmd :=
  q.entries.findSome? fun e => match e with
    | .cmd c => if c.id = id then some c else none
    | .fence _ _ => none

/-- An entry of the frame after a rollback: a command that writes memory is not performed again, so its progress stands
and one that has completed is gone; another begins again where the frame found it. -/
def entryPast (now : EngQueue) : EngEntry → Option EngEntry
  | .fence id m => some (.fence id m)
  | .cmd c => if c.writesMemory then (now.cmd? c.id).map fun x => .cmd { x with held := c.held } else some (.cmd c)

/-- The engine queues after a rollback; a queue that has halted since stays so, for its cause is not yet delivered. -/
def enginesPast (now frame : Table Nat EngQueue) : Table Nat EngQueue :=
  frame.map fun x =>
    let q := tgetD x.1 EngQueue.fresh now
    let es := x.2.entries.filterMap (entryPast q)
    (x.1, if q.halted.isSome then { q with entries := [] }
      else { x.2 with entries := es, trans := if es.head? = q.entries.head? then q.trans else [] })

/-- The engine fills outstanding on a line after a rollback; an unfinished fill that was discarded stays (R214). -/
def refill (old : Table Nat Nat) (engines : Table Nat EngQueue) : Table Nat Nat :=
  let cmds := engines.flatMap fun x => x.2.entries.filterMap fun e => match e with | .cmd c => some c | .fence _ _ => none
  let torn := old.filterMap fun x => if x.2 % 2 = 1 then some (x.1, 1) else none
  let lines (c : EngCmd) : List Nat := (upto (c.units - c.done)).flatMap fun i => match c.padUnit (c.done + i) with
    | some (a, n) => linesOf a n
    | none => []
  cmds.foldl (fun t c => ((lines c).eraseDups).foldl (fun t l => tset l (tgetD l 0 t + 2) t) t) torn

end Sys2Proof.Machine
end

