-- ==== Sys2Proof/Machine/Operands.lean ====
section
/-! DEFINITION. Operand forms: slots and pairs, channels and their pops, predicates and guards, immediates with their
hint words, the checks of an instruction word in the order of R71, and the reading and writing of operands
(01_thread_state.md R20-R37, R43, R45; 02_instruction_formats.md R49-R62, R66-R72). -/
namespace Sys2Proof.Machine

/-! ### Slots -/

/-- The register word of a slot: through the window in a compute or service thread (R20), directly in a helper (R43);
on the headland, the low word of an h register (R69). -/
def slotWord (r : ThreadRef) (t : Thread) (i : Nat) : Nat :=
  match r with
  | .helper _ _ => i
  | .headland _ => 2 * i
  | _ => if i < 28 then t.wb.toNat + i else i - 28

/-- The 32 bits of a slot, or of an h register's low half. -/
def slot32 (r : ThreadRef) (t : Thread) (i : Nat) : Word := t.word (slotWord r t i)

/-- A slot pair, or an h register (R21, R69). -/
def slot64 (r : ThreadRef) (t : Thread) (i : Nat) : DWord :=
  match r with
  | .headland _ => t.word (2 * i + 1) ++ t.word (2 * i)
  | _ => slot32 r t (i + 1) ++ slot32 r t i

/-- A 32-bit result written to a slot; the headland's register is zero-extended (R22, R69), by the word 0x0800_0006 too,
which R83 calls a NOP (DESIGN CHOICE, notes/assumptions/114.md). -/
def setSlot32 (r : ThreadRef) (i : Nat) (v : Word) (t : Thread) : Thread :=
  match r with
  | .headland _ => (t.setWord (2 * i) v).setWord (2 * i + 1) 0
  | .compute _ _ => t.writeSlot (slotWord r t i) v
  | _ => t.setWord (slotWord r t i) v

/-- A 64-bit result written to a pair or an h register. -/
def setSlot64 (r : ThreadRef) (i : Nat) (v : DWord) (t : Thread) : Thread :=
  match r with
  | .headland _ => (t.setWord (2 * i) (v.extractLsb' 0 32)).setWord (2 * i + 1) (v.extractLsb' 32 32)
  | .compute _ _ => (t.writeSlot (slotWord r t i) (v.extractLsb' 0 32)).writeSlot (slotWord r t (i + 1)) (v.extractLsb' 32 32)
  | _ => (t.setWord (slotWord r t i) (v.extractLsb' 0 32)).setWord (slotWord r t (i + 1)) (v.extractLsb' 32 32)

/-- A result written to a slot or pair. -/
def setSlot (r : ThreadRef) (wide : Bool) (i : Nat) (v : DWord) (t : Thread) : Thread :=
  if wide then setSlot64 r i v t else setSlot32 r i (v.extractLsb' 0 32) t

/-! ### Channels -/

/-- What a channel index names as a source (R30, R70). -/
inductive Chan
  | q (n : Nat) | g (n : Nat) | hr | hq (n : Nat) | lane | tid | gid | team | hix | clk | k (n : Nat)
  deriving DecidableEq, Repr

/-- The channel of an index in a stream; none where the table traps with cause 0x02 (R30, R31, R43, R45, R70). -/
def chanOf (st : Stream) (ix : BitVec 5) : Option Chan :=
  let i := ix.toNat
  match st with
  | .headland => if i < 4 then some (.hq i) else if i = 13 then some .team else if i = 15 then some .clk else none
  | .service =>
    if i = 10 then some .lane else if i = 11 then some .tid else if i = 12 then some .gid
    else if i = 13 then some .team else if i = 15 then some .clk else none
  | .compute =>
    if i < 4 then some (.q i) else if i < 8 then some (.g (i - 4)) else if i = 8 then some .hr
    else if i = 10 then some .lane else if i = 11 then some .tid else if i = 12 then some .gid
    else if i = 13 then some .team else if i = 15 then some .clk else none
  | .helper =>
    if i = 8 then some .hr else if i = 10 then some .lane else if i = 11 then some .tid else if i = 12 then some .gid
    else if i = 13 then some .team else if i = 14 then some .hix else if i = 15 then some .clk
    else if 16 ≤ i then some (.k i) else none

/-- A channel whose entries a pop removes. -/
def Chan.isQueue : Chan → Bool
  | .q _ | .g _ | .hr | .hq _ => true
  | _ => false

/-- A source operand: its field, its width, and whether it is the base of a format M address (R148). -/
structure Operand where
  src : Src
  wide : Bool
  base : Bool := false
  deriving DecidableEq, Repr

/-- A 32-bit source. -/
def r32 (a : Src) : Operand := ⟨a, false, false⟩
/-- A 64-bit source. -/
def r64 (a : Src) : Operand := ⟨a, true, false⟩
/-- The base of a memory address. -/
def rBase (a : Src) : Operand := ⟨a, true, true⟩

/-- The source operand keeps the rules of class, pop, channel and pair (R21, R31, R148). -/
def Operand.legal (st : Stream) (o : Operand) : Bool :=
  if o.src.cls then
    match chanOf st o.src.ix with
    | none => false
    | some c =>
      (!o.src.pop || c.isQueue) && (!o.base || c.isQueue)
        && (match c with | .k i => !o.wide || decide (i % 2 = 0) | _ => true)
  else !o.src.pop && (!o.wide || decide (st = .headland) || decide (o.src.ix.toNat % 2 = 0))

/-- The destination keeps the rules of class, channel and pair (R21, R37, R43, R45, R70). -/
def destLegal (st : Stream) (wide : Bool) (d : Dest) : Bool :=
  if d.cls then
    match st with
    | .compute => decide (d.ix.toNat < 4) || decide (d.ix = 8)
    | .helper => decide (d.ix = 8)
    | _ => false
  else !wide || decide (st = .headland) || decide (d.ix.toNat % 2 = 0)

/-- The recruiter of a helper, as a thread. -/
def State.recruiter (s : State) (r : ThreadRef) : ThreadRef :=
  match r with
  | .helper c f => .compute (s.helper c f).tk (s.helper c f).tid
  | _ => r

/-- The entries of a queue channel as a lane reads them (R33, R34, R36, R70). -/
def State.entries (s : State) (r : ThreadRef) (c : Chan) : List Word :=
  match c, r with
  | .q n, .compute tk tid => tgetD n [] (s.group tk (s.thread (.compute tk tid)).gid).queues
  | .g n, _ => tgetD n [] (s.thread r).streams
  | .hr, .compute _ _ => (s.thread r).hr
  | .hq n, .headland tk => (tgetD n [] (s.team tk).push).map (·.1)
  | _, _ => []

/-- The value of a channel that is no queue (R30, R43, R45, R70). -/
def State.chanValue (s : State) (r : ThreadRef) (c : Chan) : Word :=
  let t := s.thread (s.recruiter r)
  match c with
  | .lane => BitVec.ofNat 32 (match r with | .service _ => 0 | _ => t.lane)
  | .tid => BitVec.ofNat 32 (match r with | .service n => n | _ => t.tid)
  | .gid => BitVec.ofNat 32 (match r with | .service _ => 0 | _ => t.gid)
  | .team => match s.recruiter r with
    | .compute tk _ | .headland tk => BitVec.ofNat 32 ((s.team tk).launch.tx % 2 ^ 31)
    | _ => 0
  | .hix => match r with | .helper c f => BitVec.ofNat 32 (s.helper c f).hix | _ => 0
  | .clk => s.time.extractLsb' 0 32
  | .k i => match r with
    | .helper c f =>
      let h := s.helper c f
      match tget (h.tk, h.tid) s.recruits with
      | some x => x.snap.getD (i - 16) 0
      | none => 0
    | _ => 0
  | _ => 0

/-- Value of one source, with the entries that earlier fields of the instruction popped (R32). -/
def State.source (s : State) (st : Stream) (r : ThreadRef) (o : Operand) (popped : List (BitVec 5)) : DWord :=
  if o.src.cls then
    match chanOf st o.src.ix with
    | none => 0
    | some c =>
      if c.isQueue then
        let es := (s.entries r c).drop (popped.count o.src.ix)
        if o.wide then es.getD 1 0 ++ es.getD 0 0 else (es.getD 0 0).zeroExtend 64
      else match c with
        | .k i => if o.wide then s.chanValue r (.k (i + 1)) ++ s.chanValue r c else (s.chanValue r c).zeroExtend 64
        | _ => (s.chanValue r c).zeroExtend 64
  else if o.wide then slot64 r (s.thread r) o.src.ix.toNat
  else (slot32 r (s.thread r) o.src.ix.toNat).zeroExtend 64

/-- The entries that a field pops, one index an entry. -/
def Operand.pops (o : Operand) : List (BitVec 5) :=
  if o.src.cls && o.src.pop then (if o.wide then [o.src.ix, o.src.ix] else [o.src.ix]) else []

/-- Values of all sources in field order (R32). -/
def State.sources (s : State) (st : Stream) (r : ThreadRef) : List Operand → List (BitVec 5) → List DWord
  | [], _ => []
  | o :: os, popped => s.source st r o popped :: State.sources s st r os (popped ++ o.pops)

/-- Every queue source of a lane has the entries it reads. -/
def State.sourcesReady (s : State) (st : Stream) (r : ThreadRef) (which : Chan → Bool) :
    List Operand → List (BitVec 5) → Bool
  | [], _ => true
  | o :: os, popped =>
    (match chanOf st o.src.ix with
      | some c => !(o.src.cls && c.isQueue && which c)
          || decide (popped.count o.src.ix + (if o.wide then 2 else 1) ≤ (s.entries r c).length)
      | none => true)
      && State.sourcesReady s st r which os (popped ++ o.pops)

/-- An hr entry can still arrive for a thread: some helper of its recruitment is Granted or Running (R36). -/
def State.hrCanArrive (s : State) (r : ThreadRef) : Bool :=
  match r with
  | .compute tk tid =>
    match tget (tk, tid) s.recruits with
    | some x => x.frames.any fun f => let st := (s.helper x.core f).st; decide (st = .granted) || decide (st = .running)
    | none => false
  | _ => false

/-- Entries removed from a queue. -/
def dropQ {α : Type} (n k : Nat) (t : Table Nat (List α)) : Table Nat (List α) := tset n ((tgetD n [] t).drop k) t

/-- The pops of an instruction: once for the group on q0-q3 and for the headland, in each active lane on g0-g3 and hr
(R32-R34). -/
def State.popAll (s : State) (st : Stream) (act : List Lane) : List (BitVec 5) → State
  | [] => s
  | ix :: rest =>
    let s := match chanOf st ix, s.cur with
      | some (.q n), .gang tk gid _ => s.onGroup tk gid fun g => { g with queues := dropQ n 1 g.queues }
      | some (.hq n), .headland tk => s.onTeam tk fun t => { t with push := dropQ n 1 t.push }
      | some (.g n), _ => forEach act s fun l s => s.onThread l.ref fun t => { t with streams := dropQ n 1 t.streams }
      | some .hr, _ => forEach act s fun l s => s.onThread l.ref fun t => { t with hr := t.hr.drop 1 }
      | _, _ => s
    State.popAll s st act rest

/-! ### Hint words (R55-R62) -/

/-- A field with the LIMM payload of the run above it, sign-extended to 64 bits (R55, R57). -/
def immWith {w : Nat} (run : HintRun) (i : BitVec w) : DWord :=
  match run.limm with
  | none => i.signExtend 64
  | some l => (l ++ i).signExtend 64

/-- The rounding mode that a PFX gives, or the instruction's default (R58). -/
def rmOf (run : HintRun) (dflt : RM := .rn) : RM :=
  match run.pfx with
  | none => dflt
  | some x => (RM.ofField dflt x.rm).getD dflt

/-- The ORD value of the run. -/
def ordOf (run : HintRun) : BitVec 3 := (run.pfx.map (·.ord)).getD 0

/-- ORD holds an acquire. -/
def isAcq (run : HintRun) : Bool := (ordOf run).getLsbD 0
/-- ORD holds a release. -/
def isRel (run : HintRun) : Bool := (ordOf run).getLsbD 1

/-- The SCOPE of the run (R58). -/
def scopeOf (run : HintRun) : Scope :=
  match (run.pfx.map (·.scope)).getD 0 with
  | 0 => .group
  | 1 => .die
  | 2 => .package
  | _ => .system

/-! ### The checks of an instruction word (R71) -/

/-- What an instruction word is checked against: the streams that may execute it, the hints it takes, its operands. -/
structure Form where
  compute : Bool := true
  headland : Bool := false
  service : Bool := true
  priv : Bool := false
  /-- a special register refuses the access in every stream: cause 0x03 (R173) -/
  denied : Bool := false
  /-- RGN, VIEW and REFORM trap with cause 0x10 in a helper (R43) -/
  helperBad : Bool := false
  /-- the word's own guard -/
  g : PredIx := 0
  /-- the guard comes from a PFX (R52) -/
  pfxG : Bool := false
  limm : Bool := false
  rm : Bool := false
  /-- the ORD values accepted beside 0 -/
  ords : List (BitVec 3) := []
  /-- SCOPE is accepted with ORD 0 -/
  scope0 : Bool := false
  uns : Bool := false
  /-- the instruction is of format F: CPOP pops its third source -/
  cpop : Bool := false
  /-- CPOP is checked as every other PFX field (R395) -/
  cpopIsHint : Bool := false
  srcs : List Operand := []
  dest : Option (Dest × Bool) := none
  pred : Option PredIx := none
  /-- the body writes a destination that the form does not name (R245) -/
  late : Bool := false
  /-- a further operand rule of the instruction is broken: cause 0x02 -/
  bad : Bool := false
  /-- a further encoding rule of the instruction is broken: cause 0x01 -/
  badEnc : Bool := false
  deriving DecidableEq, Repr

/-- The guard in force. -/
def Form.guard (f : Form) (run : HintRun) : PredIx :=
  if f.pfxG then (run.pfx.map (·.g)).getD 0 else f.g

/-- The stream may execute the instruction (R67, R68, R44). -/
def Form.allowed (f : Form) (st : Stream) : Bool :=
  match st with
  | .compute | .helper => f.compute
  | .headland => f.headland
  | .service => f.service

/-- The PFX fields agree with the instruction (R59). -/
def Form.pfxOk (f : Form) (x : PfxHint) : Bool :=
  (x.g = 0 || f.pfxG) && (x.rm = 0 || (f.rm && decide (x.rm.toNat ≤ 4)))
    && (x.ord = 0 || f.ords.contains x.ord)
    && (x.scope = 0 || decide (x.ord ≠ 0) || f.scope0)
    && (!x.uns || f.uns) && !(x.cpop && f.cpopIsHint) && decide (x.rest = 0)

/-- The hint run agrees with the instruction (R57, R59, R61). -/
def Form.hintsOk (f : Form) (run : HintRun) : Bool :=
  !run.twice && (run.limm.isNone || f.limm) && (match run.pfx with | none => true | some x => f.pfxOk x)

/-- The third source of a format F instruction, with the pop that PFX CPOP gives it (R51). -/
def withPop (c : Src3) (run : HintRun) : Src := ⟨c.cls, (run.pfx.map (·.cpop)).getD false, c.ix⟩

/-- The operands keep their rules: cause 0x02 otherwise (R71 step 4, and CPOP under R59). -/
def Form.operandsOk (f : Form) (st : Stream) (run : HintRun) : Bool :=
  !f.bad && (match f.dest with | none => true | some (d, w) => destLegal st w d)
    && (match f.pred with | none => true | some p => decide (p ≠ 0))
    && f.srcs.all (Operand.legal st) && (f.cpop || !(run.pfx.map (·.cpop)).getD false)

/-- A group reads a headland queue while the headland is faulted: it parks (R182). -/
def State.queuesShut (s : State) (st : Stream) (f : Form) : Bool :=
  decide (st = .compute) && ((s.teamOf s.cur).any fun tk => (s.team tk).hFaulted)
    && f.srcs.any fun o => o.src.cls && (match chanOf st o.src.ix with | some (.q _) => true | _ => false)

/-- The lanes whose queue sources of a kind are short of entries. -/
def State.shortLanes (s : State) (st : Stream) (f : Form) (act : List Lane) (which : Chan → Bool) : List Lane :=
  act.filter fun l => !s.sourcesReady st l.ref which f.srcs []

/-- An instruction with at least one active lane: the checks of R71 from step 2 on, then the queue sources (R33, R34,
R36), then its body. A misuse of hr takes cause 0x10 in an integer and in a float instruction too, as R36 says of every
instruction, although R111 and R130 do not list that cause (DESIGN CHOICE, notes/assumptions/33.md). -/
def State.checked (s : State) (f : Form) (act : List Lane) (body : List Lane → State → State) : State :=
  let st := streamOf s.cur
  let run := s.cctx.run
  if !(f.allowed st && !f.badEnc && f.hintsOk run) then s.raiseCause act 0x01
  else if f.denied || (f.priv && decide (st ≠ .service)) then s.raiseCause act 0x03
  else if !f.operandsOk st run then s.raiseCause act 0x02
  else if f.helperBad && decide (st = .helper) then s.raiseCause act 0x10
  else
    let noHr := (s.shortLanes st f act fun c => decide (c = .hr)).filter fun l => !s.hrCanArrive l.ref
    if noHr ≠ [] then s.raiseCause noHr 0x10
    else if s.queuesShut st f || decide (s.shortLanes st f act (fun _ => true) ≠ []) then
      s.parkRetry (dest := f.dest.isSome || f.pred.isSome || f.late)
    else body act s

/-- The guard of the issuing instruction noted with its contexts, for a wait's end. -/
def State.noteGuard (s : State) (g : PredIx) : State :=
  if g = 0 then s else s.onGang s.cur fun c => { c with guard := g }

/-- The issue of an instruction: with no active lane it retires at once (R29). -/
def State.issue (s : State) (f : Form) (body : List Lane → State → State) : Outcome :=
  let g := f.guard s.cctx.run
  let act := s.active s.cur g
  .next (if act = [] then s.retire else (s.noteGuard g).checked f act body)

/-- The active lanes of the instruction that a party waits at. -/
def State.waitLanes (s : State) (p : Party) : List Lane := s.active p (s.ctx p).guard

/-- The sources popped and the instruction retired. -/
def State.finish (s : State) (f : Form) (act : List Lane) : State :=
  (s.popAll (streamOf s.cur) act (f.srcs.flatMap Operand.pops)).retire

/-- The source values of a lane. -/
def State.reads (s : State) (f : Form) (l : Lane) : List DWord := s.sources (streamOf s.cur) l.ref f.srcs []

/-! ### Results -/

/-- The entries a result makes in a channel, low word first. -/
def chanWords (wide : Bool) (v : DWord) : List Word :=
  if wide then [v.extractLsb' 0 32, v.extractLsb' 32 32] else [v.extractLsb' 0 32]

/-- Entries pushed to a headland queue, tagged with the group's gid (R35, R274). -/
def Team.pushHq (t : Team) (n gid : Nat) (ws : List Word) : Team :=
  { t with push := tset n (tgetD n [] t.push ++ ws.map fun w => (w, gid)) t.push }

/-- What stands in the way of a result's destination. -/
inductive Room
  | ok
  | park
  | misuse (lanes : List Lane)
  deriving DecidableEq, Repr

/-- A class 1 destination: hq0-hq3 parks while full (R35, R274), a 64-bit result until both its entries fit (DESIGN CHOICE,
notes/assumptions/115.md); hr traps outside a helper (R36), and on a helper's 17th entry (R209). -/
def State.room (s : State) (act : List Lane) (dest : Option (Dest × Bool)) : Room :=
  match dest with
  | none => .ok
  | some (d, w) =>
    if !d.cls then .ok
    else
      let n := if w then 2 else 1
      match s.cur with
      | .gang tk _ _ =>
        if d.ix = 8 then .misuse act
        else if (tgetD d.ix.toNat [] (s.team tk).push).length + n ≤ 16 then .ok else .park
      | .helper _ _ =>
        match act.filter fun l => decide (16 < (s.thread l.ref).hr.length + n) with
        | [] => .ok
        | ls => .misuse ls
      | _ => .ok

/-- One lane's result written to a slot, or to a helper's hr entries. -/
def State.writeLane (s : State) (d : Dest) (w : Bool) (l : Lane) (v : DWord) : State :=
  if d.cls then s.onThread l.ref fun t => { t with hr := t.hr ++ chanWords w v }
  else s.onThread l.ref (setSlot l.ref w d.ix.toNat v)

/-- The results of the active lanes written; a headland queue takes the lowest active lane's (R35). -/
def State.writeDest (s : State) (d : Dest) (w : Bool) (outs : List (Lane × DWord)) : State :=
  match s.cur, outs with
  | .gang tk gid _, (_, v) :: _ =>
    if d.cls then s.onTeam tk fun t => t.pushHq d.ix.toNat gid (chanWords w v)
    else forEach outs s fun x s => s.writeLane d w x.1 x.2
  | _, _ => forEach outs s fun x s => s.writeLane d w x.1 x.2

/-- What one lane's computation gives: its result, its predicate, the flags it raised, whether it saturated. -/
structure LaneOut where
  val : DWord := 0
  pred : Bool := false
  flags : FFlags := 0
  sat : Bool := false
  deriving DecidableEq, Repr

/-- The flags and the SAT bit of one lane. -/
def Thread.noteFlags (t : Thread) (flags : FFlags) (sat : Bool) : Thread :=
  { t with fflags := t.fflags ||| flags, xstat := if sat then t.xstat ||| xstatSAT else t.xstat }

/-- Every active lane ORs its own flags into sr.fflags (R38, R39). -/
def State.noteFlagsOnly (s : State) (outs : List (Lane × LaneOut)) : State :=
  forEach outs s fun (x : Lane × LaneOut) s => s.onThread x.1.ref fun t => { t with fflags := t.fflags ||| x.2.flags }

/-- The flags raised by all active lanes. -/
def allFlags (outs : List (Lane × LaneOut)) : FFlags := outs.foldl (fun m x => m ||| x.2.flags) 0

/-- The lanes in which an enabled flag was raised (R39). -/
def State.fpLanes (s : State) (outs : List (Lane × LaneOut)) : List Lane :=
  (outs.filter fun x => trapsOn (s.thread x.1.ref).fmask x.2.flags).map (·.1)

/-- The trap of R39: no destination is written, sr.xstat is unchanged. -/
def State.fpTrap (s : State) (outs : List (Lane × LaneOut)) : State :=
  (s.noteFlagsOnly outs).raise
    { cause := 0x13, lanes := s.fpLanes outs, aux := (allFlags outs).zeroExtend 24 }

/-- Flags, SAT and predicates of the lanes. -/
def State.noteAll (s : State) (p : Option PredIx) (outs : List (Lane × LaneOut)) : State :=
  forEach outs s fun (x : Lane × LaneOut) s => s.onThread x.1.ref fun t =>
    let t := t.noteFlags x.2.flags x.2.sat
    match p with
    | some p => t.setPred p x.2.pred
    | none => t

/-- Results committed: floating-point traps first, then the destination's room, then writes, pops and retirement. The spec
does not order cause 0x13 and a destination that is a misuse of hr or a full queue (DESIGN CHOICE, notes/assumptions/130.md). -/
def State.commit (s : State) (f : Form) (act : List Lane) (outs : List (Lane × LaneOut)) : State :=
  if s.fpLanes outs ≠ [] then s.fpTrap outs
  else match s.room act f.dest with
    | .park => s.parkRetry
    | .misuse ls => s.raiseCause ls 0x10
    | .ok =>
      let s := s.noteAll f.pred outs
      let s := match f.dest with
        | some (d, w) => s.writeDest d w (outs.map fun (x : Lane × LaneOut) => (x.1, x.2.val))
        | none => s
      s.finish f act

/-- An instruction that computes in each active lane from its own thread and sources alone. -/
def State.perform (s : State) (f : Form) (fn : Thread → List DWord → LaneOut) : Outcome :=
  s.issue f fun act s => s.commit f act (act.map fun l => (l, fn (s.thread l.ref) (s.reads f l)))

end Sys2Proof.Machine
end

