-- ==== Sys2Proof/Machine/Registers.lean ====
section
/-! DEFINITION. The privileged register space: where each block lies, the value of every register, and the writes that
take effect (08_core_execution.md R224-R229, 12_cluster.md R350, 14_die.md R379, 15_package_memory_model.md R414,
16_package_operation.md R438, 18_fabric.md R471, R472, R478; 00_scope.md R8). -/
namespace Sys2Proof.Machine

/-! ### Residence -/

/-- The team is resident: placed, not ended, not pre-empted. -/
def Team.resident (t : Team) : Bool := !t.ended && !t.preempted

/-- A team is resident in the package (R438). -/
def State.anyResident (s : State) : Bool := s.teams.any fun x => x.2.resident

/-- A team is resident on a core. -/
def State.residentOn (s : State) (c : Nat) : Bool := s.teams.any fun x => x.2.resident && x.2.cores.contains c

/-- An ASN is in use (R379): ASN 0 once bring-up mode is over, another while a team or a record in progress of it stands. -/
def State.asnInUse (s : State) : Bool := !s.bm || s.teams.any (fun x => !x.2.ended) || s.pkg.records.any fun r => decide (r.state = 1)

/-! ### Values -/

/-- A bit as a number. -/
def b2n (b : Bool) : Nat := if b then 1 else 0

/-- Physical lane of a logical lane (R227). -/
def Core.physLane (c : Core) (l : Nat) : Nat := tgetD l l c.lanes

/-- LRMj (R227). -/
def Core.lrm (c : Core) (j : Nat) : Nat :=
  c.physLane (4 * j) + c.physLane (4 * j + 1) * 2 ^ 7 + c.physLane (4 * j + 2) * 2 ^ 14 + c.physLane (4 * j + 3) * 2 ^ 21

/-- A core block's doubleword (R224-R229). -/
def Core.reg (c : Core) (off : Nat) : Nat :=
  if off = 0x000 then
    b2n Config.storeDie * 2 ^ 40 + (if Config.storeDie then 2048 else 1024) * 2 ^ 28
      + (if Config.storeDie then 256 else 128) * 2 ^ 19 + 512 * 2 ^ 9 + 65 * 2 ^ 2
  else if off = 0x008 then c.lfail.toNat
  else if off = 0x010 then
    c.lerrs * 2 ^ 32 + b2n c.spf * 2 ^ 16 + b2n c.out * 2 ^ 15 + b2n c.deg * 2 ^ 14 + c.orphan * 2 ^ 7 + c.spare
  else if off = 0x018 then c.wdog
  else if 0x040 ≤ off ∧ off < 0x080 then c.lrm ((off - 0x40) / 4) + c.lrm ((off - 0x40) / 4 + 1) * 2 ^ 32
  else 0

/-- A cluster block's doubleword (R350). -/
def Cluster.reg (c : Cluster) (off : Nat) : Nat :=
  if off = 0 then c.mism * 2 ^ 32 + b2n c.suspect * 2 ^ 4 + Config.cen.toNat else 0

/-- A die block's doubleword (R379). -/
def Die.reg (d : Die) (n off : Nat) : Nat :=
  if off = 0x000 then n * 2 ^ 24 + d.nspare * 2 ^ 22 + d.clen.toNat
  else if off = 0x008 then b2n d.fatal * 2 ^ 63 + b2n d.link * 2 ^ 62 + d.clout.toNat * 2 ^ 32 + d.trep
  else if off = 0x010 then d.dtabb.toNat * 2 ^ 15
  else if off = 0x018 then d.ntab
  else 0

/-- The L2 block's doubleword (R414). -/
def L2.reg (l : L2) (off : Nat) : Nat :=
  if off = 0x000 then l.races * 2 ^ 32 + l.lost
  else if off = 0x008 then l.rtabb.toNat * 2 ^ 22
  else if 0x100 ≤ off ∧ off < 0x200 then
    (upto 8).foldl (fun n k => n + l.slice (off - 0x100 + k) * 2 ^ (8 * k)) 0
  else 0

/-- The package block's doubleword (R430, R433, R436-R438). -/
def State.pkgReg (s : State) (off : Nat) : Nat :=
  let p := s.pkg
  if off = 0x000 then Config.lvMax.toNat * 2 ^ 16 + Config.lvMin.toNat
  else if off = 0x008 then p.pqtb.toNat * 2 ^ 12
  else if off = 0x010 then p.cutb.toNat * 2 ^ 12
  else if off = 0x018 then p.pctxb.toNat * 2 ^ 12
  else if off = 0x020 then p.pctxl.toNat
  else if off = 0x028 then p.cur.toNat * 2 ^ 32 + p.svMax.toNat * 2 ^ 16 + p.svMin.toNat
  else if off = 0x030 then p.repairs.length * 2 ^ 32 + b2n p.ovf
  else if off = 0x038 then p.trips * 2 ^ 32 + (upto 8).foldl (fun n d => n + (s.die d).throttle * 4 ^ d) 0
  else if 0x040 ≤ off ∧ off < 0x060 then (tgetD ((off - 0x40) / 8) 0 p.schalt).toNat
  else 0

/-- A host port, down after reset (R472). -/
def Fabric.host (f : Fabric) (p : Nat) : HostPort := tgetD p ⟨true, 0, 0, []⟩ f.hosts

/-- A Dramon port. -/
def Fabric.port (f : Fabric) (p : Nat) : Port := tgetD p ⟨false, 0, false, 0, 0, 0, 0, 0, [], [], 0⟩ f.ports

/-- The fabric block's doubleword (R472). -/
def Fabric.reg (f : Fabric) (off : Nat) : Nat :=
  if off = 0x000 then Config.dvMax.toNat * 2 ^ 48 + Config.dvMin.toNat * 2 ^ 32 + 18
  else if off = 0x008 then b2n f.pidSet * 2 ^ 12 + f.pid.toNat
  else if off = 0x010 then f.fwdto.toNat
  else if off = 0x018 then f.holdlim.toNat
  else if off = 0x020 then b2n f.recov
  else if off = 0x028 then f.frtab.toNat * 2 ^ 12
  else if off = 0x030 then
    b2n f.hverOk * 2 ^ 48 + f.hverSel.toNat * 2 ^ 32 + Config.hvMax.toNat * 2 ^ 16 + Config.hvMin.toNat
  else if off = 0x038 then b2n (f.host 0).down + b2n (f.host 1).down * 2
  else if 0x040 ≤ off ∧ off < 0x0C0 then (tgetD ((off - 0x40) / 8) 0 f.hrr).toNat
  else if 0x0C0 ≤ off ∧ off < 0x0D0 then (tgetD ((off - 0xC0) / 8) 0 f.hbase).toNat
  else if 0x100 ≤ off ∧ off < 0x190 then
    let p := f.port ((off - 0x100) / 8)
    p.replays * 2 ^ 32 + p.peer.toNat * 2 ^ 20 + p.ver.toNat * 2 ^ 4 + b2n p.verr * 2 ^ 3 + p.width * 2 + b2n p.up
  else if 0x200 ≤ off ∧ off < 0x400 then (tgetD ((off - 0x200) / 8) 0 f.fence).toNat
  else 0

/-- The capability block's doubleword (R471). -/
def State.capReg (s : State) (off : Nat) : Nat :=
  if off = 0x000 then Config.capCC * 2 ^ 12
  else if off = 0x008 then Config.capCL * 2 ^ 12
  else if off = 0x010 then Config.capDI * 2 ^ 12
  else if off = 0x018 then Config.capL2 * 2 ^ 12
  else if off = 0x020 then Config.capPK * 2 ^ 12
  else if off = 0x028 then Config.capFB * 2 ^ 12
  else if off = 0x030 then b2n s.bm
  else 0

/-- A block of the privileged register space. -/
inductive Block
  | cap | core (a : Nat) | cluster (c : Nat) | die (d : Nat) | l2 | pkg | fab | none
  deriving DecidableEq, Repr

/-- The block that holds a local physical address (R471). -/
def blockOf (pa : Nat) : Block :=
  let u := pa / 4096
  if u = 0xF0000100 then .cap
  else if Config.capCC ≤ u ∧ u < Config.capCC + 512 then .core (u - Config.capCC)
  else if Config.capCL ≤ u ∧ u < Config.capCL + 128 then .cluster (u - Config.capCL)
  else if Config.capDI ≤ u ∧ u < Config.capDI + 8 then .die (u - Config.capDI)
  else if u = Config.capL2 then .l2
  else if u = Config.capPK then .pkg
  else if u = Config.capFB then .fab
  else .none

/-- The aligned doubleword at a local physical address of the register space (R478). -/
def State.regDouble (s : State) (pa : Nat) : Nat :=
  let off := pa % 4096 / 8 * 8
  match blockOf pa with
  | .cap => s.capReg off
  | .core a => (s.core a).reg off
  | .cluster c => (s.cluster c).reg off
  | .die d => (s.die d).reg d off
  | .l2 => s.l2.reg off
  | .pkg => s.pkgReg off
  | .fab => s.fab.reg off
  | .none => 0

/-- One byte of the register space as a load reads it (R478). -/
def State.regByte (s : State) (pa : Nat) : BitVec 8 := BitVec.ofNat 8 (s.regDouble pa / 2 ^ (8 * (pa % 8)))

/-! ### Writes -/

/-- Saturating increment of a 32-bit counter. -/
def sat32 (n : Nat) : Nat := Nat.min n (2 ^ 32 - 1)

/-- LRMj as a service thread writes it (R228). -/
def State.lrmWrite (s : State) (a j : Nat) (v : Word) : State :=
  let c := s.core a
  let new (l : Nat) : Nat := if c.deg && decide (l = c.orphan) then c.physLane l
    else if l / 4 = j then v.toNat / 2 ^ (7 * (l % 4)) % 128 else c.physLane l
  let checked := (upto 64).filter fun l => !(c.deg && decide (l = c.orphan))
  let failed (p : Nat) : Bool := if p = 64 then c.spf else c.lfail.getLsbD p
  let fields := checked.filter fun l => decide (l / 4 = j)
  if s.residentOn a || fields.any (fun l => decide (64 < new l) || failed (new l))
      || !decide ((checked.map new).Nodup) then s
  else s.onCore a fun c =>
    { c with
      lanes := (upto 64).foldl (fun t l => if new l = l then tdel l t else tset l (new l) t) c.lanes
      spare := (checked.find? fun l => decide (new l = 64)).getD 0x7F }

/-- Any write of LSTAT clears LERRS (R224). -/
def State.lstatWrite (s : State) (a : Nat) : State := s.onCore a fun c => { c with lerrs := 0 }

/-- DTABL (R379). -/
def State.dtablWrite (s : State) (d : Nat) (v : DWord) : State :=
  let n := v.toNat % 2 ^ 20
  if s.anyResident || s.asnInUse || decide (n < 4096) then s else s.onDie d fun x => { x with ntab := n }

/-- DTABB (R379). -/
def State.dtabbWrite (s : State) (d : Nat) (v : DWord) : State :=
  if s.anyResident || s.asnInUse then s else s.onDie d fun x => { x with dtabb := v.extractLsb' 15 41 }

/-- HBASEp (R472): a reserved SIZE leaves SIZE as it was (R8); a window that is not aligned leaves the register. -/
def State.hbaseWrite (s : State) (p : Nat) (v : DWord) : State :=
  let old := tgetD p 0 s.fab.hbase
  let size := if 33 < v.toNat / 2 ^ 56 then old.toNat / 2 ^ 56 else v.toNat / 2 ^ 56
  let base := v.toNat / 2 ^ 12 % 2 ^ 44
  if 2 ^ 32 ≤ base ∨ (0 < size ∧ base % 2 ^ (size - 1) ≠ 0) then s
  else { s with fab := { s.fab with
    hbase := tset p (BitVec.ofNat 64 (size * 2 ^ 56 + base * 2 ^ 12)) s.fab.hbase } }

/-- HRRj (R472). A write of BASE bits [55:44], or of V with LEN 0, is stored without those bits and as it is: R472 says what
the fields may be and not what a write that breaks this does (DESIGN CHOICE, notes/assumptions/113.md). -/
def State.hrrWrite (s : State) (j : Nat) (v : DWord) : State :=
  { s with fab := { s.fab with hrr := tset j (v &&& 0x80000FFFFFFFFFFF) s.fab.hrr } }

/-- CAPBM: bring-up mode is cleared for good (R470, R471). -/
def State.capbmWrite (s : State) (v : DWord) : State := if v.getLsbD 0 then s else { s with bm := false }

/-- FRECOV (R454, R472). -/
def State.frecovWrite (s : State) (v : DWord) : State := { s with fab := { s.fab with recov := v.getLsbD 0 } }

/-- PIDR: one write after reset (R443, R472). A write of 0xFFF, which is no package, is ignored and uses nothing up: R8 gives
the ids 0-4094 and does not say what it does (DESIGN CHOICE, notes/assumptions/113.md). -/
def State.pidrWrite (s : State) (v : DWord) : State :=
  let pid := v.extractLsb' 0 12
  if s.fab.pidSet || decide (pid = 0xFFF) then s
  else { s with fab := { s.fab with pid := pid, pidSet := true } }

/-- HVER.SEL and OK (R465). -/
def State.hverWrite (s : State) (v : DWord) : State :=
  let sel := v.extractLsb' 32 16
  { s with fab := { s.fab with hverSel := sel, hverOk := decide (Config.hvMin ≤ sel) && decide (sel ≤ Config.hvMax) } }

/-- A register without behaviour of its own (R478): a store of another size or at another offset changes nothing. -/
def State.plainRegWrite (s : State) (pa n : Nat) (v : DWord) : State :=
  let off := pa % 4096
  if n ≠ 8 ∨ pa % 8 ≠ 0 then s
  else match blockOf pa with
    | .core a => if off = 0x018 then s.onCore a fun c => { c with wdog := v.toNat % 2 ^ 32 } else s
    | .l2 => if off = 0x008 then { s with l2 := { s.l2 with rtabb := v.extractLsb' 22 34 } } else s
    | .die d => if off = 0x010 then s.dtabbWrite d v else s
    | .pkg =>
      if s.anyResident then s
      else if off = 0x008 then { s with pkg := { s.pkg with pqtb := v.extractLsb' 12 44 } }
      else if off = 0x010 then { s with pkg := { s.pkg with cutb := v.extractLsb' 12 44 } }
      else if off = 0x018 then { s with pkg := { s.pkg with pctxb := v.extractLsb' 12 44 } }
      else if off = 0x020 then { s with pkg := { s.pkg with pctxl := v } }
      else s
    | .fab =>
      if off = 0x010 then { s with fab := { s.fab with fwdto := v.extractLsb' 0 32 } }
      else if off = 0x018 then { s with fab := { s.fab with holdlim := v.extractLsb' 0 32 } }
      else if off = 0x028 then { s with fab := { s.fab with frtab := v.extractLsb' 12 44 } }
      else if 0x040 ≤ off ∧ off < 0x0C0 then s.hrrWrite ((off - 0x40) / 8) v
      else s
    | _ => s

end Sys2Proof.Machine
end

