-- ==== Sys2Proof/Machine/Checkpoint.lean ====
section
/-! DEFINITION. Guard levels: signatures, checkpoints and their commit, the berm log's capacity, rollback, the failure
of a team (08_core_execution.md R230-R232, 12_cluster.md R313, R344-R349). -/
namespace Sys2Proof.Machine

/-! ### Signatures (R346) -/

/-- One bit of CRC-64 with the ECMA-182 polynomial. -/
def crcBit (c : BitVec 64) : BitVec 64 := if c.msb then (c <<< 1) ^^^ 0x42F0E1EBA9EA3693 else c <<< 1

/-- One byte, most significant bit first. -/
def crcByte (c : BitVec 64) (b : BitVec 8) : BitVec 64 :=
  (upto 8).foldl (fun c _ => crcBit c) (c ^^^ (b.zeroExtend 64 <<< 56))

/-- The CRC of bytes after a state. -/
def crcBytes (c : BitVec 64) (bs : List (BitVec 8)) : BitVec 64 := bs.foldl crcByte c

/-- A record of the store stream: address, tag, data. -/
def sigRecord (addr : Nat) (tag : Nat) (data : List (BitVec 8)) : List (BitVec 8) :=
  natBytes 8 addr ++ [BitVec.ofNat 8 tag] ++ data

/-- Guard level of the party's team; 0 for a service thread. -/
def State.guardOf (s : State) (p : Party) : Nat :=
  match s.teamOf p with
  | some tk => (s.team tk).launch.grd
  | none => 0

/-- A record joins the thread's stream at guard level 2. -/
def State.sign (s : State) (p : Party) (r : ThreadRef) (bs : List (BitVec 8)) : State :=
  if s.guardOf p = 2 then s.onThread r fun t => { t with sig := crcBytes t.sig bs } else s

/-- The threads of a team, its headland included. -/
def State.teamThreads (s : State) (tk : Nat) : List ThreadRef :=
  s.threads.filterMap fun x => match x.1 with
    | .compute k _ | .headland k => if k = tk then some x.1 else none
    | _ => none

/-- The team's signature (R346). -/
def State.teamSig (s : State) (tk : Nat) : BitVec 64 :=
  (s.teamThreads tk).foldl (fun c r => c ^^^ (s.thread r).sig) 0

/-! ### Held entries (R313) -/

/-- The team's own entries, not those of its helpers, in an ebb queue. -/
def EbbEntry.ofTeam (tk : Nat) (e : EbbEntry) : Bool :=
  decide (e.tk = some tk) && (match e.stream with | .helper _ _ => false | _ => true)

/-- An engine entry with its held mark cleared. -/
def EngEntry.unheld : EngEntry → EngEntry
  | .cmd c => .cmd { c with held := false }
  | .fence id m => .fence id m

/-- The engine entry is held. -/
def EngEntry.isHeld : EngEntry → Bool
  | .cmd c => c.held
  | .fence _ _ => false

/-- The team's held entries and commands become Ready. -/
def State.readyAll (s : State) (tk : Nat) : State :=
  let ready (es : List EbbEntry) := es.map fun e => if e.ofTeam tk then { e with held := false } else e
  let s := { s with coreMem := tmap (fun _ m => { m with ebb := ready m.ebb }) s.coreMem }
  s.onTeam tk fun t => { t with engines := tmap (fun _ q => { q with entries := q.entries.map EngEntry.unheld }) t.engines }

/-- The team's held entries and commands are discarded. -/
def State.dropHeld (s : State) (tk : Nat) : State :=
  let keep (es : List EbbEntry) := es.filter fun e => !(e.held && decide (e.tk = some tk))
  let s := { s with coreMem := tmap (fun _ m => { m with ebb := keep m.ebb }) s.coreMem }
  let free (q : EngQueue) : EngQueue := { q with entries := q.entries.filter fun e => !e.isHeld }
  s.onTeam tk fun t => { t with engines := tmap (fun _ q => free q) t.engines }

/-! ### Checkpoints (R230) -/

/-- A core is no more: out of service, or of a cluster that is lost (R222, R359). -/
def State.coreGone (s : State) (core : Nat) : Bool :=
  (s.core core).out || (s.die (dieOfAgent core)).clout.getLsbD (core % 64 / 4)

/-- A team runs on a core that is no more. -/
def State.teamLeaves (s : State) (tk : Nat) : Bool := (s.team tk).cores.any s.coreGone

/-- The party belongs to a team. -/
def partyOfTeam (tk : Nat) : Party → Bool
  | .gang k _ _ => decide (k = tk)
  | .headland k => decide (k = tk)
  | _ => false

/-- A table without the entries whose key a test names. -/
def tdrop {κ α : Type} (f : κ → Bool) (t : Table κ α) : Table κ α := t.filter fun x => !f x.1

/-- The entries whose key a test names. -/
def tkeep {κ α : Type} (f : κ → Bool) (t : Table κ α) : Table κ α := t.filter fun x => f x.1

/-- The thread belongs to a team. -/
def refOfTeam (tk : Nat) : ThreadRef → Bool
  | .compute k _ => decide (k = tk)
  | .headland k => decide (k = tk)
  | _ => false

/-- The control state of a team as a frame (R230). -/
def State.snapshot (s : State) (tk : Nat) : Frame :=
  let t := s.team tk
  { threads := tkeep (refOfTeam tk) s.threads
    ctxs := tkeep (partyOfTeam tk) s.ctxs
    groups := tkeep (fun (k : Nat × Nat) => decide (k.1 = tk)) s.groups
    recruits := tkeep (fun (k : Nat × Nat) => decide (k.1 = tk)) s.recruits
    helpers := (tkeep (fun (k : Nat × Nat) => decide (k.1 = tk)) s.recruits).flatMap fun x => x.2.frames.map fun f =>
      ((x.2.core, f), s.helper x.2.core f, s.thread (.helper x.2.core f))
    pools := t.pools, barriers := t.barriers, views := t.views, mx := t.mx, push := t.push, engines := t.engines
    gbarArrived := t.gbarArrived, hEnded := t.hEnded, hFaulted := t.hFaulted }

/-- A new interval begins: the logs are emptied, the counts and signatures start anew, the frame is taken. -/
def State.newInterval (s : State) (tk : Nat) : State :=
  let begin_ (t : Thread) : Thread := { t with log := some [], sig := 0, count := 0 }
  let s := { s with threads := tmap (fun r t => if refOfTeam tk r then begin_ t else t) s.threads }
  let s := s.onTeam tk fun t =>
    { t with lineLog := some [], nonRollback := false, rollbacks := 0, berm := [], mismatched := false, atCut := false
             cut := false }
  { s with frames := tset tk (s.snapshot tk) s.frames }

/-- The interval that ends is committed at guard level 1, or in the primary copy of a pair. -/
def State.commitTeam (s : State) (tk : Nat) : State := (s.readyAll tk).newInterval tk

/-- A team takes a checkpoint: at once at level 1, at the next cut at level 2 (R230, R345). -/
def State.checkpoint (s : State) (tk : Nat) : State :=
  match (s.team tk).launch.grd, (s.team tk).pair with
  | 0, _ => s
  | 2, .none => s.commitTeam tk
  | 2, _ => s.onTeam tk fun t => { t with atCut := true }
  | _, _ => s.commitTeam tk

/-- The issuing gang's checkpoint has committed: its wait says so. -/
def State.checkpointed (s : State) : Bool := s.cctx.pastCut

/-- The instruction at which the issuing gang parks for a cut has issued: it counts in the interval that the cut ends
(R345). -/
def State.countIssued (s : State) : State :=
  forEach (s.lanes s.cur) s fun l s => s.onThread l.ref fun t => { t with count := t.count + 1 }

/-- What follows once the checkpoint that an instruction takes when issued has committed (R230, R326, R396). `rec_` makes
the records of an instruction that takes effect once: they stand in the interval that its checkpoint ends, so that both
copies have made them (R346, R348, notes/assumptions/18.md). -/
def State.afterCheckpoint (s : State) (rec_ : State → State) (k : State → State) : State :=
  match s.teamOf s.cur with
  | none => k s
  | some tk =>
    let t := s.team tk
    if t.launch.grd = 0 ∨ s.checkpointed then k s
    else if t.launch.grd = 2 ∧ t.pair ≠ .none then ((rec_ s).countIssued.checkpoint tk).park .cut
    else k (s.checkpoint tk)

/-- The issuing team is the shadow of a pair: an effect that happens once happens in the primary (R348). -/
def State.inShadow (s : State) : Bool :=
  match s.teamOf s.cur with
  | some tk => match (s.team tk).pair with | .shadow _ => true | _ => false
  | none => false

/-- The partner of a primary. -/
def State.shadowOf (s : State) (tk : Nat) : Option Nat :=
  match (s.team tk).pair with
  | .primary x => some x
  | _ => none

/-- What an effect performed after its checkpoint leaves is part of that checkpoint's frame: a rollback does not perform
it again (R348). -/
def State.sealEffect (s : State) (tk : Nat) (ps : List Party) (refs : List ThreadRef) : State :=
  if (s.team tk).launch.grd = 0 then s
  else
    let s := forEach refs s fun r s => s.onThread r fun t => { t with log := t.log.map fun _ => [] }
    match tget tk s.frames with
    | none => s
    | some f =>
      let f := forEach refs f fun r f => { f with threads := tset r (s.thread r) f.threads }
      let f := forEach ps f fun p f => { f with ctxs := tset p (s.ctx p) f.ctxs }
      { s with frames := tset tk f s.frames }

/-- A context's wait that takes in what an effect performed once has answered: the frame keeps it as well. -/
def State.sealCtx (s : State) (p : Party) : State :=
  match s.teamOf p with
  | some tk => match tget tk s.frames with
    | some f => match tget p f.ctxs with
      | some c => if c.wait.isSome ∧ c.pc = (s.ctx p).pc then
          { s with frames := tset tk { f with ctxs := tset p (s.ctx p) f.ctxs } s.frames }
        else s
      | none => s
    | none => s
  | none => s

/-- A party of the primary, as the shadow names it. -/
def mirrorParty (x : Nat) : Party → Party
  | .gang _ g q => .gang x g q
  | .headland _ => .headland x
  | p => p

/-- A thread of the primary, as the shadow names it. -/
def mirrorRef (x : Nat) : ThreadRef → ThreadRef
  | .compute _ tid => .compute x tid
  | .headland _ => .headland x
  | r => r

/-- The results of an instruction that takes effect once: in every copy `also` is done for the issuing party and its lanes,
the acquire and the pops, the results are written to the lanes' threads and the instruction retires; the effect is sealed
(R172, R348). -/
def State.deliver (s : State) (act : List Lane) (also : List Lane → State → State)
    (outs : List (ThreadRef × (Thread → Thread))) : State :=
  let ps := s.gang s.cur
  let me := s.cur
  let go (s : State) (outs : List (ThreadRef × (Thread → Thread))) : State :=
    forEach outs s fun x s => s.onThread x.1 x.2
  let s := go (also act s) outs
  let s := s.retire
  match s.teamOf s.cur with
  | none => s
  | some tk =>
    let s := s.sealEffect tk ps (outs.map (·.1))
    match s.shadowOf tk with
    | none => s
    | some x =>
      let ps' := ps.map (mirrorParty x)
      let outs' := outs.map fun o => (mirrorRef x o.1, o.2)
      let there := also (act.map fun l => { l with ref := mirrorRef x l.ref }) { s with cur := mirrorParty x me }
      let s := go { there with cur := me } outs'
      let s := forEach (ps'.flatMap s.ctxLanes) s fun l s => s.onThread l.ref fun t => { t with count := t.count + 1 }
      let s := forEach ps' s fun p s => s.onCtx p (Ctx.retired s.time.toNat)
      s.sealEffect x ps' (outs'.map (·.1))

/-! ### The cut of a pair (R345) -/

/-- The copy that stands at a cut runs a party on only where a lane of it has counted less than its partner. -/
def State.behindPartner (s : State) (p : Party) : Bool :=
  let behind (x : Nat) : Bool :=
    (s.lanes p).any fun l => decide ((s.thread l.ref).count < (s.thread (mirrorRef x l.ref)).count)
  match s.teamOf p with
  | none => true
  | some tk => match (s.team tk).pair with
    | .none => true
    | .primary x => behind x
    | .shadow x => behind x

/-- A party is stopped at its instruction boundary because its pair gathers at a cut. -/
def State.cutStopped (s : State) (p : Party) : Bool :=
  let c := s.ctx p
  match s.teamOf p with
  | none => false
  | some tk => (s.team tk).atCut && partyOfTeam tk p && !c.idle && decide (c.m ≠ 0) && decide (c.run.len = 0)
      && c.wait.isNone && !s.behindPartner p

/-! ### The berm log's capacity (R231) -/

/-- Capacity of a core's berm log in bytes (R225). -/
def bermBytes : Nat := (if Config.storeDie then 256 else 128) * 1024

/-- The core of a pair, 0 the lower, that holds a thread of a team (R306). -/
def Team.halfOf (t : Team) (r : ThreadRef) : Nat :=
  match r with
  | .compute _ tid => if t.paired ∧ 1024 ≤ tid then 1 else 0
  | _ => 0

/-- Bytes that a team's records of the interval ask for on one of its cores: words of its threads there, lines of the half
of its scratchpad there (R231, R306). -/
def State.bermUse (s : State) (tk half : Nat) : Nat :=
  let t := s.team tk
  let lines := (t.lineLog.getD []).filter fun l =>
    decide ((if t.paired ∧ t.launch.z / 2 ≤ 64 * l.line then 1 else 0) = half)
  ((s.teamThreads tk).filter fun r => decide (t.halfOf r = half)).foldl
    (fun n r => n + 8 * ((s.thread r).log.getD []).length) 0 + 72 * lines.length

/-- Bytes in use in a core's berm log, but for a team's: a team that has stopped recording keeps what it has until its next
checkpoint (R230, R231). -/
def State.bermOthers (s : State) (core tk : Nat) : Nat :=
  (s.teams.filter fun x => x.2.resident && x.2.cores.contains core && decide (x.1 ≠ tk)).foldl
    (fun n x => n + tgetD (core - x.2.core) 0 x.2.berm) 0

/-- The interval becomes non-rollbackable: recording stops; at level 1 the held stores drain (R231, R313). -/
def State.overflowOne (s : State) (tk : Nat) : State :=
  let s := { s with threads := tmap (fun r t => if refOfTeam tk r then { t with log := none } else t) s.threads }
  let s := s.onTeam tk fun t => { t with lineLog := none, nonRollback := true }
  if (s.team tk).launch.grd = 1 then s.readyAll tk else s

/-- An overflow in either copy of a pair makes the interval non-rollbackable in both. -/
def State.overflow (s : State) (tk : Nat) : State :=
  match (s.team tk).pair with
  | .primary x => (s.overflowOne tk).overflowOne x
  | .shadow x => (s.overflowOne tk).overflowOne x
  | .none => s.overflowOne tk

/-- The records that a step made for a team on one of its cores enter the core's log; one that does not fit makes the
interval non-rollbackable. -/
def State.bermHalf (s : State) (tk half : Nat) : State :=
  let t := s.team tk
  let use := s.bermUse tk half
  if use ≤ tgetD half 0 t.berm then s
  else if bermBytes < s.bermOthers (t.core + half) tk + use then s.overflow tk
  else s.onTeam tk fun t => { t with berm := tset half use t.berm }

/-- The records that a step made, of whichever team wrote (R231). -/
def State.bermCheck (s : State) : State :=
  forEach s.teams s fun x s =>
    let recording (s : State) : Bool :=
      let t := s.team x.1
      t.resident && decide (t.launch.grd ≠ 0) && t.lineLog.isSome
    let s := if recording s then s.bermHalf x.1 0 else s
    if recording s && x.2.paired then s.bermHalf x.1 1 else s

/-! ### Failure and rollback (R232) -/

/-- Every helper of a team is released: one inside a hint run once its instruction has issued (R62, R210, R232). -/
def State.releaseHelpers (s : State) (tk : Nat) : State :=
  forEach s.helpers s fun x s =>
    if x.2.tk = tk ∧ (x.2.st = .granted ∨ x.2.st = .running) then
      if (s.ctx (.helper x.1.1 x.2.quad)).atBoundary then s.stopHelper x.1.1 x.1.2 .released
      else s.onHelper x.1.1 x.1.2 fun h => { h with leaves := true }
    else s

/-- Where the stopped helpers of a team stand that has left its core: in no helper frame (notes/assumptions/122.md). -/
def awayCore : Nat := 1024

/-- A recruitment whose helpers have stopped, away from every core's frames. -/
def State.placeAway (s : State) (k : Nat × Nat) (r : Recruitment) (hs : List (Helper × Thread)) : State :=
  let base := s.nextId
  let s := (hs.zip (upto hs.length)).foldl (fun s x =>
    { s with helpers := tset (awayCore, base + x.2) x.1.1 s.helpers, threads := tset (.helper awayCore (base + x.2)) x.1.2 s.threads }) s
  { s with recruits := tset k { r with core := awayCore, frames := (upto hs.length).map (base + ·) } s.recruits
           nextId := base + hs.length }

/-- The helper frames of a team freed, with what stands in them. -/
def State.freeHelpers (s : State) (tk : Nat) : State :=
  let mine (k : Nat × Nat) : Bool := (tget k s.helpers).any fun h => decide (h.tk = tk)
  { s with
    threads := tdrop (fun r => match r with | .helper c f => mine (c, f) | _ => false) s.threads
    helpers := tdrop mine s.helpers }

/-- A team that leaves its core takes its outstanding recruitments along, their helpers stopped: the frames that they held are
free (R211, R212). -/
def State.helpersAway (s : State) (tk : Nat) : State :=
  let mine := (s.recruits.filter fun x => decide (x.1.1 = tk)).map fun x =>
    (x.1, x.2, x.2.frames.map fun f => (s.helper x.2.core f, s.thread (.helper x.2.core f)))
  mine.foldl (fun s x => s.placeAway x.1 x.2.1 x.2.2) (s.freeHelpers tk)

/-- A helper as a rollback leaves it: one that had not stopped at the checkpoint is released (R210, R232). -/
def Helper.rolled (h : Helper) : Helper := if h.st = .granted ∨ h.st = .running then { h with st := .released } else h

/-- The recruitments of a frame restored, with helpers that have all stopped. -/
def State.restoreRecruits (s : State) (tk : Nat) (f : Frame) : State :=
  let s := s.freeHelpers tk
  let s := { s with recruits := tdrop (fun (k : Nat × Nat) => decide (k.1 = tk)) s.recruits }
  f.recruits.foldl (fun s x => s.placeAway x.1 x.2 (x.2.frames.map fun n =>
    let y := tgetD (x.2.core, n) (Helper.absent, Thread.fresh) f.helpers
    (y.1.rolled, if y.1.rolled = y.1 then y.2 else { y.2 with hr := [], lease := none }))) s

/-- A record of a team that fails breaks (R218). -/
def Barrier.breaks (b : Barrier) : Barrier := if b.init then { b with broken := true } else b

/-- A record of a failing team breaks, so that every party that waits on it becomes Ready and takes what its form says of a
broken barrier: cause 0x11 with its record and notice, p1 in GBAR (R218, R268, R270). -/
def State.breakWaits (s : State) (tk : Nat) : State :=
  let me := s.cur
  let take (p : Party) (s : State) : State :=
    let c := s.ctx p
    let s := { s with cur := p }
    let act := s.active p c.guard
    match c.wait with
    | some (.barrier _ _ _) => s.raise { cause := 0x11, lanes := act, after := true }
    | some (.gbar true _) => s.raise { cause := 0x11, lanes := act, after := true }
    | some (.gbar false _) => (forEach act s fun l s => s.onThread l.ref fun t => t.setPred 1 true).retire
    | _ => s
  { forEach (s.ctxs.filter fun x => partyOfTeam tk x.1) s fun x s => take x.1 s with cur := me }

/-- One copy stops. -/
def State.stopOne (s : State) (tk : Nat) (cause : BitVec 8) : State :=
  let s := (s.releaseHelpers tk).dropHeld tk
  let endGroup (g : Group) : Group := { g with live := false, ended := true, faulted := none, deferred := [] }
  let s := { s with groups := tmap (fun k g => if k.1 = tk then endGroup g else g) s.groups }
  let endCtx (c : Ctx) : Ctx := { c with idle := true, m := 0, stack := [], spilled := 0, wait := none }
  let s := { s with ctxs := tmap (fun p c => if partyOfTeam tk p then endCtx c else c) s.ctxs }
  let s := { s with threads := tmap (fun r t => if refOfTeam tk r then { t with lease := none } else t) s.threads }
  s.onTeam tk fun t =>
    { t with failed := some (t.failed.getD cause), hEnded := true, hFaulted := false, atCut := false, cut := false
             rolling := false, barriers := tmap (fun _ b => b.breaks) t.barriers
             mx := { t.mx with queue := [] }
             engines := tmap (fun _ q => { q with entries := [], parked := none }) t.engines }

/-- One copy stops as failed. -/
def State.failOne (s : State) (tk : Nat) (cause : BitVec 8) : State := (s.breakWaits tk).stopOne tk cause

/-- The team fails with a cause, both copies of a pair together (R176, R349). -/
def State.failTeam (s : State) (tk : Nat) (cause : BitVec 8) : State :=
  match (s.team tk).pair with
  | .primary x => (s.failOne tk cause).failOne x cause
  | .shadow x => (s.failOne tk cause).failOne x cause
  | .none => s.failOne tk cause

/-- The register words of a thread with its logged values restored, newest record first. -/
def undoRegs (t : Thread) : Table Nat Word := ((t.log.getD []).foldl (fun r x => tset x.1 x.2 r) t.regs)

/-- The register words of a thread that hold uncorrectable data after a rollback: of those restored from the log the ones
that did at the checkpoint, of the others the ones that do now (R232). -/
def undoBad (now old : Thread) : List Nat :=
  let logged (w : Nat) : Bool := (now.log.getD []).any fun x => decide (x.1 = w)
  old.bad.filter logged ++ now.bad.filter fun w => !logged w

/-- A line of scratchpad restored from its record. -/
def Team.undoLine (t : Team) (l : LineLog) : Team :=
  let base := l.line * 64
  { t with
    padBad := (t.padBad.filter fun w => decide (w / 64 ≠ l.line)) ++ l.bad
    pad := forEach (upto 64) t.pad fun i p => tset (base + i) (l.bytes.getD i 0) p
    full := forEach (upto 16) t.full fun i f =>
      let w := base + 4 * i
      if l.fe.getD i false then (if f.contains w then f else w :: f) else f.filter (· ≠ w) }

/-- The barrier records of a frame: one that was initialised after it is broken (R218). -/
def brokenPast (now frame : Table Nat Barrier) : Table Nat Barrier :=
  now.foldl (fun t x =>
    let old := tgetD x.1 ⟨false, false, false, false, 0, 0, 0, [], []⟩ frame
    if x.2.init && !old.init then tset x.1 { old with broken := true } t else t) frame

/-- One copy goes back to its last checkpoint: helpers released, logs undone, held entries discarded, the frame
restored. -/
def State.rollbackOne (s : State) (tk : Nat) : State :=
  let s := ((s.releaseHelpers tk).dropHeld tk).forgetParties fun p => match p with
    | .gang k gid _ => decide (k = tk) && decide (gid < 1000)
    | p => partyOfTeam tk p
  match tget tk s.frames with
  | none => s
  | some f =>
    let restored (r : ThreadRef) (old : Thread) : Thread := 
      let now := s.thread r
      { old with regs := undoRegs now, bad := undoBad now old, log := some [] }
    let threads := f.threads.map fun x => (x.1, restored x.1 x.2)
    let s := { s with
      threads := threads ++ tdrop (refOfTeam tk) s.threads
      ctxs := f.ctxs ++ tdrop (partyOfTeam tk) s.ctxs
      groups := f.groups ++ tdrop (fun (k : Nat × Nat) => decide (k.1 = tk)) s.groups }
    (s.restoreRecruits tk f).onTeam tk fun t =>
      let t := (t.lineLog.getD []).foldl Team.undoLine t
      { t with pools := f.pools, barriers := brokenPast t.barriers f.barriers, views := f.views, mx := f.mx
               push := f.push, engines := enginesPast t.engines f.engines
               filling := refill t.filling (enginesPast t.engines f.engines), lineLog := some []
               rollbacks := t.rollbacks + 1, atCut := false, cut := false, rolling := false
               gbarArrived := f.gbarArrived, hEnded := f.hEnded, hFaulted := f.hFaulted }

/-- The team's interval cannot be rolled back (once more) (R231, R232). -/
def Team.spent (t : Team) : Bool := t.nonRollback || t.lineLog.isNone || decide (2 ≤ t.rollbacks)

/-- An uncorrectable error consumed by a team at guard level 1 or 2: the team stops at its instruction boundaries to roll
back, or fails with cause 0x09 when the interval cannot be rolled back or has been twice (R232). Of a pair only the copy
that consumed the error goes back: R232 speaks of the team, and the spec does not say whether its partner goes back as
well (DESIGN CHOICE, notes/assumptions/107.md). -/
def State.consumePoison (s : State) (tk : Nat) : State :=
  if (s.team tk).spent then s.failTeam tk 0x09 else s.onTeam tk fun t => { t with rolling := true }

/-- The team that a running or granted helper context belongs to, or the party's own. -/
def State.standsIn (s : State) (tk : Nat) (p : Party) : Bool :=
  partyOfTeam tk p || (match p with | .helper c q => decide (s.helperTeam c q = some tk) | _ => false)

/-- Every context of a team, its helpers' among them, stands at an instruction boundary (R62, R232). -/
def State.teamAtBoundary (s : State) (tk : Nat) : Bool :=
  s.ctxs.all fun x => !s.standsIn tk x.1 || x.2.atBoundary

/-- The teams that have consumed an uncorrectable error and stand at their boundaries go back. -/
def State.rollbackDue (s : State) : State :=
  forEach s.teams s fun x s =>
    if (s.team x.1).rolling && s.teamAtBoundary x.1 then s.rollbackOne x.1 else s

/-- An exception of a memory access: cause 0x09 of a guarded team rolls it back instead; the instruction has no effect, so
that its gang stands before its hint run (R62, R232). -/
def State.raiseMem (s : State) (t : Trap) : State :=
  match s.teamOf s.cur with
  | some tk =>
    if t.cause = 0x09 ∧ (s.team tk).launch.grd ≠ 0 then
      (s.onGang s.cur fun c => { c with run := HintRun.empty, wait := none }).consumePoison tk
    else s.raise t
  | none => s.raise t

/-! ### The end of an operand region (R24, R159) -/

/-- The word of a region write-back at which some lane meets uncorrectable data, from a word on: word i of a lane is its i-th
dirty word in ascending register-space order, and all lanes complete a word before any goes on. -/
def State.writeBackStop (s : State) (ls : List Lane) (from_ : Nat) : Option (Nat × List Lane) :=
  (upto 32).findSome? fun i =>
    let hit := if i < from_ then [] else ls.filter fun l => let t := s.thread l.ref; (t.dirty[i]?).any t.bad.contains
    if hit = [] then none else some (i, hit)

/-- The words of the lanes' regions stand written back. -/
def State.regionsClean (s : State) (ls : List Lane) : State :=
  forEach ls s fun l s => if (s.thread l.ref).dirty = [] then s else s.onThread l.ref fun t => { t with dirty := [] }

/-- An instruction ends the operand regions of its active lanes: their dirty words are written back, from word COUNT on after
a restart; at uncorrectable data the instruction takes cause 0x09 with the words completed (R24, R159; DEDUCED,
notes/assumptions/108.md). -/
def State.endRegion (s : State) (act : List Lane) (k : State → State) : State :=
  match s.writeBackStop act s.cctx.count with
  | some x => s.raiseMem { cause := 0x09, lanes := x.2, count := x.1 }
  | none => k (s.regionsClean act)

end Sys2Proof.Machine
end

