-- ==== Sys2Proof/Machine/Translate.lean ====
section
/-! DEFINITION. Physical addresses, translation and the checks of an access: the local physical map, page-table entries,
walks over the replicas, TLBs and the miss table, rights, and the order of causes (07_thread_memory_control.md R149,
R150; 14_die.md R360-R368; 16_package_operation.md R434; 18_fabric.md R443, R444, R463). -/
namespace Sys2Proof.Machine

/-! ### Physical addresses -/

/-- Where a physical address leads (R434, R443). -/
inductive Target
  | mem
  /-- the notify window, by offset -/
  | notify (off : Nat)
  | regs
  /-- host memory, behind a host port -/
  | host (port : Nat)
  | remote (pkg : Nat)
  /-- cause 0x06 with these AUX bits -/
  | bad (aux : Nat)
  deriving DecidableEq, Repr

/-- A local address of LPDDR-6 (R434). -/
def isLpddr (l : Nat) : Bool := decide (0x20000000000 ≤ l) && decide (l < 0x40000000000)

/-- The local address is assigned (R434). -/
def assigned (l : Nat) : Bool := isHbm l || isLpddr l || (decide (0xF0000000000 ≤ l) && decide (l < 2 ^ 44))

/-- The local address is memory of the package (R434). -/
def isLocalMem (l : Nat) : Bool := isHbm l || isLpddr l

/-- Start of the notify window (R419). -/
def notifyBase : Nat := 0xF0000000000

/-- The port mask of a package in the route table (R444). -/
def State.routeMask (s : State) (pkg : Nat) : Nat :=
  (mword (s.fab.frtab.toNat * 2 ^ 12 % 2 ^ 44 + 4 * pkg) s.mem).toNat % 2 ^ 18

/-- The host port behind which the host address decoder places a local address (R461, notes/assumptions/23.md). -/
def State.hostPortOf (s : State) (l : Nat) : Option Nat :=
  (s.fab.hdec.find? fun r => decide (r.base ≤ l) && decide (l < r.base + r.len)).map (·.port)

/-- Where a physical address leads. An unassigned local address is none of any package's (R434). -/
def State.target (s : State) (pa : Nat) : Target :=
  let pkg := pa / 2 ^ 44 % 4096
  let l := pa % 2 ^ 44
  if pkg = s.fab.pid.toNat then
    if isLocalMem l then .mem
    else if notifyBase ≤ l then (if l < notifyBase + 0x100000 then .notify (l - notifyBase) else .regs)
    else match s.hostPortOf l with
      | some port => .host port
      | none => .bad 0x20
  else if pkg = 0xFFF ∨ s.routeMask pkg = 0 then .bad 0x80
  else if assigned l then .remote pkg
  else .bad 0x20

/-- The word reads as poison: poisoned by an error, in a frame that has no spare row, or in the stack of an unreachable die
(R381, R435). -/
def State.poisoned (s : State) (w : Nat) : Bool :=
  s.poison.contains w || s.pkg.badFrames.contains (w / 4096) || (isHbm (w % 2 ^ 44) && (s.die (w % 2 ^ 44 / 2 ^ 36)).link)

/-! ### Table entries (R361, R362) -/

/-- The entry is present. -/
def eP (e : Nat) : Bool := e.testBit 63
/-- The entry is a leaf. -/
def eLeaf (e : Nat) : Bool := e.testBit 62
/-- Table number of a pointer. -/
def eTnum (e : Nat) : Nat := bits e 31 12
/-- SPAN of a leaf. -/
def eSpan (e : Nat) : Nat := bits e 61 59
/-- Size of the page of a leaf at a level, as a power of two. -/
def leafLog (lvl span : Nat) : Nat := (if lvl = 2 then 24 else 12) + 2 * span
/-- Size code (R362). -/
def sizeCode (lvl span : Nat) : Nat := (if lvl = 2 then 6 else 0) + span

/-- PFN of a leaf is aligned to its page size (R362). -/
def pfnAligned (lvl e : Nat) : Bool := decide (bits e 55 12 * 4096 % 2 ^ leafLog lvl (eSpan e) = 0)

/-- A leaf's SPAN and reserved bits are sound at a level (R362). -/
def leafForm (lvl e : Nat) : Bool :=
  ((decide (lvl = 3) && decide (eSpan e ≤ 5)) || (decide (lvl = 2) && decide (eSpan e ≤ 3)))
    && decide (bits e 58 56 = 0) && decide (bits e 11 8 = 0) && decide (bits e 5 5 = 0) && decide (bits e 1 0 = 0)

/-- An entry's kind fits its level and its reserved bits are zero. -/
def entryForm (lvl e : Nat) : Bool :=
  if eLeaf e then leafForm lvl e else decide (lvl < 3) && decide (bits e 61 32 = 0) && decide (bits e 11 0 = 0)

/-- An entry that a walker may use: absent, or well formed at its level (R362). -/
def entrySound (lvl e : Nat) : Bool := !eP e || (entryForm lvl e && (!eLeaf e || pfnAligned lvl e))

/-- Index of a virtual address at a level (R360). -/
def vaIndex (va lvl : Nat) : Nat := va / 2 ^ (48 - 12 * lvl) % 4096

/-! ### Walks (R364, R365) -/

/-- The result of reading an entry or of a walk. -/
inductive Walk
  | found (leaf : Leaf)
  | absent
  | poison
  deriving DecidableEq, Repr

/-- Address of a table entry in a die's replica (R360). -/
def State.entryAddr (s : State) (d t i : Nat) : Nat := (s.die d).dtabb.toNat * 2 ^ 15 % 2 ^ 44 + t * 0x8000 + 8 * i

/-- One replica's copy of an entry is sound: its die is not lost, its words are not poisoned, its form is legal. -/
def State.copySound (s : State) (d lvl t i : Nat) : Bool :=
  let a := s.entryAddr d t i
  !(s.die d).link && !s.poisoned a && !s.poisoned (a + 4) && entrySound lvl (bytesNat (mgets a 8 s.mem))

/-- The first die from `d` on that holds a sound copy (R365). -/
def State.soundDie (s : State) (d lvl t i : Nat) : Option Nat :=
  (upto 8).findSome? fun k => if s.copySound ((d + k) % 8) lvl t i then some ((d + k) % 8) else none

/-- A byte range written at its home without a trace in the registration state: the device's own tables. -/
def State.rawWrite (s : State) (a : Nat) (bs : List (BitVec 8)) : State :=
  { s with mem := msets a bs s.mem, poison := s.poison.filter fun w => !(decide (a ≤ w) && decide (w < a + bs.length)) }

/-- An entry read by a walker of die d; a bad copy is rewritten from the first sound one and counted (R365). -/
def State.readEntry (s : State) (d lvl t i : Nat) : State × Option Nat :=
  match s.soundDie d lvl t i with
  | none => (s, none)
  | some d' =>
    let e := bytesNat (mgets (s.entryAddr d' t i) 8 s.mem)
    if d' = d then (s, some e)
    else if (s.die d).link then (s, some e)
    else ((s.rawWrite (s.entryAddr d t i) (natBytes 8 e)).onDie d fun x => { x with trep := sat32 (x.trep + 1) }, some e)

/-- Entries of a walk cache (R358). -/
def walkMax : Nat := 512

/-- An entry as a walk finds it: in the die's walk cache, or read; a pointer that is read enters the cache (R364). -/
def State.walkEntry (s : State) (d lvl t i : Nat) : State × Option Nat :=
  match (s.die d).walks.find? fun x => decide (x.1 = t) && decide (x.2.1 = i) with
  | some x => (s, some x.2.2)
  | none => match s.readEntry d lvl t i with
    | (s', some e) =>
      (if eP e && !eLeaf e then s'.onDie d fun x => { x with walks := ((t, i, e) :: x.walks).take walkMax } else s', some e)
    | r => r

/-- A walk from a level on (R364); `fuel` is the levels left. A table at or above NTAB is no valid table (R379). -/
def State.walkFrom (s : State) (d va : Nat) : Nat → Nat → Nat → State × Walk
  | 0, _, _ => (s, .absent)
  | fuel + 1, lvl, t =>
    if (s.die d).ntab ≤ t then (s, .absent)
    else match s.walkEntry d lvl t (vaIndex va lvl) with
      | (s', none) => (s', .poison)
      | (s', some e) =>
        if !eP e then (s', .absent)
        else if eLeaf e then (s', .found ⟨BitVec.ofNat 64 e, sizeCode lvl (eSpan e)⟩)
        else State.walkFrom s' d va fuel (lvl + 1) (eTnum e)

/-- The walk of an address (R364). -/
def State.walk (s : State) (d asn va : Nat) : State × Walk := s.walkFrom d va 4 0 asn

/-- Page size of a size code (R362). -/
def pageSize (code : Nat) : Nat := if code < 6 then 2 ^ (12 + 2 * code) else 2 ^ (24 + 2 * (code - 6))

/-- Physical address under a leaf. -/
def Leaf.pa (l : Leaf) (va : Nat) : Nat := bits l.entry.toNat 55 12 * 4096 + va % pageSize l.size

/-! ### TLBs and the miss table (R366-R368) -/

/-- The die whose walkers serve an agent: a core's own; for the service cluster the lowest die that is not lost
(notes/assumptions/14.md). -/
def State.walkDie (s : State) (agent : Nat) : Nat :=
  if agent < 512 then dieOfAgent agent else ((upto 8).find? fun d => !(s.die d).link).getD 0

/-- A leaf held in a TLB for an address. -/
def tlbFind (tlb : List TlbEntry) (asn va : Nat) : Option Leaf :=
  (tlb.find? fun e => decide (e.asn = asn) && decide (va / pageSize e.leaf.size * pageSize e.leaf.size = e.vpn * 4096)).map
    (·.leaf)

/-- The cluster of a core's agent number. -/
def clusterOfAgent (a : Nat) : Nat := a / 64 * 16 + a % 64 / 4

/-- Entries of a core's and of a cluster's TLB (R358). -/
def coreTlbMax : Nat := 64
/-- Entries of a cluster's TLB (R358). -/
def clusterTlbMax : Nat := 4096

/-- A leaf placed in the core's and the cluster's TLB; a full one gives up its oldest. -/
def State.tlbFill (s : State) (agent asn va : Nat) (leaf : Leaf) : State :=
  let e : TlbEntry := ⟨asn, va / pageSize leaf.size * pageSize leaf.size / 4096, leaf⟩
  let enter (n : Nat) (es : List TlbEntry) : List TlbEntry := (e :: es.filter (· ≠ e)).take n
  let s := s.onCmem agent fun m => { m with tlb := enter coreTlbMax m.tlb }
  if agent < 512 then s.onCluster (clusterOfAgent agent) fun c => { c with tlb := enter clusterTlbMax c.tlb } else s

/-- What translation answers. -/
inductive Trans
  | leaf (l : Leaf)
  | absent
  | poison
  | wait
  deriving DecidableEq, Repr

/-- The entry of a die's miss table for a page; the end of a walk that found no leaf is for those alone that waited on it (R367,
R368). -/
def Die.missOf (d : Die) (p : Party) (asn vpn : Nat) : Option Miss :=
  d.misses.find? fun m => decide (m.asn = asn) && decide (m.vpn = vpn) && (m.found.isNone || m.waiters.contains p)

/-- Entries of a miss table (R358). -/
def missMax : Nat := 4096

/-- A miss entered in the die's miss table, or its result taken from it. Every access of the waiting instruction finds the
same absence, which stands until the instruction is over (`State.forgetParties`). -/
def State.missTable (s : State) (p : Party) (d asn va : Nat) : State × Trans :=
  let vpn := va / 4096
  match (s.die d).missOf p asn vpn with
  | some m =>
    match m.found with
    | some .absent => (s, .absent)
    | some .poison => (s, .poison)
    | none =>
      if m.waiters.contains p then (s, .wait)
      else (s.onDie d fun x => { x with misses := x.misses.map fun y =>
        if y = m then { m with waiters := m.waiters ++ [p] } else y }, .wait)
  | none =>
    if missMax ≤ (s.die d).misses.length then (s, .wait)
    else (s.onDie d fun x => { x with misses := x.misses ++ [⟨asn, vpn, [p], none⟩] }, .wait)

/-- Translation of an address of an address space for an agent: the core's TLB, the cluster's, then a walk; at once, or
through the miss table when the turn is slow, a walk of the page is under way or the table is full (R366, R367). -/
def State.translate (s : State) (p : Party) (agent asn va : Nat) : State × Trans :=
  match tlbFind (s.cmem agent).tlb asn va with
  | some l => (s, .leaf l)
  | none =>
    match (if agent < 512 then tlbFind (s.cluster (clusterOfAgent agent)).tlb asn va else none) with
    | some l => (s.tlbFill agent asn va l, .leaf l)
    | none =>
      let d := s.walkDie agent
      let q := s.leader p
      if s.slow || ((s.die d).missOf q asn (va / 4096)).isSome || decide (missMax ≤ (s.die d).misses.length) then s.missTable q d asn va
      else match s.walk d asn va with
        | (s', .found l) => (s'.tlbFill agent asn va l, .leaf l)
        | (s', .absent) => (s', .absent)
        | (s', .poison) => (s', .poison)

/-! ### Checks of an access (R149, R363) -/

/-- The leaf's bits permit the access (R363). -/
def Leaf.allows (l : Leaf) (svc : Bool) (k : Access) : Bool :=
  let e := l.entry
  (match k with
    | .read => e.getLsbD 2
    | .write => e.getLsbD 3
    | .atomic => e.getLsbD 2 && e.getLsbD 3
    | .fetch => e.getLsbD 4) && (svc || !e.getLsbD 6)

/-- The frame lies inside a host-registered range (R462). -/
def State.inHrr (s : State) (l : Nat) : Bool :=
  s.fab.hrr.any fun x =>
    x.2.getLsbD 63 && decide (bits x.2.toNat 55 12 * 4096 ≤ l)
      && decide (l < bits x.2.toNat 55 12 * 4096 + bits x.2.toNat 11 0 * 2 ^ 30)

/-- Alignment. -/
def causeAlign : MemCause := { rank := 1, cause := 0x04, aux := 0 }
/-- Canonical form. -/
def causeCanon : MemCause := { rank := 2, cause := 0x06, aux := 1 }
/-- Page not present. -/
def causeAbsent : MemCause := { rank := 3, cause := 0x05, aux := 0 }
/-- Protection, with its AUX. -/
def causeProt (aux : Nat) : MemCause := { rank := 4, cause := 0x06, aux := BitVec.ofNat 24 aux }
/-- Poison consumed. -/
def causePoison : MemCause := { rank := 5, cause := 0x09, aux := 0 }
/-- Owner-lost reply. -/
def causeLost : MemCause := { rank := 6, cause := 0x0A, aux := 0 }
/-- Registration race on a word, with the owner (R385, R404). -/
def causeRace (o : Owner) (w : Nat) : MemCause :=
  { rank := 7, cause := 0x08, aux := BitVec.ofNat 24 o.bits, word := some (w % 4096), races := 1 }

/-- The address that a record gives for a cause that an access at `va` met: for cause 0x08 the word that raced (R404). -/
def MemCause.addrAt (c : MemCause) (va : Nat) : Nat :=
  match c.word with
  | some off => va / 4096 * 4096 + off
  | none => va

/-- The races that home slices of this package found in accesses whose causes are taken (R405). -/
def State.countRaces (s : State) (cs : List MemCause) : State :=
  let n := cs.foldl (fun n c => n + c.races) 0
  if n = 0 then s else { s with l2 := { s.l2 with races := sat32 (s.l2.races + n) } }

/-- What the checks of one access answer. -/
inductive Check
  | ok (pa : Nat)
  | fault (c : MemCause)
  | wait
  deriving DecidableEq, Repr

/-- What the physical map says of an access: register space is for service threads alone, host memory takes no atomic
(R224, R397, R434, R443). -/
def State.checkTarget (s : State) (svc : Bool) (k : Access) (pa : Nat) : Check :=
  match s.target pa with
  | .bad aux => .fault (causeProt aux)
  | .regs => if svc then .ok pa else .fault (causeProt 0)
  | .host _ => if k = .atomic then .fault (causeProt 8) else .ok pa
  | _ => .ok pa

/-- The leaf breaks the host-registered rule (R463): a frame of another package lies in no HRR range, whose ranges are local
(R462). -/
def State.hregBroken (s : State) (l : Leaf) (pa : Nat) : Bool :=
  match s.target pa with
  | .bad _ => false
  | .remote _ => l.entry.getLsbD 7
  | _ => decide (l.entry.getLsbD 7 ≠ s.inHrr (pa % 2 ^ 44))

/-- The checks after translation: rights, the host-registered rule, the physical map (R363, R463). -/
def State.checkPa (s : State) (svc : Bool) (k : Access) (l : Leaf) (va : Nat) : Check :=
  let pa := l.pa va
  if !l.allows svc k then .fault (causeProt 0)
  else if s.hregBroken l pa then .fault (causeProt 0x40)
  else s.checkTarget svc k pa

/-- The party accesses with the rights of a service thread. -/
def isService (p : Party) : Bool := match p with | .service _ => true | _ => false

/-- Alignment, canonical form, translation and rights of one access (R149); in bring-up mode a service thread's address
is the local physical address (R470). -/
def State.checkVa (s : State) (p : Party) (k : Access) (ea : DWord) (align : Nat) : State × Check :=
  if ea.toNat % align ≠ 0 then (s, .fault causeAlign)
  else if 2 ^ 60 ≤ ea.toNat then (s, .fault causeCanon)
  else if s.bm && isService p then
    let pa := s.fab.pid.toNat * 2 ^ 44 + ea.toNat
    (s, if ea.toNat < 2 ^ 44 then s.checkTarget true k pa else .fault (causeProt 0x20))
  else
    match s.translate p (s.agentOf p) (s.asnOf p) ea.toNat with
    | (s', .leaf l) => (s', s'.checkPa (isService p) k l ea.toNat)
    | (s', .absent) => (s', .fault causeAbsent)
    | (s', .poison) => (s', .fault causePoison)
    | (s', .wait) => (s', .wait)

/-- One lane's access: its lane and its effective address. -/
structure LaneVa where
  lane : Lane
  ea : DWord
  deriving DecidableEq, Repr

/-- The checks of all active lanes, in lane order. -/
def State.checkAll (s : State) (p : Party) (k : Access) (align : Nat) : List LaneVa → State × List (LaneVa × Check)
  | [] => (s, [])
  | x :: xs =>
    let r := s.checkVa p k x.ea align
    let rest := State.checkAll r.1 p k align xs
    (rest.1, (x, r.2) :: rest.2)

/-- The cause of a check. -/
def Check.cause? : Check → Option MemCause
  | .fault c => some c
  | _ => none

/-- The cause that stands first in R149's order, as the exception that the instruction takes (R150): the lanes that met
that cause, with address and AUX of the lowest of them. -/
def trapOf (write : Bool) (xs : List (LaneVa × MemCause)) : Option Trap :=
  match leastBy (fun x => x.2.rank) xs with
  | none => none
  | some w =>
    let hit := xs.filter fun x => decide (x.2.cause = w.2.cause)
    match hit with
    | [] => none
    | h :: _ => some
      { cause := w.2.cause, lanes := hit.map (·.1.lane), addr := h.2.addrAt h.1.ea.toNat, aux := h.2.aux, write := write }

/-- The faults among checks. -/
def faultsOf (xs : List (LaneVa × Check)) : List (LaneVa × MemCause) :=
  xs.filterMap fun x => x.2.cause?.map fun c => (x.1, c)

/-- The accesses that passed, with their physical addresses. -/
def passedOf (xs : List (LaneVa × Check)) : List (LaneVa × Nat) :=
  xs.filterMap fun x => match x.2 with | .ok pa => some (x.1, pa) | _ => none

end Sys2Proof.Machine
end

