-- ==== Sys2Proof/Machine/Queues.lean ====
section
/-! DEFINITION. The queue table, rings, kicks, notices and the reply register: what the device itself reads and writes
in memory for its queues (16_package_operation.md R418, R419, R428, R429, R432, R480). -/
namespace Sys2Proof.Machine

/-! ### The device's own accesses -/

/-- Local physical address of a virtual address of an address space, as the device walks it; in bring-up mode ASN 0 is
not translated (notes/assumptions/16.md). -/
def State.devTranslate (s : State) (asn va : Nat) : Option Nat :=
  if s.bm ∧ asn = 0 then (if isLocalMem va then some va else none)
  else match (s.walk (s.walkDie 512) asn va).2 with
    | .found l => if s.target (l.pa va) = .mem then some (l.pa va % 2 ^ 44) else none
    | _ => none

/-- What the walk of a device's own access leaves: the bad copies that it met are rewritten and counted (R365). -/
def State.devWalked (s : State) (asn va : Nat) : State :=
  if s.bm ∧ asn = 0 then s else (s.walk (s.walkDie 512) asn va).1

/-- A number of `n` bytes that the device reads at the home slices, behind its own writes. -/
def State.devRead (s : State) (a n : Nat) : Nat :=
  bytesNat (mgets a n (s.devPending.foldl (fun m x => msets x.1 x.2 m) s.mem))

/-! ### The queue table (R418) -/

/-- An entry of the queue table. -/
structure QEntry where
  base : Nat
  asn : Nat
  sz : Nat
  kv : Bool
  kasn : Nat
  deriving DecidableEq, Repr

/-- The valid entry q of the queue table. -/
def State.queueEntry (s : State) (q : Nat) : Option QEntry :=
  let x := s.devRead (s.pkg.pqtb.toNat * 2 ^ 12 % 2 ^ 44 + 16 * q) 16
  let e : QEntry := ⟨bits x 59 6 * 64, bits x 111 100, bits x 116 112, x.testBit 72, bits x 71 60⟩
  if x.testBit 127 && decide (6 ≤ e.sz) && decide (e.sz ≤ 16) && (decide (4096 ≤ q) || decide (e.asn ≠ 0))
      && decide (q < 4352) then some e
  else none

/-- Virtual address of entry i of a ring. -/
def QEntry.slot (e : QEntry) (i : Nat) : Nat := e.base + 64 + 64 * (i % 2 ^ e.sz)

/-- TAIL and HEAD of a ring; nothing while the ring is not mapped. -/
def State.ringEnds (s : State) (e : QEntry) : Option (Nat × Nat) :=
  (s.devTranslate e.asn e.base).map fun a => (s.devRead a 8, s.devRead (a + 8) 8)

/-- Entries that a ring lacks or has room for. -/
def State.ringRoom (s : State) (e : QEntry) : Nat :=
  match s.ringEnds e with
  | some (tail, head) => 2 ^ e.sz - (tail - head)
  | none => 0

/-- The device appends entries to a ring and advances TAIL (R429, R431). -/
def State.ringAppend (s : State) (e : QEntry) (items : List (BitVec 512)) : State :=
  match s.ringEnds e, s.devTranslate e.asn e.base with
  | some (tail, _), some a =>
    let put (s : State) (i : Nat) (x : BitVec 512) : State :=
      match s.devTranslate e.asn (e.slot i) with
      | some b => (s.devWalked e.asn (e.slot i)).devWriteNat b 64 x.toNat
      | none => s
    let s := (items.foldl (fun (acc : State × Nat) x => (put acc.1 acc.2 x, acc.2 + 1)) (s, tail)).1
    (s.devWalked e.asn e.base).devWriteNat a 8 (tail + items.length)
  | _, _ => s

/-! ### Region tables (R392, R393) -/

/-- Entry i of an address space's region table, when it is declared. -/
def State.regionEntry (s : State) (asn i : Nat) : Option (Nat × Nat × Nat) :=
  let x := s.devRead (s.l2.rtabb.toNat * 2 ^ 22 % 2 ^ 44 + 1024 * asn + 16 * i) 16
  if x.testBit 127 && decide (bits x 126 108 = 0) && decide (bits x 63 60 = 0) && decide (bits x 11 0 = 0)
      && decide (bits x 107 64 ≠ 0) then some (i, bits x 59 12, bits x 107 64)
  else none

/-- The declared regions of an address space, as a core latches them (R393). -/
def State.latchRegions (s : State) (asn : Nat) : List (Nat × Nat × Nat) := (upto 63).filterMap (s.regionEntry asn)

/-! ### Kicks (R419, R428) -/

/-- A service thread wakes: its sleep ends, or its wake stays pending. It latches the region table of ASN 0 (R393). -/
def State.wakeService (s : State) (n : Nat) : State :=
  match (s.ctx (.service n)).wait with
  | some (.sleep _) => (s.onCtx (.service n) fun c => { c with wait := none }).onService n fun v =>
      { v with regions := s.latchRegions 0 }
  | _ => s.onService n fun v => { v with wake := true }

/-- The record in progress of a launch queue. -/
def State.inProgress (s : State) (q : Nat) : Bool :=
  s.pkg.records.any fun r => decide (r.queue = q) && decide (r.state = 1)

/-- The kicks of a ring that still tell the time of a record, with one more now: it makes the entries up to the TAIL that it
finds visible (R423). -/
def addKick (tail head now : Nat) (ks : List (Nat × Nat)) : List (Nat × Nat) :=
  let ks := ks.filter fun k => decide (head < k.1) && decide (k.1 ≤ tail)
  if ks.any fun k => decide (k.1 = tail) then ks else ks ++ [(tail, now)]

/-- A launch queue as an entry of the queue table. -/
def LatchedQueue.entry (lq : LatchedQueue) : QEntry := ⟨lq.base, lq.asn, lq.sz, false, 0⟩

/-- The ring that an entry names is the one that the queue has latched, and its HEAD has not gone back. -/
def State.sameRing (s : State) (q : Nat) (old : LatchedQueue) (e : QEntry) : Bool :=
  decide (old.base = e.base ∧ old.asn = e.asn ∧ old.sz = e.sz) && (match s.ringEnds e with
    | some (_, head) => !s.pkg.records.any fun r => decide (r.queue = q) && decide (old.first ≤ r.id) && decide (head ≤ r.index)
    | none => true)

/-- A launch queue's entry latched when its queue is kicked while it holds no record in progress (R418). Another ring begins
with no kicks and no records. -/
def State.latchQueue (s : State) (q : Nat) (e : QEntry) : State :=
  let new : LatchedQueue := ⟨e.base, e.asn, e.sz, [], s.nextId⟩
  let old := (tget q s.pkg.queues).getD new
  let lq : LatchedQueue := if s.inProgress q || s.sameRing q old e then old else new
  let new : LatchedQueue := match s.ringEnds lq.entry with
    | some (tail, head) => { lq with kicks := addKick tail head s.time.toNat lq.kicks }
    | none => lq
  let s := s.devWalked lq.asn lq.base
  { s with pkg := { s.pkg with queues := tset q new s.pkg.queues } }

/-- The time at which the record of an index was kicked. -/
def LatchedQueue.kickedAt (lq : LatchedQueue) (now i : Nat) : Nat :=
  match lq.kicks.find? fun k => decide (i < k.1) with
  | some k => k.2
  | none => now

/-- A kick of entry q by a party of an address space, by a service thread or by a host port (R419). -/
def State.kick (s : State) (q asn : Nat) (trusted : Bool) : State :=
  match s.queueEntry q with
  | none => s
  | some e =>
    if trusted || decide (e.asn = asn) || (e.kv && decide (e.kasn = asn)) then
      if 4096 ≤ q then s.wakeService (q - 4096) else s.latchQueue q e
    else s

/-- A store of a reply address to SCRPLY: the slot that it names is answered (R432). -/
def State.scrply (s : State) (slot : Nat) : State :=
  let mark (x : CallPart) : CallPart := if x.slot = slot then { x with answered := true } else x
  { s with pkg := { s.pkg with calls := s.pkg.calls.map fun c => { c with parts := c.parts.map mark } } }

/-- A store to the notify window, once its release has been performed: a kick, a reply, or nothing (R419). -/
def State.notifyStore (s : State) (off v asn : Nat) (svc : Bool) : State :=
  if off < 0x8800 then s.kick (off / 8) asn svc
  else if off < 0x8808 then (if svc then s.scrply v else s)
  else s

/-! ### Notices (R429) -/

/-- Notices that wait go into the ring of service queue 0 while it has room, and its consumers are kicked; one whose entry
is not mapped goes on waiting. -/
def State.flushNotices (s : State) : State :=
  match s.pkg.notices with
  | [] => s
  | _ => match s.queueEntry 4096 with
    | none => s
    | some e =>
      let tail := ((s.ringEnds e).map (·.1)).getD 0
      let room := ((upto (Nat.min (s.ringRoom e) s.pkg.notices.length)).takeWhile fun i =>
        (s.devTranslate e.asn (e.slot (tail + i))).isSome).length
      match s.pkg.notices.take room with
      | [] => s
      | now =>
        let s := { s with pkg := { s.pkg with notices := s.pkg.notices.drop room } }
        let s := s.ringAppend e now
        forEach [4096, 4160, 4224, 4288] s fun q s => s.kick q 0 true

end Sys2Proof.Machine
end

