-- ==== Sys2Proof/Machine/Grid.lean ====
section
/-! DEFINITION. Launch records, the teams of one grid, and the records of team barriers: arrivals, drops and what a
completed phase does (08_core_execution.md R215-R219, 09_core_instructions.md R269, R270, 16_package_operation.md
R420). -/
namespace Sys2Proof.Machine

/-! ### Launch records (R420) -/

/-- Bits [hi:lo] of a launch record. -/
def recBits (x : BitVec 512) (hi lo : Nat) : Nat := bits x.toNat hi lo

/-- Teams in x, y and z. -/
def recDims (x : BitVec 512) : Nat × Nat × Nat := (recBits x 223 193, recBits x 191 176, recBits x 175 160)

/-- Teams of the grid. -/
def recTeams (x : BitVec 512) : Nat := let d := recDims x; d.1 * d.2.1 * d.2.2

/-- The launch record that a team belongs to. -/
def State.recordOf (s : State) (l : Launch) : Option Record :=
  s.pkg.records.find? fun r =>
    decide (r.id = l.rec_) && decide (r.queue = l.queue) && decide (r.index = l.index) && decide (r.asn = l.asn)

/-- Two launches are teams of one grid. -/
def Launch.sameGrid (a b : Launch) : Bool :=
  decide (a.rec_ = b.rec_) && decide (a.queue = b.queue) && decide (a.index = b.index) && decide (a.asn = b.asn)

/-- The teams of a team's grid that have been placed. -/
def State.gridTeams (s : State) (tk : Nat) : List (Nat × Team) :=
  s.teams.filter fun x => x.2.launch.sameGrid (s.team tk).launch

/-- A team of the grid has failed (R270). -/
def State.gridBroken (s : State) (tk : Nat) : Bool :=
  (s.gridTeams tk).any (fun x => x.2.failed.isSome)
    || (match s.recordOf (s.team tk).launch with | some r => decide (r.nfail ≠ 0) | none => false)

/-- The live compute threads of a team. -/
def State.liveTids (s : State) (tk : Nat) : List Nat :=
  s.threads.filterMap fun x => match x.1 with
    | .compute k tid => if k = tk ∧ x.2.live = true then some tid else none
    | _ => none

/-- A team has arrived at GBAR: each of its live threads has (R269); a team that has ended counts. -/
def State.gbarArrivedAll (s : State) (x : Nat × Team) : Bool :=
  x.2.ended || (s.liveTids x.1).all fun tid => x.2.gbarArrived.contains tid

/-- The grid barrier completes: every team is placed and has arrived; a withdrawn team has not (R269, R337). -/
def State.gbarComplete (s : State) (tk : Nat) : Bool :=
  (match s.recordOf (s.team tk).launch with | some r => decide (r.next = recTeams r.bits) | none => true)
    && (s.gridTeams tk).all fun x => s.gbarArrivedAll x && (x.2.ended || x.2.withdrawn.isEmpty)

/-! ### Barrier records (R215, R216) -/

/-- A record at team start. -/
def Barrier.fresh : Barrier := ⟨false, false, false, false, 0, 0, 0, [], []⟩

/-- A team's barrier record. -/
def Team.barrier (t : Team) (n : Nat) : Barrier := tgetD n Barrier.fresh t.barriers

/-- The record becomes uninitialised: PHASE and BROKEN stay. -/
def Barrier.uninit (b : Barrier) : Barrier :=
  { b with init := false, exp := 0, arr := 0, ovr := false, drop := 0, members := [], arrived := [] }

/-- A phase that an update has filled completes. -/
def Barrier.settle (b : Barrier) : Barrier × Bool :=
  if b.init && !b.broken && decide (b.exp ≤ b.arr) then
    let c : Barrier :=
      { b with
        ovr := b.ovr || decide (b.exp < b.arr)
        arr := 0
        phase := !b.phase
        exp := b.exp - b.drop
        drop := 0
        arrived := [] }
    (if c.exp = 0 then c.uninit else c, true)
  else (b, false)

/-- A list with elements added that it lacks. -/
def addAll (xs ys : List Nat) : List Nat := ys.foldl (fun l y => if l.contains y then l else l ++ [y]) xs

/-- One update: arrivals counted together, the arriving threads' member bits set. -/
def Barrier.arrive (b : Barrier) (n : Nat) (tids : List Nat) : Barrier × Bool :=
  { b with arr := b.arr + n, members := addAll b.members tids, arrived := addAll b.arrived tids }.settle

/-- A thread's exit or BAR.DRP on a record. -/
def Barrier.dropMember (b : Barrier) (tid : Nat) : Barrier × Bool :=
  if !b.members.contains tid then (b, false)
  else if b.broken then
    let c : Barrier := { b with members := b.members.filter (· ≠ tid), exp := b.exp - (b.drop + 1), drop := 0 }
    (if c.exp = 0 ∨ c.members = [] then c.uninit else c, false)
  else
    let late := !b.arrived.contains tid
    let c : Barrier :=
      { b with
        members := b.members.filter (· ≠ tid)
        arrived := b.arrived.filter (· ≠ tid)
        drop := b.drop + 1
        arr := b.arr + (if late then 1 else 0) }
    if late then c.settle else (c, false)

/-- A record replaced. -/
def State.setBarrier (s : State) (tk n : Nat) (b : Barrier) : State :=
  s.onTeam tk fun t => { t with barriers := tset n b t.barriers }

/-- The waits on a record are ended: its phase has completed, or it broke. -/
def State.endBarrierWaits (s : State) (tk n : Nat) (broke : Bool) : State :=
  let ended (c : Ctx) : Ctx := match c.wait with
    | some (.barrier k ph none) => if k = n then { c with wait := some (.barrier k ph (some broke)) } else c
    | _ => c
  { s with ctxs := tmap (fun p c => if partyOfTeam tk p then ended c else c) s.ctxs }

/-- The engine's flags in the threads of a team changed. -/
def State.onMxFlags (s : State) (tk : Nat) (f : Thread → List MxFlag → List MxFlag) : State :=
  let change (r : ThreadRef) (t : Thread) : Thread := if refOfTeam tk r then { t with mxFlags := f t t.mxFlags } else t
  { s with threads := tmap change s.threads }

/-- An MX.DRAIN completes: the engine has raised these flags before it (R276). -/
def State.drainFlags (s : State) (tk : Nat) : State := s.onMxFlags tk fun _ xs => xs.map fun x => { x with drained := true }

/-- The headland arrives at a record: the flags drained before stand ahead of its phase (R104, R276). -/
def State.fenceFlags (s : State) (tk n : Nat) : State :=
  s.onMxFlags tk fun _ xs => xs.map fun x => if x.drained then { x with fences := addAll x.fences [n] } else x

/-- Groups that wait on the current phase of a record. -/
def State.phaseWaiters (s : State) (tk n : Nat) : List Nat :=
  s.ctxs.filterMap fun x => match x.1, x.2.wait with
    | .gang k gid _, some (.barrier m _ none) => if k = tk ∧ m = n then some gid else none
    | _, _ => none

/-- A phase completes: the flags that stand ahead of it are ordered in the threads of the groups that waited on it, so that a
WRSR after it replaces them; in other threads they stay unordered (R104, R276). -/
def State.orderFlags (s : State) (tk n : Nat) (gids : List Nat) : State :=
  s.onMxFlags tk fun t xs =>
    if gids.contains t.gid then xs.filter fun x => !x.fences.contains n
    else xs.map fun x => { x with fences := x.fences.filter (· ≠ n) }

/-- An update of a record performed; whether it completed a phase. `also` names the group whose arrival waits on the phase
without parking (R266). -/
def State.updateBarrier (s : State) (tk n : Nat) (r : Barrier × Bool) (also : List Nat := []) : State × Bool :=
  let s := s.setBarrier tk n r.1
  (if r.2 then (s.orderFlags tk n (also ++ s.phaseWaiters tk n)).endBarrierWaits tk n false else s, r.2)

/-- An update of a record noted with the ac and its place in it: the lowest arriving tid, 2048 for a headland (R217). -/
def State.noteUpdate (s : State) (tk n : Nat) (tids : List Nat) : State :=
  let now := s.time.toNat
  let key := tids.foldl Nat.min 2048
  s.onTeam tk fun t =>
    let x := tgetD n (now, []) t.updates
    { t with updates := tset n (now, (if x.1 = now then x.2 else []) ++ [key]) t.updates }

/-- A list that does not rise. -/
def falls : List Nat → Bool
  | a :: b :: xs => decide (b < a) || falls (b :: xs)
  | _ => false

/-- Two updates of a record in the same ac stand in an order that R217 does not give them. -/
def State.misordered (s : State) : Bool :=
  s.teams.any fun x => x.2.updates.any fun y => decide (y.2.1 = s.time.toNat) && falls y.2.2

/-- The implicit arrive-and-drop of exiting threads, one update each, on every record; whether a phase completed. -/
def State.dropThreads (s : State) (tk : Nat) (ns : List Nat) (tids : List Nat) : State × Bool :=
  tids.foldl (fun acc tid => ns.foldl (fun (acc : State × Bool) n =>
    let b := (acc.1.team tk).barrier n
    let r := acc.1.updateBarrier tk n (b.dropMember tid)
    (if b.members.contains tid then r.1.noteUpdate tk n [tid] else r.1, acc.2 || r.2)) acc) (s, false)

/-- The checkpoint that a completed phase takes (R230). -/
def State.phaseCheckpoint (s : State) (tk : Nat) (completed : Bool) : State :=
  if completed then s.checkpoint tk else s

/-- The grid barrier's waits are ended. -/
def State.endGbarWaits (s : State) (tk : Nat) (broke : Bool) : State :=
  let ended (c : Ctx) : Ctx := match c.wait with
    | some (.gbar t none) => { c with wait := some (.gbar t (some broke)) }
    | _ => c
  { s with ctxs := tmap (fun p c => if partyOfTeam tk p then ended c else c) s.ctxs }

/-- GBAR breaks for every waiting team of a grid with a failed team (R270). -/
def State.breakGrids (s : State) : State :=
  forEach s.teams s fun x s => if !x.2.ended && s.gridBroken x.1 then s.endGbarWaits x.1 true else s

/-- The grid barrier completed, if it now does: every team's arrivals start anew, its waits end, and it takes a
checkpoint (R269). -/
def State.gbarUpdate (s : State) (tk : Nat) : State :=
  if s.gbarComplete tk && !s.gridBroken tk then
    forEach (s.gridTeams tk) s fun x s =>
      if x.2.ended then s
      else ((s.onTeam x.1 fun t => { t with gbarArrived := [] }).endGbarWaits x.1 false).checkpoint x.1
  else s

/-- What follows every step for the grid barriers: broken ones end their waits; one whose last thread to arrive has exited
completes (R269, R270). -/
def State.settleGrids (s : State) : State :=
  let s := s.breakGrids
  forEach s.teams s fun x s => if (s.team x.1).gbarArrived = [] then s else s.gbarUpdate x.1

end Sys2Proof.Machine
end

