-- ==== Sys2Proof/Machine/Float.lean ====
section
/-! DEFINITION. The number formats and the arithmetic over them (04_number_formats.md): exact values, one rounding,
flags. Every operation decodes its operands exactly, computes exactly on integers and rounds once. -/
namespace Sys2Proof.Machine

/-! ### Exact values -/

/-- The value of a float: a NaN, an infinity, or (-1)^neg × m × 2^e, where m = 0 is a signed zero. -/
inductive FNum
  | nan (signalling : Bool)
  | inf (neg : Bool)
  | fin (neg : Bool) (m : Nat) (e : Int)
  deriving DecidableEq, Repr

/-- A result pattern with the flags it raised. -/
structure FRes where
  bits : Nat
  flags : FFlags
  deriving DecidableEq, Repr

/-- An IEEE interchange format: fraction bits, exponent bits (R91). -/
structure Format where
  frac : Nat
  expo : Nat
  deriving DecidableEq, Repr

/-- binary16 (R91). -/
def fmt16 : Format := ⟨10, 5⟩
/-- binary32 (R91). -/
def fmt32 : Format := ⟨23, 8⟩
/-- binary64 (R91). -/
def fmt64 : Format := ⟨52, 11⟩

/-- The exponent bias. -/
def Format.bias (f : Format) : Nat := 2 ^ (f.expo - 1) - 1
/-- The all-ones exponent field. -/
def Format.top (f : Format) : Nat := 2 ^ f.expo - 1
/-- Exponent of the last place of a subnormal. -/
def Format.lsb (f : Format) : Int := 1 - (f.bias : Int) - f.frac
/-- The canonical quiet NaN (R92). -/
def Format.qnan (f : Format) : Nat := f.top * 2 ^ f.frac + 2 ^ (f.frac - 1)
/-- The pattern of an infinity. -/
def Format.infBits (f : Format) (neg : Bool) : Nat := (if neg then 2 ^ (f.frac + f.expo) else 0) + f.top * 2 ^ f.frac
/-- The pattern of a zero. -/
def Format.zeroBits (f : Format) (neg : Bool) : Nat := if neg then 2 ^ (f.frac + f.expo) else 0
/-- The pattern of the largest finite value. -/
def Format.maxBits (f : Format) (neg : Bool) : Nat :=
  (if neg then 2 ^ (f.frac + f.expo) else 0) + (f.top * 2 ^ f.frac - 1)

/-- The exact value a pattern stands for (R91). -/
def Format.decode (f : Format) (x : Nat) : FNum :=
  let neg := decide (x / 2 ^ (f.frac + f.expo) % 2 = 1)
  let ex := x / 2 ^ f.frac % 2 ^ f.expo
  let fr := x % 2 ^ f.frac
  if ex = f.top then
    if fr = 0 then .inf neg else .nan (decide (fr < 2 ^ (f.frac - 1)))
  else if ex = 0 then .fin neg fr f.lsb
  else .fin neg (2 ^ f.frac + fr) (f.lsb + ex - 1)

/-! ### Rounding (R94, R100, R101) -/

/-- round_int of R94: the non-negative q = n + rem / 2^sh, rounded to an integer; `half` compares rem with one half. -/
def roundUp (rm : RM) (neg : Bool) (n : Nat) (half : Ordering) (exact : Bool) : Bool :=
  match rm with
  | .rn => match half with
    | .gt => true
    | .eq => decide (n % 2 = 1)
    | .lt => false
  | .rz => false
  | .ru => !exact && !neg
  | .rd => !exact && neg

/-- m × 2^e rounded to a multiple of 2^l: the multiple, and whether it is inexact. -/
def roundAt (rm : RM) (neg : Bool) (m : Nat) (e l : Int) : Nat × Bool :=
  if l ≤ e then (m * 2 ^ (e - l).toNat, false)
  else
    let sh := (l - e).toNat
    if sh > m.log2 + 2 then
      ((if roundUp rm neg 0 .lt (decide (m = 0)) then 1 else 0), decide (m ≠ 0))
    else
      let n := m / 2 ^ sh
      let r := m % 2 ^ sh
      let exact := decide (r = 0)
      ((if roundUp rm neg n (compare (2 * r) (2 ^ sh)) exact then n + 1 else n), !exact)

/-- A non-zero m × 2^e rounded to `frac` + 1 significant bits, no finer than 2^low: significand, exponent of its last
place, inexact. The significand is below 2^(frac + 1). -/
def roundSig (rm : RM) (neg : Bool) (frac : Nat) (low : Int) (m : Nat) (e : Int) : Nat × Int × Bool :=
  let l := max (e + (m.log2 : Int) - frac) low
  let (n, inexact) := roundAt rm neg m e l
  if n = 2 ^ (frac + 1) then (2 ^ frac, l + 1, inexact) else (n, l, inexact)

/-- A non-zero value rounded into an IEEE format (R101). -/
def Format.round (f : Format) (rm : RM) (neg : Bool) (m : Nat) (e : Int) : FRes :=
  let (n, l, inexact) := roundSig rm neg f.frac f.lsb m e
  let field := l + f.frac + f.bias
  if decide (2 ^ f.frac ≤ n) && decide ((f.top : Int) ≤ field) then
    ⟨match rm, neg with
      | .rz, _ => f.maxBits neg
      | .ru, true => f.maxBits neg
      | .rd, false => f.maxBits neg
      | _, _ => f.infBits neg, flagOF ||| flagNX⟩
  else
    let sign := f.zeroBits neg
    if n < 2 ^ f.frac then ⟨sign + n, flagIf inexact (flagUF ||| flagNX)⟩
    else ⟨sign + field.toNat * 2 ^ f.frac + (n - 2 ^ f.frac), flagIf inexact flagNX⟩

/-- A value rounded into an IEEE format; a zero keeps its sign, a NaN is canonical (R92). -/
def Format.ofNum (f : Format) (rm : RM) : FNum → FRes
  | .nan s => ⟨f.qnan, flagIf s flagNV⟩
  | .inf neg => ⟨f.infBits neg, 0⟩
  | .fin neg m e => if m = 0 then ⟨f.zeroBits neg, 0⟩ else f.round rm neg m e

/-! ### Sums -/

/-- The signed significand. -/
def signed (neg : Bool) (m : Nat) : Int := if neg then -(m : Int) else m

/-- An exact sum of integers scaled by powers of two: the sum's significand at the least exponent. -/
def alignAt (e : Int) (neg : Bool) (m : Nat) (e' : Int) : Int := signed neg (m * 2 ^ (e' - e).toNat)

/-- Sign of an exact zero sum of opposite signs (R101). -/
def zeroSumNeg (rm : RM) : Bool := decide (rm = .rd)

/-- The exact sum of two finite values as a value; a zero sum of like signs keeps the sign. -/
def addFin (rm : RM) (n1 : Bool) (m1 : Nat) (e1 : Int) (n2 : Bool) (m2 : Nat) (e2 : Int) : FNum :=
  if m1 = 0 ∧ m2 = 0 then .fin (if n1 = n2 then n1 else zeroSumNeg rm) 0 0
  else if m1 = 0 then .fin n2 m2 e2
  else if m2 = 0 then .fin n1 m1 e1
  else
    let e := min e1 e2
    let s := alignAt e n1 m1 e1 + alignAt e n2 m2 e2
    if s = 0 then .fin (zeroSumNeg rm) 0 0 else .fin (decide (s < 0)) s.natAbs e

/-- An invalid operation (R104). -/
def FNum.invalid (f : Format) : FRes := ⟨f.qnan, flagNV⟩

/-- Any operand is a NaN: the canonical NaN, with NV for a signalling one (R92). -/
def nanRes (f : Format) (xs : List FNum) : FRes :=
  ⟨f.qnan, flagIf (xs.any fun x => decide (x = .nan true)) flagNV⟩

/-- The value is a NaN. -/
def FNum.isNan : FNum → Bool
  | .nan _ => true
  | _ => false

/-- The value is a zero. -/
def FNum.isZero : FNum → Bool
  | .fin _ 0 _ => true
  | _ => false

/-- The value with its sign inverted. -/
def FNum.negate : FNum → FNum
  | .nan s => .nan s
  | .inf n => .inf (!n)
  | .fin n m e => .fin (!n) m e

/-- round(x + y) (R131). -/
def Format.add (f : Format) (rm : RM) (x y : FNum) : FRes :=
  match x, y with
  | .nan _, _ => nanRes f [x, y]
  | _, .nan _ => nanRes f [x, y]
  | .inf a, .inf b => if a = b then ⟨f.infBits a, 0⟩ else FNum.invalid f
  | .inf a, _ => ⟨f.infBits a, 0⟩
  | _, .inf b => ⟨f.infBits b, 0⟩
  | .fin n1 m1 e1, .fin n2 m2 e2 => f.ofNum rm (addFin rm n1 m1 e1 n2 m2 e2)

/-- The exact product; nothing for 0 × ∞. -/
def mulExact (x y : FNum) : Option FNum :=
  match x, y with
  | .nan s, .nan t => some (.nan (s || t))
  | .nan s, _ => some (.nan s)
  | _, .nan t => some (.nan t)
  | .inf a, .inf b => some (.inf (a != b))
  | .inf a, .fin b m _ => if m = 0 then none else some (.inf (a != b))
  | .fin b m _, .inf a => if m = 0 then none else some (.inf (a != b))
  | .fin n1 m1 e1, .fin n2 m2 e2 => some (.fin (n1 != n2) (m1 * m2) (e1 + e2))

/-- round(x × y) (R131). -/
def Format.mul (f : Format) (rm : RM) (x y : FNum) : FRes :=
  match mulExact x y with
  | none => FNum.invalid f
  | some p => f.ofNum rm p

/-- round(x × y + z), rounded once (R140). -/
def Format.fma (f : Format) (rm : RM) (x y z : FNum) : FRes :=
  match mulExact x y with
  | none => FNum.invalid f
  | some p => if p.isNan || z.isNan then nanRes f [x, y, z] else f.add rm p z

/-- round(x × 2^n) (R131). -/
def Format.scale (f : Format) (rm : RM) (x : FNum) (n : Int) : FRes :=
  match x with
  | .fin neg m e => f.ofNum rm (.fin neg m (e + n))
  | _ => f.ofNum rm x

/-! ### Order (R132, R136) -/

/-- Comparison of two values, neither a NaN; the zeros are equal. -/
def cmpNum (x y : FNum) : Ordering :=
  match x, y with
  | .inf true, .inf true => .eq
  | .inf false, .inf false => .eq
  | .inf true, _ => .lt
  | .inf false, _ => .gt
  | _, .inf true => .gt
  | _, .inf false => .lt
  | .fin n1 m1 e1, .fin n2 m2 e2 =>
    let e := min e1 e2
    compare (alignAt e n1 m1 e1) (alignAt e n2 m2 e2)
  | _, _ => .eq

/-- The sign bit of a pattern. -/
def Format.signOf (f : Format) (x : Nat) : Bool := decide (x / 2 ^ (f.frac + f.expo) % 2 = 1)

/-- minimumNumber and maximumNumber of patterns, -0 below +0 (R132). -/
def Format.minMax (f : Format) (wantMax : Bool) (a b : Nat) : FRes :=
  let x := f.decode a
  let y := f.decode b
  let nv := flagIf (decide (x = .nan true) || decide (y = .nan true)) flagNV
  if x.isNan && y.isNan then ⟨f.qnan, nv⟩
  else if x.isNan then ⟨b, nv⟩
  else if y.isNan then ⟨a, nv⟩
  else
    let aLess := match cmpNum x y with
      | .lt => true
      | .gt => false
      | .eq => f.signOf a
    ⟨if aLess != wantMax then a else b, 0⟩

/-- FCMP: the predicate and the flags (R136). -/
def fcmp (k : FCond) (x y : FNum) : Bool × FFlags :=
  let un := x.isNan || y.isNan
  let sig := decide (x = .nan true) || decide (y = .nan true)
  let signalling := match k with
    | .lt => true | .le => true | .gt => true | .ge => true | _ => false
  let c := cmpNum x y
  let r := match k with
    | .eq => !un && decide (c = .eq)
    | .ne => un || decide (c ≠ .eq)
    | .lt => !un && decide (c = .lt)
    | .le => !un && decide (c ≠ .gt)
    | .gt => !un && decide (c = .gt)
    | .ge => !un && decide (c ≠ .lt)
    | .ord => !un
    | .uno => un
    | .ult => un || decide (c = .lt)
    | .ule => un || decide (c ≠ .gt)
    | .ugt => un || decide (c = .gt)
    | .uge => un || decide (c ≠ .lt)
  (r, flagIf (sig || (signalling && un)) flagNV)

/-- FCLASS of a pattern (R137). -/
def Format.classOf (f : Format) (k : FClass) (a : Nat) : Bool :=
  let x := f.decode a
  let neg := f.signOf a
  match k with
  | .nan => x.isNan
  | .snan => decide (x = .nan true)
  | .qnan => decide (x = .nan false)
  | .inf => decide (x = .inf neg)
  | .zero => x.isZero
  | .sub => match x with
    | .fin _ m _ => decide (0 < m ∧ m < 2 ^ f.frac)
    | _ => false
  | .norm => match x with
    | .fin _ m _ => decide (2 ^ f.frac ≤ m)
    | _ => false
  | .fin => match x with
    | .fin _ _ _ => true
    | _ => false
  | .neg => neg
  | .pinf => decide (x = .inf false)
  | .ninf => decide (x = .inf true)
  | .nzero => x.isZero && neg

/-! ### Integral values and conversions to integers -/

/-- FRND: the nearest integral value in the same format, in the mode in force, keeping the sign of a (R133). -/
def Format.rint (f : Format) (rm : RM) (x : FNum) : FRes :=
  match x with
  | .fin neg m e =>
    let n := (roundAt rm neg m e 0).1
    if n = 0 then ⟨f.zeroBits neg, 0⟩ else ⟨(f.round .rz neg n 0).bits, 0⟩
  | _ => f.ofNum rm x

/-- The least value of an integer format (R89). -/
def intLeast : IFmt → Int
  | .i32 => -2 ^ 31
  | .i64 => -2 ^ 63
  | .i16 => -2 ^ 15
  | .i8 => -2 ^ 7
  | _ => 0

/-- The greatest value of an integer format (R89). -/
def intGreatest : IFmt → Int
  | .i32 => 2 ^ 31 - 1
  | .n32 => 2 ^ 32 - 1
  | .i64 => 2 ^ 63 - 1
  | .n64 => 2 ^ 64 - 1
  | .i16 => 2 ^ 15 - 1
  | .n16 => 2 ^ 16 - 1
  | .i8 => 2 ^ 7 - 1
  | .n8 => 2 ^ 8 - 1

/-- to_integer of R143: the value, the flags and whether SAT is set. -/
def toInteger (fmt : IFmt) (rm : RM) (x : FNum) : Int × FFlags × Bool :=
  match x with
  | .nan _ => (0, flagNV, true)
  | .inf neg => (if neg then intLeast fmt else intGreatest fmt, flagNV, true)
  | .fin neg m e =>
    let (n, inexact) := roundAt rm neg m e 0
    let v := signed neg n
    if v < intLeast fmt then (intLeast fmt, flagNV, true)
    else if v > intGreatest fmt then (intGreatest fmt, flagNV, true)
    else (v, flagIf inexact flagNX, false)

/-- An integer as an exact value. -/
def FNum.ofInt (v : Int) : FNum := .fin (decide (v < 0)) v.natAbs 0

/-! ### fk8 and cb4 (R93-R97) -/

/-- An fk8 format: mantissa width, bias, largest code magnitude in value. -/
structure Fk8 where
  w : Nat
  bias : Nat
  maxv : Nat
  deriving DecidableEq, Repr

/-- fk8a (R93). -/
def fk8a : Fk8 := ⟨3, 8, 240⟩
/-- fk8b (R93). -/
def fk8b : Fk8 := ⟨2, 16, 57344⟩

/-- decode_fk8 of R93. -/
def Fk8.decode (k : Fk8) (c : Nat) : FNum :=
  if c % 256 = 0x80 then .nan false
  else
    let s := decide (c / 128 % 2 = 1)
    let e := c / 2 ^ k.w % 2 ^ (7 - k.w)
    let m := c % 2 ^ k.w
    if e = 0 then .fin s m (1 - (k.bias : Int) - k.w)
    else .fin s (2 ^ k.w + m) ((e : Int) - k.bias - k.w)

/-- to_fk8 of R94. -/
def Fk8.ofNum (k : Fk8) (rm : RM) (x : FNum) : FRes :=
  match x with
  | .nan s => ⟨0x80, flagIf s flagNV⟩
  | .inf neg => ⟨(if neg then 0x80 else 0) + 0x7F, flagNV⟩
  | .fin neg m e =>
    if m = 0 then ⟨0, 0⟩
    else
      let low := 1 - (k.bias : Int) - k.w
      let (n, l, inexact) := roundSig rm neg k.w low m e
      let sign := if neg then 0x80 else 0
      if decide (0 ≤ l) && decide (n * 2 ^ l.toNat > k.maxv) then ⟨sign + 0x7F, flagOF ||| flagNX⟩
      else
        let flags := flagIf inexact (if n < 2 ^ k.w then flagUF ||| flagNX else flagNX)
        if n = 0 then ⟨0, flags⟩
        else if n < 2 ^ k.w then ⟨sign + n, flags⟩
        else ⟨sign + (l + k.w + k.bias).toNat * 2 ^ k.w + (n - 2 ^ k.w), flags⟩

/-- The cb4 codebook in units of 2^-10 (R95). -/
def cb4 (code : Nat) : Int :=
  match code with
  | 0 => -1024 | 1 => -768 | 2 => -576 | 3 => -448 | 4 => -336 | 5 => -224 | 6 => -128 | 7 => -48
  | 8 => 0 | 9 => 64 | 10 => 160 | 11 => 280 | 12 => 416 | 13 => 576 | 14 => 768 | _ => 1024

/-- The codebook value as an exact value. -/
def cb4Num (code : Nat) : FNum := .fin (decide (cb4 code < 0)) (cb4 code).natAbs (-10)

/-- The block scale bs of R97, with the NV that a signalling super-scale raises. -/
def blockScale (superBits s : Nat) : FRes :=
  match fmt32.decode superBits with
  | .fin neg m e => ⟨(fmt32.ofNum .rn (.fin neg (m * (s % 256 + 1)) (e - 8))).bits, 0⟩
  | x => fmt32.ofNum .rn x

/-- The second step of R97. -/
def cb4Element (f : Format) (rm : RM) (code bs : Nat) : FRes := f.mul rm (cb4Num code) (fmt32.decode bs)

/-! ### Division and roots (R138, R139) -/

/-- A quotient with a sticky last bit. -/
def divSticky (a b : Nat) : Nat := 2 * (a / b) + (if a % b = 0 then 0 else 1)

/-- round(x ÷ y). -/
def Format.div (f : Format) (rm : RM) (x y : FNum) : FRes :=
  match x, y with
  | .nan _, _ => nanRes f [x, y]
  | _, .nan _ => nanRes f [x, y]
  | .inf _, .inf _ => FNum.invalid f
  | .inf a, .fin b _ _ => ⟨f.infBits (a != b), 0⟩
  | .fin a _ _, .inf b => ⟨f.zeroBits (a != b), 0⟩
  | .fin a m1 e1, .fin b m2 e2 =>
    if m2 = 0 then
      if m1 = 0 then FNum.invalid f else ⟨f.infBits (a != b), flagDZ⟩
    else if m1 = 0 then ⟨f.zeroBits (a != b), 0⟩
    else f.round rm (a != b) (divSticky (m1 * 2 ^ 130) m2) (e1 - e2 - 131)

/-- The integer square root, found bit by bit from bit k - 1 down. -/
def isqrtFrom : Nat → Nat → Nat → Nat
  | 0, _, r => r
  | k + 1, n, r => let r' := r + 2 ^ k; isqrtFrom k n (if r' * r' ≤ n then r' else r)

/-- floor(√n) for n below 2^320. -/
def isqrt (n : Nat) : Nat := isqrtFrom 160 n 0

/-- A value m × 2^e brought to an even exponent. -/
def evenExp (m : Nat) (e : Int) : Nat × Int := if e % 2 = 0 then (m, e) else (2 * m, e - 1)

/-- round(√x). -/
def Format.sqrt (f : Format) (rm : RM) (x : FNum) : FRes :=
  match x with
  | .nan _ => nanRes f [x]
  | .inf neg => if neg then FNum.invalid f else ⟨f.infBits false, 0⟩
  | .fin neg m e =>
    if m = 0 then ⟨f.zeroBits neg, 0⟩
    else if neg then FNum.invalid f
    else
      let (m', e') := evenExp m e
      let n := m' * 2 ^ 160
      let r := isqrt n
      f.round rm false (2 * r + (if r * r = n then 0 else 1)) (e' / 2 - 81)

/-- round(1 ÷ √x). -/
def Format.rsqrt (f : Format) (rm : RM) (x : FNum) : FRes :=
  match x with
  | .nan _ => nanRes f [x]
  | .inf neg => if neg then FNum.invalid f else ⟨f.zeroBits false, 0⟩
  | .fin neg m e =>
    if m = 0 then ⟨f.infBits neg, flagDZ⟩
    else if neg then FNum.invalid f
    else
      let (m', e') := evenExp m e
      let r := isqrt (2 ^ 256 / m')
      f.round rm false (2 * r + (if r * r * m' = 2 ^ 256 then 0 else 1)) (-(e' / 2) - 129)

/-! ### Special functions (R138, R139)

Each is evaluated in fixed point with 384 fraction bits, far past the precision at which an f32 argument can come near a
rounding boundary, and rounded once with a sticky bit: its value at an input outside the exact cases is irrational. -/

/-- Fraction bits of the fixed-point evaluation. -/
def fx : Nat := 384

/-- π in fixed point. -/
def piFx : Nat :=
  0x3243f6a8885a308d313198a2e03707344a4093822299f31d0082efa98ec4e6c89452821e638d01377be5466cf34e90c6cc0ac / 2 ^ 16

/-- ln 2 in fixed point. -/
def ln2Fx : Nat :=
  0xb17217f7d1cf79abc9e3b39803f2f6af40f343267298b62d8a0d175b8baafa2be7b876206debac98559552fb4afa1b10ed2e / 2 ^ 16

/-- A product of fixed-point values. -/
def mulFx (a b : Nat) : Nat := a * b / 2 ^ fx

/-- The sum of t^k / k! from term number k on. -/
def expSeries : Nat → Nat → Nat → Nat → Nat
  | 0, _, _, _ => 0
  | fuel + 1, t, k, term => term + expSeries fuel t (k + 1) (mulFx term t / (k + 1))

/-- exp(t) for a fixed-point t below 1. -/
def expFx (t : Nat) : Nat := expSeries 96 t 0 (2 ^ fx)

/-- The alternating sum of t^(2k+1) / (2k+1)!: `t2` is t², the running index is the last factorial reached. -/
def sinSeries : Nat → Nat → Nat → Nat → Int
  | 0, _, _, _ => 0
  | fuel + 1, t2, k, term => (term : Int) - sinSeries fuel t2 (k + 2) (mulFx term t2 / ((k + 1) * (k + 2)))

/-- sin(t) for a fixed-point t from 0 to π / 2. -/
def sinFx (t : Nat) : Nat := (sinSeries 60 (mulFx t t) 1 t).toNat

/-- The sum of z^(2k+1) / (2k+1). -/
def atanhSeries : Nat → Nat → Nat → Nat → Nat
  | 0, _, _, _ => 0
  | fuel + 1, z2, k, pw => pw / k + atanhSeries fuel z2 (k + 2) (mulFx pw z2)

/-- ln(x) for a fixed-point x from 1 to 2. -/
def lnFx (x : Nat) : Nat :=
  let z := (x - 2 ^ fx) * 2 ^ fx / (x + 2 ^ fx)
  2 * atanhSeries 130 (mulFx z z) 1 z

/-- A value below 1 as a fixed-point fraction: m × 2^e mod 1, for e no finer than -384. -/
def fracFx (m : Nat) (e : Int) : Nat := m * 2 ^ (e + fx).toNat % 2 ^ fx

/-- floor(m × 2^e). -/
def floorNat (m : Nat) (e : Int) : Nat := if 0 ≤ e then m * 2 ^ e.toNat else m / 2 ^ (-e).toNat

/-- A fixed-point value with a sticky bit, times 2^n, rounded. -/
def Format.roundFx (f : Format) (rm : RM) (neg : Bool) (v : Nat) (n : Int) : FRes :=
  f.round rm neg (2 * v + 1) (n - fx - 1)

/-- round(2^x). -/
def Format.exp2 (f : Format) (rm : RM) (x : FNum) : FRes :=
  match x with
  | .nan _ => nanRes f [x]
  | .inf neg => if neg then ⟨f.zeroBits false, 0⟩ else ⟨f.infBits false, 0⟩
  | .fin neg m e =>
    let q := floorNat m e
    let r := fracFx m e
    if r = 0 then f.round rm false 1 (signed neg q)
    else if neg then f.roundFx rm false (expFx (mulFx (2 ^ fx - r) ln2Fx)) (-(q : Int) - 1)
    else f.roundFx rm false (expFx (mulFx r ln2Fx)) q

/-- round(log2 x). -/
def Format.log2 (f : Format) (rm : RM) (x : FNum) : FRes :=
  match x with
  | .nan _ => nanRes f [x]
  | .inf neg => if neg then FNum.invalid f else ⟨f.infBits false, 0⟩
  | .fin neg m e =>
    if m = 0 then ⟨f.infBits true, flagDZ⟩
    else if neg then FNum.invalid f
    else
      let E := e + (m.log2 : Int)
      if m = 2 ^ m.log2 then f.ofNum rm (FNum.ofInt E)
      else
        let l := lnFx (m * 2 ^ (fx - m.log2)) * 2 ^ fx / ln2Fx
        let v : Int := E * 2 ^ fx + l
        f.roundFx rm (decide (v < 0)) v.natAbs 0

/-- |x| mod 2 as a fixed-point value below 2. -/
def mod2Fx (m : Nat) (e : Int) : Nat := m * 2 ^ (e + fx).toNat % 2 ^ (fx + 1)

/-- round(sin(π y)) for a fixed-point y from 0 to 2, given its sign. -/
def Format.sinTurn (f : Format) (rm : RM) (neg : Bool) (y : Nat) : FRes :=
  let neg' := if y < 2 ^ fx then neg else !neg
  let z := y % 2 ^ fx
  let t := if 2 * z ≤ 2 ^ fx then z else 2 ^ fx - z
  if 2 * t = 2 ^ fx then f.round rm neg' 1 0
  else f.roundFx rm neg' (sinFx (mulFx piFx t)) 0

/-- round(sin(π x)): an integer gives a zero of the sign of x. -/
def Format.sinPi (f : Format) (rm : RM) (x : FNum) : FRes :=
  match x with
  | .nan _ => nanRes f [x]
  | .inf _ => FNum.invalid f
  | .fin neg m e =>
    let y := mod2Fx m e
    if y % 2 ^ fx = 0 then ⟨f.zeroBits neg, 0⟩ else f.sinTurn rm neg y

/-- round(cos(π x)): x + 1/2 half-turns of a sine; a half-integer gives +0. -/
def Format.cosPi (f : Format) (rm : RM) (x : FNum) : FRes :=
  match x with
  | .nan _ => nanRes f [x]
  | .inf _ => FNum.invalid f
  | .fin _ m e =>
    let y := (mod2Fx m e + 2 ^ (fx - 1)) % 2 ^ (fx + 1)
    if y % 2 ^ fx = 0 then ⟨f.zeroBits false, 0⟩ else f.sinTurn rm false y

/-! ### The matrix step and the group sum (R105, R242) -/

/-- The exact sum of finite values, as an integer at the least exponent. -/
def sumFin (xs : List (Bool × Nat × Int)) : Int × Int :=
  let e := xs.foldl (fun acc x => if x.2.1 = 0 then acc else min acc x.2.2) 0
  (xs.foldl (fun acc x => if x.2.1 = 0 then acc else acc + alignAt e x.1 x.2.1 x.2.2) 0, e)

/-- The finite parts of a list of values. -/
def finParts : List FNum → List (Bool × Nat × Int)
  | [] => []
  | .fin n m e :: xs => (n, m, e) :: finParts xs
  | _ :: xs => finParts xs

/-- The special part of a sum: NaN when one is present or both infinities are; the infinity; or nothing. The flag says
that ∞ - ∞ arose. -/
def sumSpecial (xs : List FNum) : Option (FNum × Bool) :=
  let p := xs.any fun x => decide (x = .inf false)
  let n := xs.any fun x => decide (x = .inf true)
  if xs.any FNum.isNan then some (.nan false, p && n)
  else if p && n then some (.nan false, true)
  else if p then some (.inf false, false)
  else if n then some (.inf true, false)
  else none

/-- mx_step of R105 on patterns: the accumulator `c` in format `f`, the pairs (a_k, b_k) of the step. -/
def Format.mxStep (f : Format) (rm : RM) (c : Nat) (ab : List (FNum × FNum)) : FRes :=
  let cv := f.decode c
  let prods := ab.map fun p => mulExact p.1 p.2
  let zeroInf := prods.any Option.isNone
  let ps := prods.filterMap id
  let sigIn := decide (cv = .nan true) || ab.any fun p => decide (p.1 = .nan true) || decide (p.2 = .nan true)
  let nanWith (arose : Bool) : FRes := ⟨f.qnan, flagIf (arose || sigIn) flagNV⟩
  if zeroInf then nanWith true
  else match sumSpecial ps with
    | some (.nan _, arose) => nanWith arose
    | some (.inf s, _) =>
      match cv with
      | .nan _ => nanWith false
      | .inf t => if s = t then ⟨f.infBits s, 0⟩ else nanWith true
      | _ => ⟨f.infBits s, 0⟩
    | _ =>
      let (s, e) := sumFin (finParts ps)
      if s = 0 then ⟨c, 0⟩
      else if cv.isNan then nanWith false
      else f.add rm cv (.fin (decide (s < 0)) s.natAbs e)

/-- The sum of f32 patterns rounded once in RN (R242). -/
def groupSum (xs : List Nat) : FRes :=
  let vs := xs.map fmt32.decode
  let sig := vs.any fun x => decide (x = .nan true)
  match sumSpecial vs with
  | some (.nan _, arose) => ⟨fmt32.qnan, flagIf (arose || sig) flagNV⟩
  | some (x, _) => fmt32.ofNum .rn x
  | none =>
    let (s, e) := sumFin (finParts vs)
    if s = 0 then
      ⟨fmt32.zeroBits (vs.all fun x => match x with | .fin n _ _ => n | _ => false), 0⟩
    else fmt32.round .rn (decide (s < 0)) s.natAbs e

end Sys2Proof.Machine
end

