-- ==== Sys2Proof/Machine/Integer.lean ====
section
/-! DEFINITION. The integer, bit, compare, predicate, 64-bit, packed, immediate and three-source instructions of majors
0x01-0x0E (05_integer_instructions.md R107-R127, 04_number_formats.md R102, R103). -/
namespace Sys2Proof.Machine

/-! ### Functions on words -/

/-- The low word of a source. -/
def low (x : DWord) : Word := x.extractLsb' 0 32

/-- A word as a result. -/
def up (x : Word) : DWord := x.zeroExtend 64

/-- An exact integer clamped to i32; the Bool says that it changed (R102). -/
def satI32 (x : Int) : Word × Bool :=
  if x < -(2 ^ 31) then (0x80000000, true) else if 2 ^ 31 ≤ x then (0x7FFFFFFF, true) else (BitVec.ofInt 32 x, false)

/-- An exact integer clamped to n32 (R102). -/
def satN32 (x : Int) : Word × Bool :=
  if x < 0 then (0, true) else if 2 ^ 32 ≤ x then (0xFFFFFFFF, true) else (BitVec.ofInt 32 x, false)

/-- ABS with wrap (R112). -/
def absW (a : Word) : Word := if a.slt 0 then -a else a

/-- Signed minimum and maximum (R112). -/
def minW (a b : Word) : Word := if a.slt b then a else b
/-- Signed maximum (R112). -/
def maxW (a b : Word) : Word := if a.slt b then b else a
/-- Unsigned minimum (R112). -/
def minNW (a b : Word) : Word := if a < b then a else b
/-- Unsigned maximum (R112). -/
def maxNW (a b : Word) : Word := if a < b then b else a

/-- A 32-bit shift left by a full count (R115). -/
def shlW (a c : Word) : Word := if 32 ≤ c.toNat then 0 else a <<< c.toNat
/-- A 32-bit logical shift right by a full count (R115). -/
def shrW (a c : Word) : Word := a >>> c.toNat
/-- A 32-bit arithmetic shift right by a full count (R115). -/
def sarW (a c : Word) : Word := a.sshiftRight (Nat.min c.toNat 32)
/-- Funnel shift (R115). -/
def fshfW (a : DWord) (c : Word) : Word := (a >>> (c.toNat % 64)).extractLsb' 0 32

/-- Position and length of a bit field (R116). -/
def fieldPos (b : Word) : Nat := (b.extractLsb' 0 8).toNat
/-- Length of a bit field (R116). -/
def fieldLen (b : Word) : Nat := Nat.min (b.extractLsb' 8 8).toNat 32

/-- BFX.N (R116). -/
def bfxNW (a b : Word) : Word := BitVec.ofNat 32 (a.toNat / 2 ^ fieldPos b % 2 ^ fieldLen b)

/-- The number of the low `len` bits of x read with bit len - 1 as the sign. -/
def signBits (x len : Nat) : Int := if len = 0 then 0 else if 2 ^ (len - 1) ≤ x then (x : Int) - 2 ^ len else x

/-- BFX (R116): bits above 31 read as the sign. -/
def bfxW (a b : Word) : Word :=
  BitVec.ofInt 32 (signBits (a.toInt / 2 ^ fieldPos b % 2 ^ fieldLen b).toNat (fieldLen b))

/-- BFI (R116). -/
def bfiW (a b old : Word) : Word :=
  let mask := BitVec.ofNat 32 ((2 ^ fieldLen b - 1) * 2 ^ fieldPos b)
  (old &&& ~~~mask) ||| (BitVec.ofNat 32 (a.toNat * 2 ^ fieldPos b) &&& mask)

/-- The number of 1 bits in a number's low `n` bits. -/
def onesIn : Nat → Nat → Nat
  | 0, _ => 0
  | n + 1, x => x % 2 + onesIn n (x / 2)

/-- Trailing 0 bits of a number, at most `n`. -/
def zerosFrom : Nat → Nat → Nat
  | 0, _ => 0
  | n + 1, x => if x % 2 = 1 then 0 else 1 + zerosFrom n (x / 2)

/-- POPC (R115). -/
def popcW (a : Word) : Word := BitVec.ofNat 32 (onesIn 32 a.toNat)
/-- CTZ (R115). -/
def ctzW (a : Word) : Word := BitVec.ofNat 32 (zerosFrom 32 a.toNat)
/-- CLZ (R115). -/
def clzW (a : Word) : Word := BitVec.ofNat 32 (zerosFrom 32 a.reverse.toNat)

/-- Byte k of a word. -/
def byteOf (a : Word) (k : Nat) : BitVec 8 := a.extractLsb' (8 * k) 8

/-- Four bytes as a word, byte 0 lowest. -/
def ofBytes (b0 b1 b2 b3 : BitVec 8) : Word := b3 ++ b2 ++ b1 ++ b0

/-- One byte of BYTEP (R117). -/
def bytepByte (a : Word) (sel : BitVec 4) : BitVec 8 :=
  let x := byteOf a (sel.extractLsb' 0 2).toNat
  if sel.getLsbD 2 then 0 else if sel.getLsbD 3 then (if x.msb then 0xFF else 0) else x

/-- BYTEP (R117). -/
def bytepW (a b : Word) : Word :=
  ofBytes (bytepByte a (b.extractLsb' 0 4)) (bytepByte a (b.extractLsb' 4 4)) (bytepByte a (b.extractLsb' 8 4))
    (bytepByte a (b.extractLsb' 12 4))

/-- Signed quotient (R103). -/
def divW (a b : Word) : Word := if b = 0 then 0xFFFFFFFF else BitVec.ofInt 32 (a.toInt.tdiv b.toInt)
/-- Unsigned quotient (R103). -/
def divNW (a b : Word) : Word := if b = 0 then 0xFFFFFFFF else a / b
/-- Signed remainder (R103). -/
def remW (a b : Word) : Word := if b = 0 then a else BitVec.ofInt 32 (a.toInt.tmod b.toInt)
/-- Unsigned remainder (R103). -/
def remNW (a b : Word) : Word := if b = 0 then a else a % b

/-- SAD (R118). -/
def sadW (a b : Word) : Word :=
  [0, 1, 2, 3].foldl (fun n k => n + (if byteOf a k < byteOf b k then (byteOf b k - byteOf a k).zeroExtend 32
    else (byteOf a k - byteOf b k).zeroExtend 32)) 0

/-- A condition on two values of one width (R119). -/
def condOf {w : Nat} (k : Cond) (x y : BitVec w) : Bool :=
  match k with
  | .eq => decide (x = y)
  | .ne => decide (x ≠ y)
  | .lt => x.slt y
  | .le => x.sle y
  | .gt => y.slt x
  | .ge => y.sle x
  | .lo => x.ult y
  | .ls => x.ule y
  | .hi => y.ult x
  | .hs => y.ule x
  | .tst => decide (x &&& y ≠ 0)
  | .ntst => decide (x &&& y = 0)

/-- An operation on each half of i16x2 operands (R90). -/
def perHalf (f : BitVec 16 → BitVec 16 → BitVec 16) (a b : Word) : Word :=
  f (a.extractLsb' 16 16) (b.extractLsb' 16 16) ++ f (a.extractLsb' 0 16) (b.extractLsb' 0 16)

/-- An operation on each byte of i8x4 operands (R90). -/
def perByte (f : BitVec 8 → BitVec 8 → BitVec 8) (a b : Word) : Word :=
  ofBytes (f (byteOf a 0) (byteOf b 0)) (f (byteOf a 1) (byteOf b 1)) (f (byteOf a 2) (byteOf b 2))
    (f (byteOf a 3) (byteOf b 3))

/-- Signed smaller element. -/
def minE {w : Nat} (a b : BitVec w) : BitVec w := if a.slt b then a else b
/-- Signed larger element. -/
def maxE {w : Nat} (a b : BitVec w) : BitVec w := if a.slt b then b else a

/-- The dot product of DP4A (R127). -/
def dot4 (uns : Bool) (a b : Word) : Int :=
  [0, 1, 2, 3].foldl (fun (n : Int) k => n + (if uns then (((byteOf a k).toNat * (byteOf b k).toNat : Nat) : Int)
    else (byteOf a k).toInt * (byteOf b k).toInt)) 0

/-! ### Shapes of instruction -/

/-- The form of a format A instruction that writes d. -/
def formA (g : PredIx) (d : Dest) (wide : Bool) (srcs : List Operand) : Form :=
  { headland := true, g := g, srcs := srcs, dest := some (d, wide) }

/-- One 32-bit source, one 32-bit result. -/
def State.alu1 (s : State) (d : Dest) (a : Src) (g : PredIx) (f : Word → Word) : Outcome :=
  s.perform (formA g d false [r32 a]) fun _ xs => { val := up (f (low (xs.getD 0 0))) }

/-- Two 32-bit sources, one 32-bit result. -/
def State.alu2 (s : State) (d : Dest) (a b : Src) (g : PredIx) (f : Word → Word → Word) : Outcome :=
  s.perform (formA g d false [r32 a, r32 b]) fun _ xs => { val := up (f (low (xs.getD 0 0)) (low (xs.getD 1 0))) }

/-- Two 32-bit sources, one 32-bit result that may be clamped (R108). -/
def State.aluSat (s : State) (d : Dest) (a b : Src) (g : PredIx) (f : Word → Word → Word × Bool) : Outcome :=
  s.perform (formA g d false [r32 a, r32 b]) fun _ xs =>
    let r := f (low (xs.getD 0 0)) (low (xs.getD 1 0))
    { val := up r.1, sat := r.2 }

/-- Two 32-bit sources, one 64-bit result. -/
def State.aluWide (s : State) (d : Dest) (a b : Src) (g : PredIx) (f : Word → Word → DWord) : Outcome :=
  s.perform (formA g d true [r32 a, r32 b]) fun _ xs => { val := f (low (xs.getD 0 0)) (low (xs.getD 1 0)) }

/-- Two 64-bit sources, one 64-bit result. -/
def State.alu64 (s : State) (d : Dest) (a b : Src) (g : PredIx) (f : DWord → DWord → DWord) : Outcome :=
  s.perform (formA g d true [r64 a, r64 b]) fun _ xs => { val := f (xs.getD 0 0) (xs.getD 1 0) }

/-- A 64-bit and a 32-bit source, one 64-bit result. -/
def State.alu64c (s : State) (d : Dest) (a b : Src) (g : PredIx) (f : DWord → Word → DWord) : Outcome :=
  s.perform (formA g d true [r64 a, r32 b]) fun _ xs => { val := f (xs.getD 0 0) (low (xs.getD 1 0)) }

/-- A predicate from two sources. -/
def State.cmpOp (s : State) (p g : PredIx) (srcs : List Operand) (f : DWord → DWord → Bool) : Outcome :=
  s.perform { headland := true, g := g, srcs := srcs, pred := some p } fun _ xs =>
    { pred := f (xs.getD 0 0) (xs.getD 1 0) }

/-- A predicate from predicates. -/
def State.predOp (s : State) (p g : PredIx) (f : Thread → Bool) : Outcome :=
  s.perform { headland := true, g := g, pred := some p } fun t _ => { pred := f t }

/-- A packed operation: not on the headland (R110). -/
def State.packed (s : State) (d : Dest) (a b : Src) (g : PredIx) (f : Word → Word → Word) : Outcome :=
  s.perform { formA g d false [r32 a, r32 b] with headland := false } fun _ xs =>
    { val := up (f (low (xs.getD 0 0)) (low (xs.getD 1 0))) }

/-- An immediate form: bits [31:0] of the immediate with its LIMM (R124). -/
def State.aluImm (s : State) (d : Dest) (a : Src) (i : BitVec 9) (g : PredIx) (f : Word → Word → Word) : Outcome :=
  s.perform { formA g d false [r32 a] with limm := true } fun _ xs =>
    { val := up (f (low (xs.getD 0 0)) (low (immWith s.cctx.run i))) }

/-- The form of a three-source instruction (R127). A c that pops a channel is legal under CPOP (R51, R59): the last paragraph
of R127, which has DP4A.N with c = q0! fault, is taken to speak of it without CPOP (DEDUCED, notes/assumptions/129.md). -/
def State.formF (s : State) (d : Dest) (a b : Src) (c : Src3) (wide cwide uns : Bool) (hl : Bool := true) : Form :=
  { headland := hl, pfxG := true, uns := uns, cpop := true, dest := some (d, wide)
    srcs := [r32 a, r32 b, ⟨withPop c s.cctx.run, cwide, false⟩] }

/-! ### Major 0x01 -/

/-- ADD (R112). -/
def execAdd (d : Dest) (a b : Src) (g : PredIx) (s : State) : Outcome := s.alu2 d a b g (· + ·)
/-- ADDC (R112). -/
def execAddc (d : Dest) (a b : Src) (g : PredIx) (s : State) : Outcome :=
  s.alu2 d a b g fun x y => if 2 ^ 32 ≤ x.toNat + y.toNat then 1 else 0
/-- SUB (R112). -/
def execSub (d : Dest) (a b : Src) (g : PredIx) (s : State) : Outcome := s.alu2 d a b g (· - ·)
/-- SUBB (R112). -/
def execSubb (d : Dest) (a b : Src) (g : PredIx) (s : State) : Outcome :=
  s.alu2 d a b g fun x y => if x.toNat < y.toNat then 1 else 0
/-- NEG (R112). -/
def execNeg (d : Dest) (a : Src) (g : PredIx) (s : State) : Outcome := s.alu1 d a g (- ·)
/-- ABS (R112). -/
def execAbs (d : Dest) (a : Src) (g : PredIx) (s : State) : Outcome := s.alu1 d a g absW
/-- MIN (R112). -/
def execMin (d : Dest) (a b : Src) (g : PredIx) (s : State) : Outcome := s.alu2 d a b g minW
/-- MIN.N (R112). -/
def execMinN (d : Dest) (a b : Src) (g : PredIx) (s : State) : Outcome := s.alu2 d a b g minNW
/-- MAX (R112). -/
def execMax (d : Dest) (a b : Src) (g : PredIx) (s : State) : Outcome := s.alu2 d a b g maxW
/-- MAX.N (R112). -/
def execMaxN (d : Dest) (a b : Src) (g : PredIx) (s : State) : Outcome := s.alu2 d a b g maxNW
/-- ADDSAT (R112). -/
def execAddsat (d : Dest) (a b : Src) (g : PredIx) (s : State) : Outcome :=
  s.aluSat d a b g fun x y => satI32 (x.toInt + y.toInt)
/-- ADDSAT.N (R112). -/
def execAddsatN (d : Dest) (a b : Src) (g : PredIx) (s : State) : Outcome :=
  s.aluSat d a b g fun x y => satN32 (x.toNat + y.toNat)
/-- SUBSAT (R112). -/
def execSubsat (d : Dest) (a b : Src) (g : PredIx) (s : State) : Outcome :=
  s.aluSat d a b g fun x y => satI32 (x.toInt - y.toInt)
/-- SUBSAT.N (R112). -/
def execSubsatN (d : Dest) (a b : Src) (g : PredIx) (s : State) : Outcome :=
  s.aluSat d a b g fun x y => satN32 ((x.toNat : Int) - y.toNat)

/-! ### Major 0x02 -/

/-- AND (R113). -/
def execAnd (d : Dest) (a b : Src) (g : PredIx) (s : State) : Outcome := s.alu2 d a b g (· &&& ·)
/-- OR (R113). -/
def execOr (d : Dest) (a b : Src) (g : PredIx) (s : State) : Outcome := s.alu2 d a b g (· ||| ·)
/-- XOR (R113). -/
def execXor (d : Dest) (a b : Src) (g : PredIx) (s : State) : Outcome := s.alu2 d a b g (· ^^^ ·)
/-- NOT (R113). -/
def execNot (d : Dest) (a : Src) (g : PredIx) (s : State) : Outcome := s.alu1 d a g (~~~ ·)
/-- ANDN (R113). -/
def execAndn (d : Dest) (a b : Src) (g : PredIx) (s : State) : Outcome := s.alu2 d a b g fun x y => x &&& ~~~y
/-- SEL (R114): g selects, and every running lane is active. -/
def execSel (d : Dest) (a b : Src) (g : PredIx) (s : State) : Outcome :=
  s.perform (formA 0 d false [r32 a, r32 b]) fun t xs =>
    { val := up (if t.pred g then low (xs.getD 0 0) else low (xs.getD 1 0)) }
/-- MOV (R113, R114). -/
def execMov (d : Dest) (a : Src) (g : PredIx) (s : State) : Outcome := s.alu1 d a g id

/-! ### Major 0x03 -/

/-- SHL (R115). -/
def execShl (d : Dest) (a b : Src) (g : PredIx) (s : State) : Outcome := s.alu2 d a b g shlW
/-- SHR (R115). -/
def execShr (d : Dest) (a b : Src) (g : PredIx) (s : State) : Outcome := s.alu2 d a b g shrW
/-- SAR (R115). -/
def execSar (d : Dest) (a b : Src) (g : PredIx) (s : State) : Outcome := s.alu2 d a b g sarW
/-- ROT (R115). -/
def execRot (d : Dest) (a b : Src) (g : PredIx) (s : State) : Outcome :=
  s.alu2 d a b g fun x c => x.rotateLeft (c.toNat % 32)
/-- FSHF (R115). -/
def execFshf (d : Dest) (a b : Src) (g : PredIx) (s : State) : Outcome :=
  s.perform (formA g d false [r64 a, r32 b]) fun _ xs => { val := up (fshfW (xs.getD 0 0) (low (xs.getD 1 0))) }
/-- BFX (R116). -/
def execBfx (d : Dest) (a b : Src) (g : PredIx) (s : State) : Outcome := s.alu2 d a b g bfxW
/-- BFX.N (R116). -/
def execBfxN (d : Dest) (a b : Src) (g : PredIx) (s : State) : Outcome := s.alu2 d a b g bfxNW
/-- BFI (R116): its destination slot is a third source, and may not be a channel. -/
def execBfi (d : Dest) (a b : Src) (g : PredIx) (s : State) : Outcome :=
  s.perform { formA g d false [r32 a, r32 b, r32 ⟨false, false, d.ix⟩] with bad := d.cls } fun _ xs =>
    { val := up (bfiW (low (xs.getD 0 0)) (low (xs.getD 1 0)) (low (xs.getD 2 0))) }
/-- BREV (R115). -/
def execBrev (d : Dest) (a : Src) (g : PredIx) (s : State) : Outcome := s.alu1 d a g BitVec.reverse
/-- POPC (R115). -/
def execPopc (d : Dest) (a : Src) (g : PredIx) (s : State) : Outcome := s.alu1 d a g popcW
/-- CLZ (R115). -/
def execClz (d : Dest) (a : Src) (g : PredIx) (s : State) : Outcome := s.alu1 d a g clzW
/-- CTZ (R115). -/
def execCtz (d : Dest) (a : Src) (g : PredIx) (s : State) : Outcome := s.alu1 d a g ctzW
/-- BYTEP (R117). -/
def execBytep (d : Dest) (a b : Src) (g : PredIx) (s : State) : Outcome := s.alu2 d a b g bytepW

/-! ### Major 0x04 -/

/-- MUL (R118). -/
def execMul (d : Dest) (a b : Src) (g : PredIx) (s : State) : Outcome := s.alu2 d a b g (· * ·)
/-- MULH (R118). -/
def execMulh (d : Dest) (a b : Src) (g : PredIx) (s : State) : Outcome :=
  s.alu2 d a b g fun x y => BitVec.ofInt 32 (x.toInt * y.toInt / 2 ^ 32)
/-- MULH.N (R118). -/
def execMulhN (d : Dest) (a b : Src) (g : PredIx) (s : State) : Outcome :=
  s.alu2 d a b g fun x y => BitVec.ofNat 32 (x.toNat * y.toNat / 2 ^ 32)
/-- MULW (R118). -/
def execMulw (d : Dest) (a b : Src) (g : PredIx) (s : State) : Outcome :=
  s.aluWide d a b g fun x y => BitVec.ofInt 64 (x.toInt * y.toInt)
/-- MULW.N (R118). -/
def execMulwN (d : Dest) (a b : Src) (g : PredIx) (s : State) : Outcome :=
  s.aluWide d a b g fun x y => BitVec.ofNat 64 (x.toNat * y.toNat)
/-- DIV (R103, R118). -/
def execDiv (d : Dest) (a b : Src) (g : PredIx) (s : State) : Outcome := s.alu2 d a b g divW
/-- DIV.N (R103, R118). -/
def execDivN (d : Dest) (a b : Src) (g : PredIx) (s : State) : Outcome := s.alu2 d a b g divNW
/-- REM (R103, R118). -/
def execRem (d : Dest) (a b : Src) (g : PredIx) (s : State) : Outcome := s.alu2 d a b g remW
/-- REM.N (R103, R118). -/
def execRemN (d : Dest) (a b : Src) (g : PredIx) (s : State) : Outcome := s.alu2 d a b g remNW
/-- SAD (R118). -/
def execSad (d : Dest) (a b : Src) (g : PredIx) (s : State) : Outcome := s.alu2 d a b g sadW

/-! ### Major 0x05 -/

/-- CMP (R119, R120). -/
def execCmp (k : Cond) (p : PredIx) (a b : Src) (g : PredIx) (s : State) : Outcome :=
  s.cmpOp p g [r32 a, r32 b] fun x y => condOf k (low x) (low y)
/-- CMP64 (R119, R120). -/
def execCmp64 (k : Cond) (p : PredIx) (a b : Src) (g : PredIx) (s : State) : Outcome :=
  s.cmpOp p g [r64 a, r64 b] fun x y => condOf k x y
/-- PAND (R120). -/
def execPand (p q r g : PredIx) (s : State) : Outcome := s.predOp p g fun t => t.pred q && t.pred r
/-- POR (R120). -/
def execPor (p q r g : PredIx) (s : State) : Outcome := s.predOp p g fun t => t.pred q || t.pred r
/-- PXOR (R120). -/
def execPxor (p q r g : PredIx) (s : State) : Outcome := s.predOp p g fun t => t.pred q != t.pred r
/-- PNOT (R120). -/
def execPnot (p q g : PredIx) (s : State) : Outcome := s.predOp p g fun t => !t.pred q

/-! ### Major 0x06 -/

/-- ADD64 (R121). -/
def execAdd64 (d : Dest) (a b : Src) (g : PredIx) (s : State) : Outcome := s.alu64 d a b g (· + ·)
/-- SUB64 (R121). -/
def execSub64 (d : Dest) (a b : Src) (g : PredIx) (s : State) : Outcome := s.alu64 d a b g (· - ·)
/-- MUL64 (R121). -/
def execMul64 (d : Dest) (a b : Src) (g : PredIx) (s : State) : Outcome := s.alu64 d a b g (· * ·)
/-- SHL64 (R121). -/
def execShl64 (d : Dest) (a b : Src) (g : PredIx) (s : State) : Outcome :=
  s.alu64c d a b g fun x c => if 64 ≤ c.toNat then 0 else x <<< c.toNat
/-- SHR64 (R121). -/
def execShr64 (d : Dest) (a b : Src) (g : PredIx) (s : State) : Outcome :=
  s.alu64c d a b g fun x c => if 64 ≤ c.toNat then 0 else x >>> c.toNat
/-- SAR64 (R121). -/
def execSar64 (d : Dest) (a b : Src) (g : PredIx) (s : State) : Outcome :=
  s.alu64c d a b g fun x c => x.sshiftRight (Nat.min c.toNat 64)
/-- LEA (R121). -/
def execLea (d : Dest) (a b : Src) (g : PredIx) (s : State) : Outcome :=
  s.alu64c d a b g fun x y => x + y.signExtend 64

/-! ### Major 0x07 -/

/-- PADD.I16X2 (R123). -/
def execPaddI16x2 (d : Dest) (a b : Src) (g : PredIx) (s : State) : Outcome := s.packed d a b g (perHalf (· + ·))
/-- PSUB.I16X2 (R123). -/
def execPsubI16x2 (d : Dest) (a b : Src) (g : PredIx) (s : State) : Outcome := s.packed d a b g (perHalf (· - ·))
/-- PMIN.I16X2 (R123). -/
def execPminI16x2 (d : Dest) (a b : Src) (g : PredIx) (s : State) : Outcome := s.packed d a b g (perHalf minE)
/-- PMAX.I16X2 (R123). -/
def execPmaxI16x2 (d : Dest) (a b : Src) (g : PredIx) (s : State) : Outcome := s.packed d a b g (perHalf maxE)
/-- PADD.I8X4 (R123). -/
def execPaddI8x4 (d : Dest) (a b : Src) (g : PredIx) (s : State) : Outcome := s.packed d a b g (perByte (· + ·))
/-- PSUB.I8X4 (R123). -/
def execPsubI8x4 (d : Dest) (a b : Src) (g : PredIx) (s : State) : Outcome := s.packed d a b g (perByte (· - ·))
/-- PMIN.I8X4 (R123). -/
def execPminI8x4 (d : Dest) (a b : Src) (g : PredIx) (s : State) : Outcome := s.packed d a b g (perByte minE)
/-- PMAX.I8X4 (R123). -/
def execPmaxI8x4 (d : Dest) (a b : Src) (g : PredIx) (s : State) : Outcome := s.packed d a b g (perByte maxE)

/-! ### Majors 0x08-0x0B -/

/-- ADDI (R124). -/
def execAddi (d : Dest) (a : Src) (i : BitVec 9) (g : PredIx) (s : State) : Outcome := s.aluImm d a i g (· + ·)
/-- ANDI (R124). -/
def execAndi (d : Dest) (a : Src) (i : BitVec 9) (g : PredIx) (s : State) : Outcome := s.aluImm d a i g (· &&& ·)
/-- ORI (R124). -/
def execOri (d : Dest) (a : Src) (i : BitVec 9) (g : PredIx) (s : State) : Outcome := s.aluImm d a i g (· ||| ·)
/-- XORI (R124). -/
def execXori (d : Dest) (a : Src) (i : BitVec 9) (g : PredIx) (s : State) : Outcome := s.aluImm d a i g (· ^^^ ·)
/-- SHLI (R124, R125). -/
def execShli (d : Dest) (a : Src) (i : BitVec 9) (g : PredIx) (s : State) : Outcome := s.aluImm d a i g shlW
/-- SHRI (R124, R125). -/
def execShri (d : Dest) (a : Src) (i : BitVec 9) (g : PredIx) (s : State) : Outcome := s.aluImm d a i g shrW
/-- SARI (R124, R125). -/
def execSari (d : Dest) (a : Src) (i : BitVec 9) (g : PredIx) (s : State) : Outcome := s.aluImm d a i g sarW
/-- CMPI (R119, R124). -/
def execCmpi (k : Cond) (p : PredIx) (a : Src) (i : BitVec 9) (g : PredIx) (s : State) : Outcome :=
  s.perform { headland := true, g := g, limm := true, srcs := [r32 a], pred := some p } fun _ xs =>
    { pred := condOf k (low (xs.getD 0 0)) (low (immWith s.cctx.run i)) }
/-- MOVI (R126). -/
def execMovi (d : Dest) (i : BitVec 11) (g : PredIx) (s : State) : Outcome :=
  s.perform { formA g d false [] with limm := true } fun _ _ => { val := up (low (immWith s.cctx.run i)) }
/-- LEAI (R126): relative to the address of its own word. -/
def execLeai (d : Dest) (i : BitVec 11) (g : PredIx) (s : State) : Outcome :=
  s.perform { formA g d true [] with limm := true } fun _ _ =>
    { val := s.cctx.fetchPc.zeroExtend 64 + immWith s.cctx.run i }

/-! ### Majors 0x0C-0x0E -/

/-- MAD (R127). -/
def execMad (d : Dest) (a b : Src) (c : Src3) (s : State) : Outcome :=
  s.perform (s.formF d a b c false false false) fun _ xs =>
    { val := up (low (xs.getD 0 0) * low (xs.getD 1 0) + low (xs.getD 2 0)) }

/-- MADW (R127). -/
def execMadw (d : Dest) (a b : Src) (c : Src3) (s : State) : Outcome :=
  s.perform (s.formF d a b c true true true) fun _ xs =>
    { val := BitVec.ofInt 64 ((low (xs.getD 0 0)).toInt * (low (xs.getD 1 0)).toInt) + xs.getD 2 0 }

/-- MADW.N (R127). -/
def execMadwN (d : Dest) (a b : Src) (c : Src3) (s : State) : Outcome :=
  s.perform (s.formF d a b c true true true) fun _ xs =>
    { val := BitVec.ofNat 64 ((low (xs.getD 0 0)).toNat * (low (xs.getD 1 0)).toNat) + xs.getD 2 0 }

/-- DP4A (R127). -/
def execDp4a (d : Dest) (a b : Src) (c : Src3) (s : State) : Outcome :=
  s.perform (s.formF d a b c false false true (hl := false)) fun _ xs =>
    { val := up (low (xs.getD 2 0) + BitVec.ofInt 32 (dot4 false (low (xs.getD 0 0)) (low (xs.getD 1 0)))) }

/-- DP4A.N (R127). -/
def execDp4aN (d : Dest) (a b : Src) (c : Src3) (s : State) : Outcome :=
  s.perform (s.formF d a b c false false true (hl := false)) fun _ xs =>
    { val := up (low (xs.getD 2 0) + BitVec.ofInt 32 (dot4 true (low (xs.getD 0 0)) (low (xs.getD 1 0)))) }

end Sys2Proof.Machine
end

