-- ==== Sys2Proof/Machine/FloatOps.lean ====
section
/-! DEFINITION. The floating-point and conversion instructions of majors 0x10-0x1A (06_float_instructions.md
R128-R147). -/
namespace Sys2Proof.Machine

/-! ### Shapes of instruction -/

/-- The form of a floating-point instruction of format A that writes d (R128, R129). -/
def formFp (hl : Bool) (g : PredIx) (d : Dest) (wide : Bool) (srcs : List Operand) : Form :=
  { headland := hl, g := g, rm := true, srcs := srcs, dest := some (d, wide) }

/-- A result of a lane from a float result. -/
def FRes.out (r : FRes) : LaneOut := { val := BitVec.ofNat 64 r.bits, flags := r.flags }

/-- The rounding mode in force (R100). -/
def State.rm (s : State) (dflt : RM := .rn) : RM := rmOf s.cctx.run dflt

/-- An operand of the given width. -/
def rW (wide : Bool) (a : Src) : Operand := ⟨a, wide, false⟩

/-- One f32 source and result. -/
def State.fp1 (s : State) (hl : Bool) (d : Dest) (a : Src) (g : PredIx) (f : RM → Nat → FRes) : Outcome :=
  s.perform (formFp hl g d false [r32 a]) fun _ xs => (f s.rm (low (xs.getD 0 0)).toNat).out

/-- Two f32 sources, f32 result. -/
def State.fp2 (s : State) (hl : Bool) (d : Dest) (a b : Src) (g : PredIx) (f : RM → Nat → Nat → FRes) : Outcome :=
  s.perform (formFp hl g d false [r32 a, r32 b]) fun _ xs =>
    (f s.rm (low (xs.getD 0 0)).toNat (low (xs.getD 1 0)).toNat).out

/-- One f64 source and result. -/
def State.fp1w (s : State) (hl : Bool) (d : Dest) (a : Src) (g : PredIx) (f : RM → Nat → FRes) : Outcome :=
  s.perform (formFp hl g d true [r64 a]) fun _ xs => (f s.rm (xs.getD 0 0).toNat).out

/-- Two f64 sources, f64 result. -/
def State.fp2w (s : State) (hl : Bool) (d : Dest) (a b : Src) (g : PredIx) (f : RM → Nat → Nat → FRes) : Outcome :=
  s.perform (formFp hl g d true [r64 a, r64 b]) fun _ xs => (f s.rm (xs.getD 0 0).toNat (xs.getD 1 0).toNat).out

/-- Sum of two patterns. -/
def fadd (f : Format) (rm : RM) (a b : Nat) : FRes := f.add rm (f.decode a) (f.decode b)
/-- Difference of two patterns: the sum with b negated (R131). -/
def fsub (f : Format) (rm : RM) (a b : Nat) : FRes := f.add rm (f.decode a) (f.decode b).negate
/-- Product of two patterns. -/
def fmul (f : Format) (rm : RM) (a b : Nat) : FRes := f.mul rm (f.decode a) (f.decode b)
/-- Quotient of two patterns. -/
def fdiv (f : Format) (rm : RM) (a b : Nat) : FRes := f.div rm (f.decode a) (f.decode b)
/-- Sign bit cleared (R131). -/
def fabsBits (f : Format) (a : Nat) : FRes := ⟨a % 2 ^ (f.frac + f.expo), 0⟩
/-- Sign bit inverted (R131). -/
def fnegBits (f : Format) (a : Nat) : FRes :=
  ⟨a % 2 ^ (f.frac + f.expo) + (if f.signOf a then 0 else 2 ^ (f.frac + f.expo)), 0⟩

/-- An f16 operation on each element of packed operands; the flags are ORed (R134). -/
def perF16 (f : Nat → Nat → FRes) (a b : Word) : LaneOut :=
  let lo := f (a.extractLsb' 0 16).toNat (b.extractLsb' 0 16).toNat
  let hi := f (a.extractLsb' 16 16).toNat (b.extractLsb' 16 16).toNat
  { val := BitVec.ofNat 64 (lo.bits + hi.bits * 2 ^ 16), flags := lo.flags ||| hi.flags }

/-- A packed f16 instruction: not on the headland (R129). -/
def State.packedF (s : State) (d : Dest) (a b : Src) (g : PredIx) (f : RM → Nat → Nat → FRes) : Outcome :=
  s.perform (formFp false g d false [r32 a, r32 b]) fun _ xs =>
    perF16 (f s.rm) (low (xs.getD 0 0)) (low (xs.getD 1 0))

/-- The form of an instruction of major 0x13 (R135). -/
def formFcmp (p g : PredIx) (srcs : List Operand) : Form :=
  { headland := true, g := g, rm := true, srcs := srcs, pred := some p }

/-- FCMP (R136). -/
def State.fcmpOp (s : State) (f : Format) (k : FCond) (p : PredIx) (srcs : List Operand) (g : PredIx) : Outcome :=
  s.perform (formFcmp p g srcs) fun _ xs =>
    let r := fcmp k (f.decode (xs.getD 0 0).toNat) (f.decode (xs.getD 1 0).toNat)
    { pred := r.1, flags := r.2 }

/-- FCLASS (R137). -/
def State.fclassOp (s : State) (f : Format) (k : FClass) (p : PredIx) (src : Operand) (g : PredIx) : Outcome :=
  s.perform (formFcmp p g [src]) fun _ xs => { pred := f.classOf k (xs.getD 0 0).toNat }

/-! ### Majors 0x10 and 0x11 -/

/-- FADD (R131). -/
def execFadd (d : Dest) (a b : Src) (g : PredIx) (s : State) : Outcome := s.fp2 true d a b g (fadd fmt32)
/-- FSUB (R131). -/
def execFsub (d : Dest) (a b : Src) (g : PredIx) (s : State) : Outcome := s.fp2 true d a b g (fsub fmt32)
/-- FMUL (R131). -/
def execFmul (d : Dest) (a b : Src) (g : PredIx) (s : State) : Outcome := s.fp2 true d a b g (fmul fmt32)
/-- FMIN (R132). -/
def execFmin (d : Dest) (a b : Src) (g : PredIx) (s : State) : Outcome :=
  s.fp2 true d a b g fun _ x y => fmt32.minMax false x y
/-- FMAX (R132). -/
def execFmax (d : Dest) (a b : Src) (g : PredIx) (s : State) : Outcome :=
  s.fp2 true d a b g fun _ x y => fmt32.minMax true x y
/-- FABS (R131). -/
def execFabs (d : Dest) (a : Src) (g : PredIx) (s : State) : Outcome := s.fp1 true d a g fun _ x => fabsBits fmt32 x
/-- FNEG (R131). -/
def execFneg (d : Dest) (a : Src) (g : PredIx) (s : State) : Outcome := s.fp1 true d a g fun _ x => fnegBits fmt32 x
/-- FRND (R133). -/
def execFrnd (d : Dest) (a : Src) (g : PredIx) (s : State) : Outcome :=
  s.fp1 true d a g fun rm x => fmt32.rint rm (fmt32.decode x)
/-- FSCALE (R131). -/
def execFscale (d : Dest) (a b : Src) (g : PredIx) (s : State) : Outcome :=
  s.fp2 true d a b g fun rm x n => fmt32.scale rm (fmt32.decode x) (BitVec.ofNat 32 n).toInt
/-- FADD.F64 (R131). -/
def execFaddF64 (d : Dest) (a b : Src) (g : PredIx) (s : State) : Outcome := s.fp2w true d a b g (fadd fmt64)
/-- FSUB.F64 (R131). -/
def execFsubF64 (d : Dest) (a b : Src) (g : PredIx) (s : State) : Outcome := s.fp2w true d a b g (fsub fmt64)
/-- FMUL.F64 (R131). -/
def execFmulF64 (d : Dest) (a b : Src) (g : PredIx) (s : State) : Outcome := s.fp2w true d a b g (fmul fmt64)
/-- FMIN.F64 (R132). -/
def execFminF64 (d : Dest) (a b : Src) (g : PredIx) (s : State) : Outcome :=
  s.fp2w true d a b g fun _ x y => fmt64.minMax false x y
/-- FMAX.F64 (R132). -/
def execFmaxF64 (d : Dest) (a b : Src) (g : PredIx) (s : State) : Outcome :=
  s.fp2w true d a b g fun _ x y => fmt64.minMax true x y
/-- FABS.F64 (R131). -/
def execFabsF64 (d : Dest) (a : Src) (g : PredIx) (s : State) : Outcome :=
  s.fp1w true d a g fun _ x => fabsBits fmt64 x
/-- FNEG.F64 (R131). -/
def execFnegF64 (d : Dest) (a : Src) (g : PredIx) (s : State) : Outcome :=
  s.fp1w true d a g fun _ x => fnegBits fmt64 x
/-- FRND.F64 (R133). -/
def execFrndF64 (d : Dest) (a : Src) (g : PredIx) (s : State) : Outcome :=
  s.fp1w true d a g fun rm x => fmt64.rint rm (fmt64.decode x)
/-- FSCALE.F64 (R131): b is one 32-bit slot. -/
def execFscaleF64 (d : Dest) (a b : Src) (g : PredIx) (s : State) : Outcome :=
  s.perform (formFp true g d true [r64 a, r32 b]) fun _ xs =>
    (fmt64.scale s.rm (fmt64.decode (xs.getD 0 0).toNat) (low (xs.getD 1 0)).toInt).out

/-! ### Major 0x12 -/

/-- PFADD.F16X2 (R134). -/
def execPfaddF16x2 (d : Dest) (a b : Src) (g : PredIx) (s : State) : Outcome := s.packedF d a b g (fadd fmt16)
/-- PFSUB.F16X2 (R134). -/
def execPfsubF16x2 (d : Dest) (a b : Src) (g : PredIx) (s : State) : Outcome := s.packedF d a b g (fsub fmt16)
/-- PFMUL.F16X2 (R134). -/
def execPfmulF16x2 (d : Dest) (a b : Src) (g : PredIx) (s : State) : Outcome := s.packedF d a b g (fmul fmt16)
/-- PFMIN.F16X2 (R134). -/
def execPfminF16x2 (d : Dest) (a b : Src) (g : PredIx) (s : State) : Outcome :=
  s.packedF d a b g fun _ x y => fmt16.minMax false x y
/-- PFMAX.F16X2 (R134). -/
def execPfmaxF16x2 (d : Dest) (a b : Src) (g : PredIx) (s : State) : Outcome :=
  s.packedF d a b g fun _ x y => fmt16.minMax true x y

/-! ### Major 0x13 -/

/-- FCMP.F32 (R135, R136). -/
def execFcmpF32 (k : FCond) (p : PredIx) (a b : Src) (g : PredIx) (s : State) : Outcome :=
  s.fcmpOp fmt32 k p [r32 a, r32 b] g
/-- FCMP.F64 (R135, R136). -/
def execFcmpF64 (k : FCond) (p : PredIx) (a b : Src) (g : PredIx) (s : State) : Outcome :=
  s.fcmpOp fmt64 k p [r64 a, r64 b] g
/-- FCLASS.F32 (R135, R137). -/
def execFclassF32 (k : FClass) (p : PredIx) (a : Src) (g : PredIx) (s : State) : Outcome :=
  s.fclassOp fmt32 k p (r32 a) g
/-- FCLASS.F64 (R135, R137). -/
def execFclassF64 (k : FClass) (p : PredIx) (a : Src) (g : PredIx) (s : State) : Outcome :=
  s.fclassOp fmt64 k p (r64 a) g

/-! ### Major 0x14 -/

/-- FDIV (R138, R139). -/
def execFdiv (d : Dest) (a b : Src) (g : PredIx) (s : State) : Outcome := s.fp2 false d a b g (fdiv fmt32)
/-- FDIV.F64 (R138, R139). -/
def execFdivF64 (d : Dest) (a b : Src) (g : PredIx) (s : State) : Outcome := s.fp2w false d a b g (fdiv fmt64)
/-- FSQRT (R138, R139). -/
def execFsqrt (d : Dest) (a : Src) (g : PredIx) (s : State) : Outcome :=
  s.fp1 false d a g fun rm x => fmt32.sqrt rm (fmt32.decode x)
/-- FSQRT.F64 (R138, R139). -/
def execFsqrtF64 (d : Dest) (a : Src) (g : PredIx) (s : State) : Outcome :=
  s.fp1w false d a g fun rm x => fmt64.sqrt rm (fmt64.decode x)
/-- FRCP (R138, R139): the quotient of 1 by a. -/
def execFrcp (d : Dest) (a : Src) (g : PredIx) (s : State) : Outcome :=
  s.fp1 false d a g fun rm x => fmt32.div rm (.fin false 1 0) (fmt32.decode x)
/-- FRSQ (R138, R139). -/
def execFrsq (d : Dest) (a : Src) (g : PredIx) (s : State) : Outcome :=
  s.fp1 false d a g fun rm x => fmt32.rsqrt rm (fmt32.decode x)
/-- FEXP2 (R138, R139). -/
def execFexp2 (d : Dest) (a : Src) (g : PredIx) (s : State) : Outcome :=
  s.fp1 false d a g fun rm x => fmt32.exp2 rm (fmt32.decode x)
/-- FLOG2 (R138, R139). -/
def execFlog2 (d : Dest) (a : Src) (g : PredIx) (s : State) : Outcome :=
  s.fp1 false d a g fun rm x => fmt32.log2 rm (fmt32.decode x)
/-- FSIN (R138, R139). -/
def execFsin (d : Dest) (a : Src) (g : PredIx) (s : State) : Outcome :=
  s.fp1 false d a g fun rm x => fmt32.sinPi rm (fmt32.decode x)
/-- FCOS (R138, R139). -/
def execFcos (d : Dest) (a : Src) (g : PredIx) (s : State) : Outcome :=
  s.fp1 false d a g fun rm x => fmt32.cosPi rm (fmt32.decode x)

/-! ### Major 0x15 -/

/-- The float format takes a pair. -/
def FFmt.wide (f : FFmt) : Bool := decide (f = .f64)
/-- The integer format takes a pair. -/
def IFmt.wide (f : IFmt) : Bool := decide (f = .i64) || decide (f = .n64)

/-- The exact value of a source in a float format (R142). -/
def readFloat (f : FFmt) (x : DWord) : FNum :=
  match f with
  | .f16 => fmt16.decode (x.toNat % 2 ^ 16)
  | .f32 => fmt32.decode (x.toNat % 2 ^ 32)
  | .f64 => fmt64.decode x.toNat
  | .fk8a => fk8a.decode (x.toNat % 256)
  | .fk8b => fk8b.decode (x.toNat % 256)

/-- A value rounded once into a float format (R94, R101). -/
def toFloat (f : FFmt) (rm : RM) (x : FNum) : FRes :=
  match f with
  | .f16 => fmt16.ofNum rm x
  | .f32 => fmt32.ofNum rm x
  | .f64 => fmt64.ofNum rm x
  | .fk8a => fk8a.ofNum rm x
  | .fk8b => fk8b.ofNum rm x

/-- The value of a source in an integer format (R142). -/
def readInt (f : IFmt) (x : DWord) : Int :=
  match f with
  | .i32 => (x.extractLsb' 0 32).toInt
  | .n32 => (x.extractLsb' 0 32).toNat
  | .i64 => x.toInt
  | .n64 => x.toNat
  | .i16 => (x.extractLsb' 0 16).toInt
  | .n16 => (x.extractLsb' 0 16).toNat
  | .i8 => (x.extractLsb' 0 8).toInt
  | .n8 => (x.extractLsb' 0 8).toNat

/-- CVT (R142, R143). -/
def execCvt (d : Dest) (a : Src) (f t : FFmt) (g : PredIx) (s : State) : Outcome :=
  s.perform (formFp true g d (FFmt.wide t) [rW (FFmt.wide f) a]) fun _ xs =>
    (toFloat t s.rm (readFloat f (xs.getD 0 0))).out

/-- CVTI (R142, R143): rounds towards zero by default; i16 and i8 results are sign-extended. -/
def execCvti (d : Dest) (a : Src) (f : FFmt) (t : IFmt) (g : PredIx) (s : State) : Outcome :=
  s.perform (formFp true g d (IFmt.wide t) [rW (FFmt.wide f) a]) fun _ xs =>
    let r := toInteger t (s.rm .rz) (readFloat f (xs.getD 0 0))
    { val := BitVec.ofInt 64 r.1, flags := r.2.1, sat := r.2.2 }

/-- CVTF (R142, R143). -/
def execCvtf (d : Dest) (a : Src) (f : IFmt) (t : FFmt) (g : PredIx) (s : State) : Outcome :=
  s.perform (formFp true g d (FFmt.wide t) [rW (IFmt.wide f) a]) fun _ xs =>
    (toFloat t s.rm (FNum.ofInt (readInt f (xs.getD 0 0)))).out

/-! ### Major 0x16 -/

/-- The fk8 format that the K8 bit names (R144). -/
def k8Of (k : Bool) : Fk8 := if k then fk8b else fk8a

/-- PACK8 on a source and the old destination (R145). -/
def pack8Word (w k h : Bool) (rm : RM) (x : DWord) (old : Word) : LaneOut :=
  let fmt := if w then fmt32 else fmt16
  let n := if w then 32 else 16
  let r0 := (k8Of k).ofNum rm (fmt.decode (x.toNat % 2 ^ n))
  let r1 := (k8Of k).ofNum rm (fmt.decode (x.toNat / 2 ^ n % 2 ^ n))
  let half : BitVec 16 := BitVec.ofNat 8 r1.bits ++ BitVec.ofNat 8 r0.bits
  let v : Word := if h then half ++ old.extractLsb' 0 16 else old.extractLsb' 16 16 ++ half
  { val := up v, flags := r0.flags ||| r1.flags }

/-- PACK8 (R144, R145): its destination slot is a further source, and may not be a channel. -/
def execPack8 (d : Dest) (a : Src) (w k h : Bool) (g : PredIx) (s : State) : Outcome :=
  s.perform { formFp false g d false [rW w a, r32 ⟨false, false, d.ix⟩] with bad := d.cls } fun _ xs =>
    pack8Word w k h s.rm (xs.getD 0 0) (low (xs.getD 1 0))

/-- UNPACK8 on a word (R145): exact, no flag. -/
def unpack8Word (w k h : Bool) (x : Word) : DWord :=
  let fmt := if w then fmt32 else fmt16
  let n := if w then 32 else 16
  let c := if h then x.toNat / 2 ^ 16 else x.toNat
  let e0 := (fmt.ofNum .rn ((k8Of k).decode (c % 256))).bits
  let e1 := (fmt.ofNum .rn ((k8Of k).decode (c / 256 % 256))).bits
  BitVec.ofNat 64 (e0 + e1 * 2 ^ n)

/-- UNPACK8 (R144, R145). -/
def execUnpack8 (d : Dest) (a : Src) (w k h : Bool) (g : PredIx) (s : State) : Outcome :=
  s.perform (formFp false g d w [r32 a]) fun _ xs => { val := unpack8Word w k h (low (xs.getD 0 0)) }

/-- Two cb4 codes of a word decoded with a block scale (R147). -/
def cbPair (f : Format) (n : Nat) (rm : RM) (j : BitVec 2) (x : DWord) : LaneOut :=
  let bs := x.toNat / 2 ^ 32
  let e0 := cb4Element f rm (x.toNat / 2 ^ (8 * j.toNat) % 16) bs
  let e1 := cb4Element f rm (x.toNat / 2 ^ (8 * j.toNat + 4) % 16) bs
  { val := BitVec.ofNat 64 (e0.bits + e1.bits * 2 ^ n), flags := e0.flags ||| e1.flags }

/-- CBDEC (R146, R147). -/
def execCbdec (d : Dest) (a : Src) (m : CbMode) (g : PredIx) (s : State) : Outcome :=
  s.perform (formFp false g d (match m with | .f32x2 _ => true | _ => false) [r64 a]) fun _ xs =>
    let x := xs.getD 0 0
    match m with
    | .bs => (blockScale (low x).toNat (x.extractLsb' 32 8).toNat).out
    | .f16x2 j => cbPair fmt16 16 s.rm j x
    | .f32x2 j => cbPair fmt32 32 s.rm j x

/-! ### Majors 0x18-0x1A -/

/-- Fused multiply-add of patterns. -/
def ffma (f : Format) (rm : RM) (a b c : Nat) : FRes := f.fma rm (f.decode a) (f.decode b) (f.decode c)

/-- The form of a fused multiply-add (R140). -/
def State.formFma (s : State) (hl : Bool) (d : Dest) (a b : Src) (c : Src3) (wide : Bool) : Form :=
  { headland := hl, pfxG := true, rm := true, cpop := true, dest := some (d, wide)
    srcs := [rW wide a, rW wide b, rW wide (withPop c s.cctx.run)] }

/-- FMA.F32 (R140). -/
def execFmaF32 (d : Dest) (a b : Src) (c : Src3) (s : State) : Outcome :=
  s.perform (s.formFma true d a b c false) fun _ xs =>
    (ffma fmt32 s.rm (low (xs.getD 0 0)).toNat (low (xs.getD 1 0)).toNat (low (xs.getD 2 0)).toNat).out

/-- FMA.F64 (R140). -/
def execFmaF64 (d : Dest) (a b : Src) (c : Src3) (s : State) : Outcome :=
  s.perform (s.formFma true d a b c true) fun _ xs =>
    (ffma fmt64 s.rm (xs.getD 0 0).toNat (xs.getD 1 0).toNat (xs.getD 2 0).toNat).out

/-- PFMA.F16X2 on packed operands (R140). -/
def fma16x2 (rm : RM) (a b c : Nat) : LaneOut :=
  let lo := ffma fmt16 rm (a % 2 ^ 16) (b % 2 ^ 16) (c % 2 ^ 16)
  let hi := ffma fmt16 rm (a / 2 ^ 16 % 2 ^ 16) (b / 2 ^ 16 % 2 ^ 16) (c / 2 ^ 16 % 2 ^ 16)
  { val := BitVec.ofNat 64 (lo.bits + hi.bits * 2 ^ 16), flags := lo.flags ||| hi.flags }

/-- PFMA.F16X2 (R140). -/
def execPfmaF16x2 (d : Dest) (a b : Src) (c : Src3) (s : State) : Outcome :=
  s.perform (s.formFma false d a b c false) fun _ xs =>
    fma16x2 s.rm (low (xs.getD 0 0)).toNat (low (xs.getD 1 0)).toNat (low (xs.getD 2 0)).toNat

end Sys2Proof.Machine
end

