-- ==== Sys2Proof/Machine/Homes.lean ====
section
/-! DEFINITION. Words at their home slices: regions, the copies of L1s, near caches and guest lines, the order of the
requests for a word, forwards, recalls and revokes, and the requests that go to other packages (14_die.md R377, R378,
15_package_memory_model.md R382-R393, 18_fabric.md R444-R456). The data of a word that an owner of this package holds
stands in `mem` (notes/assumptions/1.md). -/
namespace Sys2Proof.Machine

/-! ### Regions -/

/-- The region of an address among declared regions: the lowest-numbered that holds it, else 63 (R392). -/
def regionIn (rs : List (Nat × Nat × Nat)) (va : Nat) : Nat :=
  match leastBy (·.1) (rs.filter fun r => decide (r.2.1 ≤ va / 4096) && decide (va / 4096 < r.2.1 + r.2.2)) with
  | some r => r.1
  | none => 63

/-- The regions a party has latched (R393). -/
def State.regionsOf (s : State) (p : Party) : List (Nat × Nat × Nat) :=
  match p, s.teamOf p with
  | .service n, _ => (s.service n).regions
  | _, some tk => (s.team tk).regions
  | _, none => []

/-- Every region. -/
def allRegions : DWord := BitVec.allOnes 64

/-- The mask names the region. -/
def inMask (m : DWord) (region : Nat) : Bool := m.getLsbD region

/-- Whose access it is, and the tag that its fills and its registrations carry (R385, R393): the requester as a home slice
knows it, the owner word, the agent, the address space and the region. -/
structure Asker where
  who : Waiter
  owner : Owner
  agent : Nat
  asn : Nat
  region : Nat
  deriving DecidableEq, Repr

/-- The asker of a party's access to an address. -/
def State.asker (s : State) (p : Party) (va : Nat) : Asker :=
  ⟨.party (s.leader p), s.ownerOf p, s.agentOf p, s.asnOf p, regionIn (s.regionsOf p) va⟩

/-! ### Copies -/

/-- The words of a line, ascending. -/
def lineWords (w : Nat) : List Nat := (upto 16).map fun i => w / 64 * 64 + 4 * i

/-- The words of a list lie in some line of a table. -/
def inLine (w : Nat) (x : Nat × Copy) : Bool := decide (x.1 / 64 = w / 64)

/-- The number of lines that rising addresses lie in. -/
def lineCount : Option Nat → List Nat → Nat
  | _, [] => 0
  | l, w :: ws => (if l = some (w / 64) then 0 else 1) + lineCount (some (w / 64)) ws

/-- Key in an L1 of a word of another package: apart from those of this package's memory. -/
def farKey (w : Nat) : Nat := 2 ^ 56 + w

/-- The owner of a word that is registered. -/
def WordSt.owner? : WordSt → Option Owner
  | .open_ o _ _ => some o
  | .closed o _ _ _ => some o
  | _ => none

/-- The words registered to an agent of this package, whose data its L1 holds (R388). -/
def State.registeredAt (s : State) (agent : Nat) : List Nat :=
  let mine (o : Owner) : Bool := s.localOwner o && decide (o.agent = agent)
  (s.words.filterMap fun x => if x.2.owner?.any mine then some x.1 else none)
    ++ s.guestRegs.filterMap fun x => if mine x.2.owner then some (farKey x.1) else none

/-- Lines that an agent's L1 holds (R213); the spec gives no size for that of a barrel core. -/
def State.l1Lines (s : State) (agent : Nat) : Option Nat :=
  if agent < 512 then some (tgetD agent 320 s.l1size * 16) else none

/-- Every line of an agent's L1 is taken. -/
def State.l1Full (s : State) (agent : Nat) : Bool :=
  match s.l1Lines agent with
  | none => false
  | some n =>
    let l1 := (s.cmem agent).l1
    decide (n ≤ l1.length + s.words.length + s.guestRegs.length)
      && decide (n ≤ lineCount none (sortBy id ((l1.map (·.1)) ++ s.registeredAt agent)))

/-- A line's clean copies placed in an L1 in place of those that it held: the line is one fill (R388). -/
def State.fillL1 (s : State) (agent w : Nat) (cs : Table Nat Copy) : State :=
  s.onCmem agent fun m =>
    { m with l1 := cs.foldl (fun t x => tset x.1 x.2 t) (m.l1.filter fun x => !inLine w x) }

/-- A line's clean copies placed in an L1 that holds the line or has room for it. -/
def State.fillRoom (s : State) (agent w : Nat) (cs : Table Nat Copy) : State :=
  if s.l1Full agent && !(s.cmem agent).l1.any (inLine w) then s else s.fillL1 agent w cs

/-- An agent's clean copy dropped. -/
def State.dropL1 (s : State) (agent w : Nat) : State := s.onCmem agent fun m => { m with l1 := tdel w m.l1 }

/-- The clean copies of every agent of an owner dropped, so that no party of it reads one that is older than its write (R399). -/
def State.dropOwn (s : State) (a : Asker) (w : Nat) : State := forEach (s.ownerAgents a.owner) s fun c s => s.dropL1 c w

/-- The die whose near cache serves an agent. -/
def nearDie (agent : Nat) : Option Nat := if agent < 512 then some (dieOfAgent agent) else none

/-- Lines of a near cache: 16 MiB (R358). -/
def nearLines : Nat := 262144

/-- The near cache has room for a line. -/
def nearRoom (near : Table Nat Copy) (w : Nat) : Bool :=
  decide (near.length < nearLines) || near.any (inLine w) || decide (lineCount none (near.map (·.1)) < nearLines)

/-- A line's clean copies placed in a die's near cache, when its home is on another die (R377). -/
def State.fillNear (s : State) (die w : Nat) (cs : Table Nat Copy) : State :=
  if s.homeDie w = die ∨ nearRoom (s.die die).near w = false then s
  else s.onDie die fun x => { x with near := cs.foldl (fun t y => tset y.1 y.2 t) (x.near.filter fun y => !inLine w y) }

/-- The words of a line that its home slice holds in V, as copies (R377). -/
def State.cleanLine (s : State) (w asn region : Nat) : Table Nat Copy :=
  (lineWords w).filterMap fun w =>
    if (s.wordSt w).isSome || s.poisoned w then none else some (w, ⟨mword w s.mem, asn, region⟩)

/-- A line read at its home slice enters the reader's L1 while there is room, and its die's near cache (R377, R389). -/
def State.fillCaches (s : State) (agent w asn region : Nat) : State :=
  let cs := s.cleanLine w asn region
  let s := s.fillRoom agent w cs
  match nearDie agent with
  | some d => s.fillNear d w cs
  | none => s

/-- A write of an agent's die writes through the near cache of that die (R378). -/
def State.writeThrough (s : State) (agent w : Nat) : State :=
  match nearDie agent with
  | some d => s.onDie d fun x => match tget w x.near with
    | some c => { x with near := tset w { c with val := mword w s.mem } x.near }
    | none => x
  | none => s

/-! ### Messages to other packages -/

/-- The package id is fenced on every port (R456). -/
def State.fenced (s : State) (pkg : Nat) : Bool :=
  s.fab.fence.any fun x => x.2.getLsbD 63 && x.2.getLsbD 62 && decide (bits x.2.toNat 11 0 = pkg)

/-- Microseconds in ac (R184). -/
def usAc (n : Nat) : Nat := 600 * n

/-- The forward and request timeout in ac (R451, R472). -/
def State.fwdLimit (s : State) : Nat := usAc (Nat.max 1 s.fab.fwdto.toNat)

/-- Set bits of a port mask, ascending. -/
def maskPorts (m : Nat) : List Nat := (upto 18).filter fun p => m.testBit p

/-- The port that a message about an address takes to a package (R444). -/
def State.portFor (s : State) (pkg pa : Nat) : Option Nat :=
  let ps := maskPorts (s.routeMask pkg)
  ps[bits pa 21 6 % Nat.max 1 ps.length]?

/-- Flits that a replay buffer holds (R445). -/
def replayMax : Nat := 512

/-- Flits sent on a port while its replay buffer has room: each is kept there until it is acknowledged (R445). -/
def Port.pump : List (Option (Nat × Nat)) → Port → Port
  | [], p => { p with waiting := [] }
  | x :: xs, p =>
    if replayMax ≤ p.buffer.length then { p with waiting := x :: xs }
    else Port.pump xs { p with sent := (p.sent + 1) % 4096, buffer := p.buffer ++ [⟨p.sent, x⟩] }

/-- A flit given to a port: with a message about a line to a package, or a recovery notice. -/
def Port.push (x : Option (Nat × Nat)) (p : Port) : Port := Port.pump (p.waiting ++ [x]) p

/-- The state with a Dramon port updated. -/
def State.onPort (s : State) (p : Nat) (f : Port → Port) : State :=
  { s with fab := { s.fab with ports := tset p (f (s.fab.port p)) s.fab.ports } }

/-- The port carries a message about a line to a package that has not been delivered. -/
def Port.carries (p : Port) (x : Nat × Nat) : Bool :=
  p.up && (p.waiting.contains (some x) || p.buffer.any fun f => decide (f.msg = some x))

/-- A message about a line to a package handed to its port: the one that still carries messages of the line, so that a change
of the route mask takes effect once they are delivered (R444). -/
def State.post (s : State) (x : Nat × Nat) : State :=
  let old := (upto 18).find? fun p => (s.fab.port p).carries x
  match old.or (s.portFor x.1 x.2) with
  | some p => if (s.fab.port p).up then s.onPort p (Port.push (some x)) else s
  | none => s

/-- A message sent to another package: a flit on its port. -/
def State.send (s : State) (m : Msg) : State :=
  State.post { s with fab := { s.fab with sent := m :: s.fab.sent } } (m.to_, m.line / 64 * 64)

/-- A recovery notice on every port that is up (R454). -/
def State.tellRecovery (s : State) : State :=
  let s := forEach (upto 18) s fun p s => if (s.fab.port p).up then s.onPort p (Port.push none) else s
  { s with fab := { s.fab with noticed := s.time.toNat } }

/-- The package enters recovery (R454). -/
def State.enterRecovery (s : State) : State :=
  if s.fab.recov then s else State.tellRecovery { s with fab := { s.fab with recov := true } }

/-! ### The order of the requests for a word (R384) -/

/-- What a request at a home slice, or a load, answers. -/
inductive Reply (α : Type)
  | done (v : α)
  | fault (c : MemCause)
  | wait
  deriving DecidableEq, Repr

/-- A forward of the word is outstanding. -/
def State.heldWord (s : State) (w : Nat) : Bool := s.held.any fun h => decide (h.word = w)

/-- A waiting request that still stands: its party still waits, its engine queue still has its head, its entry still
drains. -/
def State.waits (s : State) : Waiter → Bool
  | .party (.gang tk gid q) =>
    if 1000 ≤ gid then
      let t := s.team tk
      let e := t.engine (gid - 1000)
      t.resident && t.failed.isNone && e.halted.isNone && !e.entries.isEmpty && !e.parked.any (·.waiting)
    else decide (s.cur = .gang tk gid q) || (s.ctx (.gang tk gid q)).wait.isSome
  | .party p => decide (s.cur = p) || (s.ctx p).wait.isSome
  | .entry agent seq =>
    if 0x240 ≤ agent then !(s.fab.host (agent - 0x240)).writes.isEmpty
    else (s.cmem agent).ebb.any fun e => decide (e.seq = seq)
  | .message _ => true

/-- The requests that wait for a word, in the order of their arrival. -/
def State.queueOf (s : State) (w : Nat) : List Waiter := (tgetD w [] s.queue).filter s.waits

/-- A word's queue replaced. -/
def State.setQueue (s : State) (w : Nat) (q : List Waiter) : State :=
  { s with queue := if q = [] then tdel w s.queue else tset w q s.queue }

/-- The request stands behind others for one of its words, or behind a forward of one. -/
def State.mustWait (s : State) (r : Waiter) (ws : List Nat) : Bool :=
  ws.any fun w => s.heldWord w || (match s.queueOf w with | x :: _ => decide (x ≠ r) | [] => false)

/-- The request joins the queues of its words, at the end or, when it is the one that a forward is for, at the head. -/
def State.enqueue (s : State) (first : Bool) (r : Waiter) (ws : List Nat) : State :=
  forEach ws s fun w s =>
    let q := s.queueOf w
    if q.contains r then s else s.setQueue w (if first then r :: q else q ++ [r])

/-- The request leaves the queues of its words. -/
def State.dequeue (s : State) (r : Waiter) (ws : List Nat) : State :=
  if s.queue.isEmpty then s else forEach ws s fun w s => s.setQueue w ((s.queueOf w).filter (· ≠ r))

/-- A request for words performed at their home slices when its turn has come; one that needs a forward, a recall or a
revoke holds every later request for them until it is over (R384). -/
def State.atHome {α : Type} (s : State) (r : Waiter) (ws : List Nat) (f : State → State × Reply α) : State × Reply α :=
  if s.mustWait r ws then (s.enqueue false r ws, .wait)
  else match f s with
    | (s', .wait) => (s'.enqueue true r ws, .wait)
    | (s', x) => (s'.dequeue r ws, x)

/-- A request waits at no home slice any more. -/
def State.leaveQueues (s : State) (r : Waiter) : State := s.leaveQueuesOf fun x => decide (x = r)

/-! ### Forwards, recalls and revokes (R389, R391) -/

/-- The full physical address of a word of this package. -/
def State.fullPa (s : State) (w : Nat) : Nat := s.fab.pid.toNat * 2 ^ 44 + w % 2 ^ 44

/-- The state code of a word at its home slice (R387). -/
def State.stateCode (s : State) (w : Nat) : BitVec 2 :=
  match s.wordSt w with
  | some (.open_ _ _ _) => 1
  | some (.closed _ _ _ _) => 2
  | some (.lost _) => 3
  | _ => 0

/-- The words of a message that do not stand in V, with their state codes (R448). -/
def State.statesOf (s : State) (words : List (Nat × Word)) : List (Nat × BitVec 2) :=
  (words.map fun x => (x.1, s.stateCode (x.1 % 2 ^ 44))).filter fun x => decide (x.2 ≠ 0)

/-- A reply to a requester of another package. -/
def State.replyTo (s : State) (o : Owner) (kind : MsgKind) (req w : Nat) (words : List (Nat × Word))
    (cause : Option MemCause := none) : State :=
  if o.pkg = s.fab.pid.toNat then s
  else s.send { kind := kind, to_ := o.pkg, line := s.fullPa w / 64 * 64, words := words, req := req, cause := cause
                states := if kind = .data then s.statesOf words else [] }

/-- The requester of a message, and the number of its request. -/
def HomeMsg.asks : HomeMsg → Owner × Nat
  | .read o _ req => (o, req)
  | .write o _ _ _ req => (o, req)
  | .atomic o _ _ req => (o, req)
  | .host o _ _ => (o, 0)

/-- The tag of a copy that its L1 holds as registered: no acquire names it (R393). -/
def heldRegion : Nat := 64

/-- An owner of this package keeps its copy of a word that becomes lost: it is never told (R453). -/
def State.keepLost (s : State) (w : Nat) (o : Owner) : State :=
  match s.wordSt w with
  | some (.open_ _ asn _) | some (.closed _ asn _ _) =>
    if s.localOwner o then s.onCmem o.agent fun m => { m with l1 := tset w ⟨mword w s.mem, asn, heldRegion⟩ m.l1 } else s
  | _ => s

/-- A word becomes owner-lost, its owner word kept beside the poison (R451). -/
def State.setLost (s : State) (w : Nat) (o : Owner) : State :=
  let s := s.keepLost w o
  { s with
    words := tset w (.lost o) s.words
    l2 := { s.l2 with lost := sat32 (s.l2.lost + 1) }
    held := s.held.filter fun h => decide (h.word ≠ w) }

/-- Every requester of another package that waits for a word is answered with ERR (R451). -/
def State.refuse (s : State) (w : Nat) : State :=
  forEach (s.queueOf w) s fun r s => match r with
    | .message m => (s.leaveQueues r).replyTo m.asks.1 .err m.asks.2 w [(s.fullPa w, 0)] (some causeLost)
    | _ => s

/-- A forward comes to nothing: the word is lost, and every requester that waits learns of it (R451, R456). -/
def State.expire (s : State) (w : Nat) (o : Owner) : State := (s.setLost w o).refuse w

/-- A forward sent to an owner, with the read of another package that it is for (R384, R391); a fenced owner loses the word at
once (R456). -/
def State.forward (s : State) (w : Nat) (o : Owner) (kind : FwdKind) (asks : Option (Nat × Nat) := none) : State :=
  if s.fenced o.pkg then s.expire w o
  else if s.heldWord w then s
  else
    let s := { s with held := s.held ++ [⟨w, o, kind, asks, s.time.toNat + s.fwdLimit, false⟩] }
    let pa := s.fab.pid.toNat * 2 ^ 44 + w
    if o.pkg = s.fab.pid.toNat then s
    else s.send { kind := .fwd, to_ := o.pkg, line := pa / 64 * 64, words := [(pa, 0)], fwd := some kind, asks := asks }

/-- A local owner answers a forward for a read: every word of the line that it holds closed is V, and it keeps clean copies
of them (R391). -/
def State.giveLine (s : State) (o : Owner) (w : Nat) : State :=
  forEach (lineWords w) s fun w s => match s.wordSt w with
    | some (.closed o' asn region _) =>
      if o' = o then
        let c : Copy := ⟨mword w s.mem, asn, region⟩
        (s.makeV w).onCmem o.agent fun m => { m with l1 := tset w c m.l1 }
      else s
    | _ => s

/-- Counters of owners' agents raised for words that an atomic of theirs registered and that one access takes from them: each
counter once (R413). -/
def State.bumpAll (s : State) (xs : List (Nat × Nat)) : State :=
  let keys := xs.foldl (fun ks x => if ks.any fun y => decide (y.1 = x.1) && decide (predIndex y.2 = predIndex x.2) then ks else ks ++ [x]) []
  forEach keys s fun x s => s.bumpPredictor x.1 x.2

/-- Local owners' copies revoked or recalled by one access: the words are V (R389, R413). -/
def State.revoke (s : State) (ws : List Nat) : State :=
  let hit := ws.filterMap fun w => match s.wordSt w with
    | some (.closed o _ _ at_) => some (w, o, at_)
    | _ => none
  let s := s.bumpAll ((hit.filter (·.2.2)).map fun x => (x.2.1.agent, x.1))
  forEach hit s fun x s => (s.makeV x.1).dropL1 x.2.1.agent x.1

/-- A word that a read of an owner finds at its home slice; a forward that it needs goes out with the read that the owner
answers as well (R389, R391). -/
def State.homeRead (s : State) (o : Owner) (w : Nat) (asks : Option (Nat × Nat) := none) : State × Reply Word :=
  if s.contained w then (s, .wait)
  else match s.wordSt w with
  | none | some .valid => if s.poisoned w then (s, .fault causePoison) else (s, .done (mword w s.mem))
  | some (.open_ o' _ _) => if s.sameOwner o' o then (s, .done (mword w s.mem)) else (s, .fault (causeRace o' w))
  | some (.closed o' _ _ _) =>
    if s.sameOwner o' o then (s, .done (mword w s.mem))
    else if s.localOwner o' && !s.slow then
      let s := s.giveLine o' w
      (s, .done (mword w s.mem))
    else
      let s := s.forward w o' .forward asks
      (s, if s.isLost w then .fault causeLost else .wait)
  | some (.lost _) => (s, .fault causeLost)

/-- What stands in the way of a write of an owner to a word (R389): nothing; another's copy, which must come back first; or
a cause. -/
def State.homeBlock (s : State) (o : Owner) (w : Nat) : Reply (Option Owner) :=
  if s.contained w then .wait
  else match s.wordSt w with
  | none | some .valid => .done none
  | some (.open_ o' _ _) => if s.sameOwner o' o then .done none else .fault (causeRace o' w)
  | some (.closed o' _ _ _) => .done (if s.sameOwner o' o then none else some o')
  | some (.lost _) => .fault causeLost

/-- Words made ready for a write by an owner, all that can be: another's registration is revoked, or recalled where its data is
needed (R389). A word that raced or is lost answers its cause. -/
def State.homeClaim (s : State) (o : Owner) (ws : List Nat) (kind : Nat → FwdKind) : State × Reply (Table Nat MemCause) :=
  let away (s : State) (w : Nat) : Bool := match s.homeBlock o w with
    | .done (some o') => !s.localOwner o' || s.slow
    | _ => false
  let s := forEach (ws.filter (away s)) s fun w s => match s.homeBlock o w with
    | .done (some o') => s.forward w o' (kind w)
    | _ => s
  let s := s.revoke (ws.filter fun w => match s.homeBlock o w with
    | .done (some o') => s.localOwner o' && !s.slow
    | _ => false)
  if ws.any fun w => s.heldWord w || s.contained w then (s, .wait)
  else (s, .done (ws.filterMap fun w => match s.homeBlock o w with
    | .fault c => some (w, c)
    | _ => none))

/-! ### Requests to the homes of other packages (R449, R452) -/

/-- The package of a full physical address (R443). -/
def pkgOf (pa : Nat) : Nat := pa / 2 ^ 44 % 4096

/-- The request of an access for words of another package. -/
def State.requestOf (s : State) (r : Waiter) (kind : MsgKind) (ws : List Nat) : Option Request :=
  s.fab.requests.find? fun x => decide (x.for_ = r) && decide (x.kind = kind) && ws.all x.words.contains

/-- The requests of an access dropped. -/
def State.dropRequests (s : State) (r : Waiter) : State := s.dropRequestsOf fun x => decide (x = r)

/-- A request sent to another package's home and timed (R452); a fenced package answers with an error at once (R456). -/
def State.request (s : State) (a : Asker) (pkg : Nat) (kind : MsgKind) (ws : List Nat) (m : Msg) : State :=
  let line := (ws.head?.getD 0) / 64 * 64
  let r : Request :=
    { id := s.nextId, kind := kind, for_ := a.who, owner := a.owner, line := line, words := ws
      deadline := s.time.toNat + s.fwdLimit, extended := false, answer := none
      failed := if s.fenced pkg then some causeLost else none
      strong := m.strong, asn := a.asn, region := a.region }
  let s := { s with nextId := s.nextId + 1, fab := { s.fab with requests := s.fab.requests ++ [r] } }
  if r.failed.isSome then s
  else s.send { m with kind := kind, to_ := pkg, line := line, owner := a.owner.bits, req := r.id }

/-- What a request has brought: the words once all of them are here, or its cause. -/
def Request.result (r : Request) : Reply (Table Nat Word) :=
  match r.failed, r.answer with
  | some c, _ => .fault c
  | none, some t => if r.words.all fun w => (tget w t).isSome then .done t else .wait
  | none, none => .wait

/-- The answer to a request, which is sent if it has not been; it stands until its access is over. -/
def State.ask (s : State) (a : Asker) (pkg : Nat) (kind : MsgKind) (ws : List Nat) (m : Msg) : State × Reply (Table Nat Word) :=
  match s.requestOf a.who kind ws with
  | some r => (s, r.result)
  | none =>
    let s := s.request a pkg kind ws m
    (s, if s.fenced pkg then .fault causeLost else .wait)

/-- The message of a request for words, with no more in it. -/
def plainMsg (ws : List Nat) : Msg := { kind := .read, to_ := 0, line := 0, words := ws.map fun w => (w, 0) }

/-- The word of another package that the owner holds registered (R449). -/
def State.ownGuest (s : State) (o : Owner) (w : Nat) : Option GuestReg :=
  match tget w s.guestRegs with
  | some g => if s.sameOwner g.owner o then some g else none
  | none => none

/-- Clean copies of another package's line placed in an L1 (R388). -/
def State.fillFar (s : State) (a : Asker) (w : Nat) : State :=
  let cs := (s.guest.filter (inLine w)).map fun x => (farKey x.1, ({ x.2 with asn := a.asn, region := a.region } : Copy))
  s.fillRoom a.agent (farKey w) cs

/-- The copies that stand for words in a table, when it holds every one of them. -/
def copiesOf (t : Table Nat Copy) (ok : Copy → Bool) (key : Nat → Nat) (ws : List Nat) : Option (Table Nat Word) :=
  let cs := ws.filterMap fun w => (tget (key w) t).bind fun c => if ok c then some (w, c.val) else none
  if cs.length = ws.length then some cs else none

/-- Words of one line of another package read together: the reader's L1, a guest line, or a request. A guest line is one
fill: the words of an earlier one leave it, and it holds those alone that its home gave in V (R155, R449). -/
def State.remoteRead (s : State) (a : Asker) (pkg : Nat) (l1 : Bool) (ws : List Nat) : State × Reply (Table Nat Word) :=
  match (if l1 then copiesOf (s.cmem a.agent).l1 (fun c => decide (c.asn = a.asn)) farKey ws else none) with
  | some t => (s, .done t)
  | none => match copiesOf s.guest (fun _ => true) id ws with
    | some t => (if l1 then s.fillFar a (ws.headD 0) else s, .done t)
    | none => match s.ask a pkg .read ws (plainMsg ws) with
      | (s', .done t) =>
        let w := ws.headD 0
        let other := match s'.requestOf a.who .read ws with | some r => r.registered | none => []
        let clean := t.filter fun x => !other.contains x.1
        let g := clean.foldl (fun g x => tset x.1 ⟨x.2, a.asn, a.region⟩ g) (s'.guest.filter fun x => !inLine w x)
        let s := { s' with guest := g }
        (if l1 then s.fillFar a w else s, .done t)
      | r => r

end Sys2Proof.Machine
end

