-- ==== Sys2Proof/Machine/Memory.lean ====
section
/-! DEFINITION. The memory system as parties use it: reads, data and strong writes, atomics, acquire and release, the ebb
queue (12_cluster.md R311-R317, 15_package_memory_model.md R388-R413). -/
namespace Sys2Proof.Machine

/-! ### Reads -/

/-- A word of host memory read as the host holds it now; nothing keeps a copy (R397). -/
def State.hostRead (s : State) (w : Nat) : State × Word :=
  ({ s with nonce := s.nonce + 1 }, Config.hostWord s.nonce w)

/-- Bytes sent to host memory through the host bridge; nothing is registered (R397). -/
def State.hostStore (s : State) (bs : List (Nat × BitVec 8)) : State :=
  { s with fab := { s.fab with hostSent := bs.reverse ++ s.fab.hostSent } }

/-- The word is registered to the owner at its home slice here. -/
def State.ownsWord (s : State) (o : Owner) (w : Nat) : Bool :=
  match s.wordSt w with
  | some x => x.owner?.any fun o' => s.sameOwner o' o
  | none => false

/-- The copies of words that an asker may read without their home slice, all from one place: its core's L1, in lines that
its address space filled (R393). -/
def State.inL1 (s : State) (a : Asker) (ws : List Nat) : Option (Table Nat Word) :=
  copiesOf (s.cmem a.agent).l1 (fun c => decide (c.asn = a.asn)) id ws

/-- The copies of words in the near cache of an asker's die (R377). -/
def State.inNear (s : State) (a : Asker) (ws : List Nat) : Option (Table Nat Word) :=
  (nearDie a.agent).bind fun d => copiesOf (s.die d).near (fun _ => true) id ws

/-- A near-cache line enters the reader's L1 in place of what that holds of it: a later read finds no older copy there (R399). -/
def State.fillFromNear (s : State) (a : Asker) (w : Nat) : State :=
  match nearDie a.agent with
  | some d => s.fillRoom a.agent w (((s.die d).near.filter (inLine w)).map fun x =>
      (x.1, ({ x.2 with asn := a.asn, region := a.region } : Copy)))
  | none => s

/-- The cause that stands first in R149's order; it tells the races among all of them (R405). -/
def firstCause (cs : List MemCause) : Option MemCause :=
  (leastBy (·.rank) cs).map fun c => { c with races := cs.foldl (fun n x => n + x.races) 0 }

/-- Answers put together: one still out holds the others back, then a cause, then the values. -/
def gather (rs : List (Nat × Reply Word)) : Reply (Table Nat Word) :=
  if rs.any fun x => decide (x.2 = .wait) then .wait
  else match firstCause (rs.filterMap fun x => match x.2 with | .fault c => some c | _ => none) with
    | some c => .fault c
    | none => .done (rs.filterMap fun x => match x.2 with | .done v => some (x.1, v) | _ => none)

/-- Words of this package read together at their home slice (R384, R389). -/
def State.homeReads (s : State) (a : Asker) (ws : List Nat) : State × Reply (Table Nat Word) :=
  s.atHome a.who ws fun s =>
    let r := ws.foldl (fun (acc : State × List (Nat × Reply Word)) w =>
      let x := acc.1.homeRead a.owner w
      (x.1, acc.2 ++ [(w, x.2)])) (s, [])
    (r.1, gather r.2)

/-- The words of one access to this package's memory: those that its owner holds from its L1, the others all from one
place, so that no reader mixes two writes (R155, R388, R389). With `l1` off no L1 and no near cache serves (R322). -/
def State.readLocal (s : State) (a : Asker) (l1 : Bool) (ws : List Nat) : State × Reply (Table Nat Word) :=
  let own := if l1 then ws.filter (s.ownsWord a.owner) else []
  let rest := ws.filter fun w => !own.contains w
  let mine : Table Nat Word := own.map fun w => (w, mword w s.mem)
  match rest with
  | [] => (s, .done mine)
  | w :: _ => match (if l1 then s.inL1 a rest else none) with
    | some t => (s, .done (mine ++ t))
    | none => match (if l1 then s.inNear a rest else none) with
      | some t => (s.fillFromNear a w, .done (mine ++ t))
      | none => match s.homeReads a rest with
        | (s', .done t) => (if l1 then s'.fillCaches a.agent w a.asn a.region else s', .done (mine ++ t))
        | r => r

/-- The words of one access to another package's memory (R449). -/
def State.readFar (s : State) (a : Asker) (l1 : Bool) (pkg : Nat) (ws : List Nat) : State × Reply (Table Nat Word) :=
  let mine : Table Nat Word := ws.filterMap fun w => (s.ownGuest a.owner w).map fun g => (w, g.val)
  match ws.filter fun w => (s.ownGuest a.owner w).isNone with
  | [] => (s, .done mine)
  | rest => match s.remoteRead a pkg l1 rest with
    | (s', .done t) => (s', .done (mine ++ t))
    | r => r

/-- The words that one access reads, by full physical address. -/
def State.readUnit (s : State) (a : Asker) (l1 : Bool) (ws : List Nat) : State × Reply (Table Nat Word) :=
  match ws with
  | [] => (s, .done [])
  | w :: _ => match s.target w with
    | .mem => match s.readLocal a l1 (ws.map (· % 2 ^ 44)) with
      | (s', .done t) => (s', .done (t.map fun x => (w / 2 ^ 44 * 2 ^ 44 + x.1, x.2)))
      | r => r
    | .remote pkg => s.readFar a l1 pkg ws
    | .host _ =>
      let r := ws.foldl (fun (acc : State × Table Nat Word) w =>
        let x := acc.1.hostRead w
        (x.1, acc.2 ++ [(w, x.2)])) (s, [])
      (r.1, .done r.2)
    | _ => (s, .done (ws.map fun w => (w, 0)))

/-- The streams whose undrained stores a lane's load is served from (R154, R394). -/
def State.loadStreams (s : State) (p : Party) (r : ThreadRef) : List StreamId :=
  match r with
  | .helper c f =>
    let h := s.helper c f
    [.helper c f, .group h.tk (s.thread (.compute h.tk h.tid)).gid]
  | _ => s.streamIds p [r]

/-- The youngest undrained store to a byte in the given streams, or of the loading thread itself under a former group. -/
def forwardByte (es : List EbbEntry) (ids : List StreamId) (r : ThreadRef) (pa : Nat) : Option (BitVec 8) :=
  es.foldl (fun acc e =>
    match e.kind with
    | .store bs _ => bs.foldl (fun acc b =>
        if b.pa = pa ∧ (ids.contains e.stream = true ∨ b.ref = r) then some b.val else acc) acc
    | .atoms _ => acc) none

/-- An undrained ATOM or RED of the streams, or of the thread itself under a former group, touches a byte range (R411). -/
def atomPending (es : List EbbEntry) (ids : List StreamId) (r : ThreadRef) (pa n : Nat) : Bool :=
  es.any fun e => match e.kind with
    | .atoms ps => ps.any fun a => (ids.contains e.stream || decide (a.ref = r)) && decide (a.pa / 4 * 4 < pa + n)
        && decide (pa < a.pa + (if a.wide then 8 else 4))
    | .store _ _ => false

/-- The words that a list of byte addresses lies in, ascending, each once. -/
def wordsTouched (pas : List Nat) : List Nat :=
  pas.foldl (fun ws a => let w := a / 4 * 4; if ws.contains w then ws else ws ++ [w]) []

/-- A byte of words that were read. -/
def byteIn (t : Table Nat Word) (pa : Nat) : BitVec 8 := (tgetD (pa / 4 * 4) 0 t).extractLsb' (8 * (pa % 4)) 8

/-- One lane's load (R152, R154, R155): bytes of the streams' own undrained stores, the rest from the memory system or from
a register. -/
def State.loadPart (s : State) (p : Party) (x : LoadPart) : State × Reply Nat :=
  let es := (s.cmem (s.agentOf p)).ebb
  let ids := s.loadStreams p x.ref
  let pas := (upto x.size).map (x.pa + ·)
  let ahead (a : Nat) : Option (BitVec 8) := forwardByte es ids x.ref a
  if atomPending es ids x.ref x.pa x.size then (s, .wait)
  else match s.target x.pa with
    | .notify _ => (s, .done 0)
    | .regs => (s, .done (bytesNat (pas.map fun a => (ahead a).getD (s.regByte (a % 2 ^ 44)))))
    | _ => match s.readUnit (s.asker p x.va) true (wordsTouched (pas.filter fun a => (ahead a).isNone)) with
      | (s', .done t) => (s', .done (bytesNat (pas.map fun a => (ahead a).getD (byteIn t a))))
      | (s', .fault c) => (s', .fault c)
      | (s', .wait) => (s', .wait)

/-- The loads of all lanes, in lane order. -/
def State.loadAll (s : State) (p : Party) : List LoadPart → State × List (LoadPart × Reply Nat)
  | [] => (s, [])
  | x :: xs =>
    let r := s.loadPart p x
    let rest := State.loadAll r.1 p xs
    (rest.1, (x, r.2) :: rest.2)

/-! ### Writes -/

/-- Bytes of one word merged into memory. -/
def State.mergeBytes (s : State) (bs : List (Nat × BitVec 8)) : State :=
  { s with mem := bs.foldl (fun m b => mset b.1 b.2 m) s.mem }

/-- Poison replaced by a write of all 4 bytes (R435). -/
def State.healWord (s : State) (w : Nat) : State := { s with poison := s.poison.filter (· ≠ w) }

/-- The bytes cover the word. -/
def fullWord (w : Nat) (bs : List (Nat × BitVec 8)) : Bool := (upto 4).all fun i => bs.any fun b => decide (b.1 = w + i)

/-- The bytes of a word. -/
def bytesIn (w : Nat) (bs : List (Nat × BitVec 8)) : List (Nat × BitVec 8) := bs.filter fun b => decide (b.1 / 4 * 4 = w)

/-- A registration made at the home slice (R389). -/
def registered (old : Option WordSt) (o : Owner) (asn region : Nat) (strong : Bool) : WordSt :=
  match old with
  | some (.open_ o' a r) => .open_ o' a r
  | some (.closed o' a r at_) => if strong then .closed o' a r at_ else .open_ o' a r
  | _ => if strong then .closed o asn region false else .open_ o asn region

/-- A word that is ready for its writer written and registered (R389). -/
def State.storeWord (s : State) (a : Asker) (strong : Bool) (w : Nat) (bs : List (Nat × BitVec 8)) : State :=
  let s := ((s.mergeBytes bs).healWord w).dropOwn a w
  let s := { s with words := tset w (registered (s.wordSt w) a.owner a.asn a.region strong) s.words }
  s.writeThrough a.agent w

/-- A write of fewer than 4 bytes would need the data of a poisoned word (R389, R435). -/
def State.partPoison (s : State) (w : Nat) (bs : List (Nat × BitVec 8)) : Bool :=
  (s.wordSt w).isNone && s.poisoned w && !fullWord w bs

/-- What a write asks of another owner's copy: its data as well, unless it writes the whole word (R389). -/
def claimKind (full : Bool) : FwdKind := if full then .revoke else .recall

/-- The words of a write to this package's memory made ready, together: those that are refused, with their causes (R389,
R390). -/
def State.readyLocal (s : State) (a : Asker) (bs : List (Nat × BitVec 8)) : State × Reply (Table Nat MemCause) :=
  let ws := wordsTouched (bs.map (·.1))
  s.atHome a.who ws fun s =>
    let dry := ws.filter fun w => s.partPoison w (bytesIn w bs)
    if ws.any s.contained then (s, .wait)
    else match s.homeClaim a.owner (ws.filter fun w => !dry.contains w) fun w => claimKind (fullWord w (bytesIn w bs)) with
      | (s', .done bad) => (s', .done (dry.map (fun w => (w, causePoison)) ++ bad))
      | r => r

/-- The words of a data or strong write to this package's memory, together (R155, R389, R390): those that are refused, with
their causes, are not performed; the others are. -/
def State.storeLocal (s : State) (a : Asker) (strong : Bool) (bs : List (Nat × BitVec 8)) :
    State × Reply (Table Nat MemCause) :=
  match s.readyLocal a bs with
  | (s', .done bad) =>
    let ws := (wordsTouched (bs.map (·.1))).filter fun w => (tget w bad).isNone
    (forEach ws s' fun w s => s.storeWord a strong w (bytesIn w bs), .done bad)
  | r => r

/-- A word with bytes merged in. -/
def mergeWord (v : Word) (bs : List (Nat × BitVec 8)) : Word :=
  bs.foldl (fun v b =>
    let sh : Nat := 8 * (b.1 % 4)
    let x : Word := b.2.zeroExtend 32
    let hole : Word := 0xFF
    (v &&& ~~~(hole <<< sh)) ||| (x <<< sh)) v

/-- A registration of this package on another package's word; the guest copy and the writer's clean copy go (R449). -/
def State.putGuest (s : State) (a : Asker) (w : Nat) (v : Word) (isOpen : Bool) (atom : Bool := false) : State :=
  let s := { s with guest := tdel w s.guest, guestRegs := tset w ⟨v, a.owner, isOpen, a.asn, a.region, atom, false⟩ s.guestRegs }
  s.dropOwn a (farKey w)

/-- A request of an access that has been served. -/
def State.dropServed (s : State) (r : Waiter) (kind : MsgKind) (ws : List Nat) : State :=
  match s.requestOf r kind ws with
  | some x => { s with fab := { s.fab with requests := s.fab.requests.filter fun y => decide (y.id ≠ x.id) } }
  | none => s

/-- The registrations that a write needs at another package's home, asked for word by word; their answers, once all are
here: each word's data, or its cause (R389, R449). -/
def State.askWords (s : State) (a : Asker) (m : Nat → Msg) (ws : List Nat) :
    State × Option (List (Nat × Reply (Table Nat Word))) :=
  let r := ws.foldl (fun (acc : State × List (Nat × Reply (Table Nat Word))) w =>
    let x := acc.1.ask a (pkgOf w) .write [w] (m w)
    (x.1, acc.2 ++ [(w, x.2)])) (s, [])
  if r.2.any fun x => decide (x.2 = .wait) then (r.1, none)
  else (forEach ws r.1 fun w s => s.dropServed a.who .write [w], some r.2)

/-- What homes answered to the registrations of a write. -/
abbrev FarAnswers := List (Nat × Reply (Table Nat Word))

/-- The cause that a home answered with for a word. -/
def farCause (rs : FarAnswers) (w : Nat) : Option MemCause := match tget w rs with | some (.fault c) => some c | _ => none

/-- The words of a write to other packages' memory made ready, together: a word that the owner holds in the state that the
write leaves is ready, any other leaves its guest line and registers at its home, which answers with its data (R389, R449). -/
def State.readyFar (s : State) (a : Asker) (strong : Bool) (bs : List (Nat × BitVec 8)) : State × Option FarAnswers :=
  let held (w : Nat) : Bool := (s.ownGuest a.owner w).any fun g => g.isOpen || strong
  let msg (w : Nat) : Msg := { plainMsg [w] with strong := strong, full := fullWord w (bytesIn w bs) }
  let ws := (wordsTouched (bs.map (·.1))).filter fun w => !held w
  { s with guest := s.guest.filter fun x => !ws.contains x.1 }.askWords a msg ws

/-- A word of another package that is ready for its writer written in its registration here (R449). -/
def State.storeGuest (s : State) (a : Asker) (strong : Bool) (rs : FarAnswers) (w : Nat) (bs : List (Nat × BitVec 8)) : State :=
  let own := s.ownGuest a.owner w
  let old : Word := match own, tget w rs with
    | some g, _ => g.val
    | none, some (.done t) => tgetD w 0 t
    | none, _ => 0
  s.putGuest a w (mergeWord old bs) (!strong || own.any (·.isOpen)) (own.any (·.atom))

/-- The words of a data or strong write to another package's memory, together (R389, R449). -/
def State.storeFar (s : State) (a : Asker) (strong : Bool) (bs : List (Nat × BitVec 8)) : State × Reply (Table Nat MemCause) :=
  match s.readyFar a strong bs with
  | (s', none) => (s', .wait)
  | (s', some rs) =>
    let ws := wordsTouched (bs.map (·.1))
    (forEach (ws.filter fun w => (farCause rs w).isNone) s' fun w s => s.storeGuest a strong rs w (bytesIn w bs),
      .done (ws.filterMap fun w => (farCause rs w).map fun c => (w, c)))

/-- The words of one write, by full physical address: the causes of those that are not performed. -/
def State.storeUnit (s : State) (a : Asker) (strong : Bool) (bs : List (Nat × BitVec 8)) :
    State × Reply (Table Nat MemCause) :=
  match bs with
  | [] => (s, .done [])
  | b :: _ => match s.target b.1 with
    | .mem => match s.storeLocal a strong (bs.map fun x => (x.1 % 2 ^ 44, x.2)) with
      | (s', .done t) => (s', .done (t.map fun x => (b.1 / 2 ^ 44 * 2 ^ 44 + x.1, x.2)))
      | r => r
    | .remote _ => s.storeFar a strong bs
    | .host _ => (s.hostStore (bs.map fun x => (x.1 % 2 ^ 44, x.2)), .done [])
    | _ => (s, .done [])

/-! ### Atomics (R259, R410-R413) -/

/-- The new value of an atomic function (R259, R260). -/
def atomNew (fn : AtomFn) {w : Nat} (f : Format) (old b cmp : BitVec w) : BitVec w :=
  match fn with
  | .swp => b
  | .cas => if old = cmp then b else old
  | .add => old + b
  | .and => old &&& b
  | .or => old ||| b
  | .xor => old ^^^ b
  | .min => if old.slt b then old else b
  | .max => if old.slt b then b else old
  | .minN => if old.ult b then old else b
  | .maxN => if old.ult b then b else old
  | .fadd => BitVec.ofNat w (fadd f .rn old.toNat b.toNat).bits
  | .inc => if b.ule old then 0 else old + 1
  | .dec => if old = 0 ∨ b.ult old then b else old - 1

/-- An atomic function at its width. -/
def atomValue (fn : AtomFn) (wide : Bool) (old b cmp : DWord) : DWord :=
  if wide then atomNew fn fmt64 old b cmp
  else (atomNew fn fmt32 (old.extractLsb' 0 32) (b.extractLsb' 0 32) (cmp.extractLsb' 0 32)).zeroExtend 64

/-- The words of an atomic. -/
def atomWords (pa : Nat) (wide : Bool) : List Nat := if wide then [pa, pa + 4] else [pa]

/-- The value of a word or pair in memory. -/
def State.memValue (s : State) (pa : Nat) (wide : Bool) : DWord :=
  BitVec.ofNat 64 (bytesNat (mgets pa (if wide then 8 else 4) s.mem))

/-- The cause that an atomic meets on words of this package, that which stands first (R389, R390, R435). -/
def State.atomCause (s : State) (o : Owner) (ws : List Nat) : Option MemCause :=
  firstCause (ws.filterMap fun w =>
    if (s.wordSt w).isNone && s.poisoned w then some causePoison
    else match s.homeBlock o w with
      | .fault c => some c
      | _ => none)

/-- The words of an atomic made ready: another's registration recalled or revoked (R384, R389). -/
def State.readyAtom (s : State) (a : Asker) (ws : List Nat) : State × Reply Unit :=
  s.atHome a.who ws fun s => if ws.any s.contained then (s, .wait) else match s.atomCause a.owner ws with
    | some c => (s, .fault c)
    | none => match s.homeClaim a.owner ws fun _ => .recall with
      | (s', .done bad) => (s', match firstCause (bad.map (·.2)) with | some c => .fault c | none => .done ())
      | (s', .fault c) => (s', .fault c)
      | (s', .wait) => (s', .wait)

/-- The registration that an atomic performed in the L1 leaves (R389, R413). -/
def State.claimL1 (s : State) (a : Asker) (w : Nat) : State :=
  match s.wordSt w with
  | some (.open_ _ _ _) => s
  | some (.closed _ _ _ _) => s
  | _ => { s with words := tset w (.closed a.owner a.asn a.region true) s.words }

/-- The one indivisible step of an atomic on words of this package: the old value (R411). -/
def State.applyAtom (s : State) (pa : Nat) (x : MsgAtom) : State × DWord :=
  let old := s.memValue pa x.wide
  let new := atomValue x.fn x.wide old x.operand x.cmp
  ({ s with mem := msets pa (natBytes (if x.wide then 8 else 4) new.toNat) s.mem }, old)

/-- An atomic of an agent of this package performed on words that are ready for it: the old value (R411). At the home slice
the performer's own registration is written back as well (R389, R413). -/
def State.performAtom (s : State) (a : Asker) (home : Bool) (pa : Nat) (x : MsgAtom) : State × DWord :=
  let ws := atomWords pa x.wide
  let r := (forEach ws s fun w s => if home then s.makeV w else s.claimL1 a w).applyAtom pa x
  (forEach ws r.1 fun w s => (s.dropOwn a w).writeThrough a.agent w, r.2)

/-- Counter lowered when an atomic finds its words registered to its own core (R413). -/
def State.lowerPredictor (s : State) (agent w : Nat) : State :=
  s.onCmem agent fun m =>
    { m with predictor := tset (predIndex w) (tgetD (predIndex w) 0 m.predictor - 1) m.predictor }

/-- The counter of an address has the atomic performed at the home slice (R413). -/
def State.atSlice (s : State) (agent pa : Nat) : Bool := decide (2 ≤ tgetD (predIndex pa) 0 (s.cmem agent).predictor)

/-- An atomic on words of this package that are ready for it, where the predictor has it performed, with the counter's own
change (R413). -/
def State.placedAtom (s : State) (a : Asker) (pa : Nat) (x : MsgAtom) : State × DWord :=
  if s.atSlice a.agent pa then s.performAtom a true pa x
  else if (atomWords pa x.wide).all (s.ownsWord a.owner) then (s.lowerPredictor a.agent pa).performAtom a false pa x
  else s.performAtom a false pa x

/-- A word or pair read from registers' or words' values, the lower word first. -/
def joinWords (v : Nat → Word) (pa : Nat) (wide : Bool) : DWord :=
  if wide then v (pa + 4) ++ v pa else (v pa).zeroExtend 64

/-- An atomic performed in the owner's L1 on words of another package that it holds registered (R411, R449). -/
def State.guestAtom (s : State) (pa : Nat) (x : MsgAtom) : State × DWord :=
  let val (w : Nat) : Word := match tget w s.guestRegs with | some g => g.val | none => 0
  let old := joinWords val pa x.wide
  let new := atomValue x.fn x.wide old x.operand x.cmp
  (forEach (atomWords pa x.wide) s fun w s =>
    { s with guestRegs := tmap (fun k g => if k = w then { g with val := new.extractLsb' (8 * (w - pa)) 32, fresh := false } else g) s.guestRegs },
    old)

/-- A registration on another package's word written back to its home (R388). -/
def State.backGuest (s : State) (w : Nat) : State :=
  match tget w s.guestRegs with
  | some g => { s with guestRegs := tdel w s.guestRegs }.send
      { kind := .wback, to_ := w / 2 ^ 44, line := w / 64 * 64, words := [(w, g.val)], owner := g.owner.bits }
  | none => s

/-- An atomic performed at another package's home slice: the performer's own registration goes back first; its copies go
with the operation (R389, R399, R411). -/
def State.sliceAtom (s : State) (a : Asker) (pkg pa : Nat) (x : MsgAtom) : State × Reply DWord :=
  let ws := atomWords pa x.wide
  let s := forEach ws s fun w s => if (s.ownGuest a.owner w).isSome then s.backGuest w else s
  match s.ask a pkg .atomic ws { plainMsg ws with atom := some x } with
  | (s', .done t) =>
    let s := s'.dropServed a.who .atomic ws
    (forEach ws s fun w s => { s with guest := tdel w s.guest }.dropOwn a (farKey w),
      .done (joinWords (fun w => tgetD w 0 t) pa x.wide))
  | (s', .fault c) => (s'.dropServed a.who .atomic ws, .fault c)
  | (s', .wait) => (s', .wait)

/-- The words of an atomic registered at another package's home, as a strong write registers them (R389, R413, R449). -/
def State.readyGuest (s : State) (a : Asker) (ws : List Nat) : State × Reply Unit :=
  let s := { s with guest := s.guest.filter fun x => !ws.contains x.1 }
  match s.askWords a (fun w => { plainMsg [w] with strong := true, full := false })
      (ws.filter fun w => (s.ownGuest a.owner w).isNone || (s.requestOf a.who .write [w]).isSome) with
  | (s', none) => (s', .wait)
  | (s', some rs) => match firstCause (rs.filterMap fun y => match y.2 with | .fault c => some c | _ => none) with
    | some c => (s', .fault c)
    | none => (forEach rs s' fun y s => match y.2 with
        | .done t => 
          let own := s.ownGuest a.owner y.1
          let s := s.putGuest a y.1 ((own.map (·.val)).getD (tgetD y.1 0 t)) (own.any (·.isOpen)) true
          { s with guestRegs := tmap (fun k g => if k = y.1 then { g with fresh := true } else g) s.guestRegs }
        | _ => s, .done ())

/-- An atomic on words of another package. One that the predictor has performed in the L1 registers the words at their home
first, as a strong write; a RED goes to the home slice (R413). What it has begun, it goes on with. -/
def State.farAtom (s : State) (a : Asker) (pkg pa : Nat) (returns : Bool) (x : MsgAtom) : State × Reply DWord :=
  let ws := atomWords pa x.wide
  let own (s : State) : Bool := ws.all fun w => (s.ownGuest a.owner w).isSome
  let asked := ws.any fun w => (s.requestOf a.who .write [w]).isSome
  if !returns || (s.requestOf a.who .atomic ws).isSome || (s.atSlice a.agent pa && !asked) then s.sliceAtom a pkg pa x
  else if own s && !asked then
    let r := (s.lowerPredictor a.agent pa).guestAtom pa x
    (r.1, .done r.2)
  else match s.readyGuest a ws with
    | (s', .done _) =>
      let r := s'.guestAtom pa x
      (r.1, .done r.2)
    | (s', .fault c) => (s', .fault c)
    | (s', .wait) => (s', .wait)

/-! ### Deferred causes (R181, R390) -/

/-- The groups that threads stand in now, each once. -/
def State.gidsOf (s : State) (refs : List ThreadRef) : List Nat :=
  refs.foldl (fun gs r => let g := (s.thread r).gid; if gs.contains g then gs else gs ++ [g]) []

/-- A cause held with the groups that its threads stand in now; with the team while they stand in a tidepool (R181). -/
def State.holdCause (s : State) (tk : Nat) (refs : List ThreadRef) (d : Deferred) : State :=
  forEach (s.gidsOf refs) s fun gid s =>
    let x := { d with refs := refs.filter fun r => decide ((s.thread r).gid = gid) }
    if gid = noGid then s.onTeam tk fun t => { t with poolDeferred := t.poolDeferred ++ [x] }
    else s.onGroup tk gid fun g => { g with deferred := g.deferred ++ [x] }

/-- A cause reported for a word of a store or a non-returning atomic after its instruction retired: held with its party.
A team whose thread has exited fails (R181). -/
def State.defer (s : State) (id : StreamId) (refs : List ThreadRef) (va : Nat) (c : MemCause) : State :=
  let s := s.countRaces [c]
  let d : Deferred := ⟨c.cause, va / 4 * 4, refs, c.aux⟩
  let poison (tk : Nat) : Bool := decide ((s.team tk).launch.grd ≠ 0) && decide (c.cause = 0x09)
  match id with
  | .group tk _ =>
    if poison tk then s.consumePoison tk
    else if refs.any fun r => !(s.thread r).live then s.failTeam tk c.cause
    else s.holdCause tk refs d
  | .headland tk =>
    if poison tk then s.consumePoison tk
    else if (s.team tk).hEnded then s.failTeam tk c.cause
    else s.onTeam tk fun t => { t with hDeferred := t.hDeferred ++ [d] }
  | .service n => s.onService n fun v => { v with deferred := v.deferred ++ [d] }
  | .helper _ _ => s

/-- The threads whose stores or atomics an entry holds (R311). -/
def EbbEntry.refs (e : EbbEntry) : List ThreadRef :=
  match e.kind with
  | .store bs _ => bs.map (·.ref)
  | .atoms xs => xs.map (·.ref)

/-! ### Release and acquire (R394, R396) -/

/-- The sequence number below which every entry entered so far stands. -/
def State.mark (s : State) : Nat := s.nextId

/-- A helper's entry that waits for its HDONE (R209). -/
def EbbEntry.helperHeld (e : EbbEntry) : Bool := e.held && (match e.stream with | .helper _ _ => true | _ => false)

/-- Entries of the streams, or of the threads under a former group, numbered below a mark that have not drained. -/
def State.undrained (s : State) (agents : List Nat) (ids : List StreamId) (refs : List ThreadRef) (mark : Nat) : Bool :=
  agents.any fun a => (s.cmem a).ebb.any fun e =>
    decide (e.seq < mark) && (ids.contains e.stream || e.refs.any refs.contains)

/-- The agents in whose ebb queues a party's entries stand. -/
def State.agentsOf (s : State) (p : Party) : List Nat :=
  match s.teamOf p with
  | some tk => (s.team tk).cores
  | none => [s.agentOf p]

/-- The streams that a party's release waits for. -/
def State.partyStreams (s : State) (p : Party) : List StreamId := s.streamIds p ((s.lanes p).map (·.ref))

/-- The threads of a party: of a gang, those of its whole group. -/
def State.partyRefs (s : State) (p : Party) : List ThreadRef :=
  match p with
  | .gang tk gid _ => s.threads.filterMap fun x => match x.1 with
      | .compute k _ => if k = tk ∧ x.2.gid = gid then some x.1 else none
      | _ => none
  | _ => (s.lanes p).map (·.ref)

/-- The party's older entries have not all drained. Those of a helper, which are held until HDONE, are no part of its
recruiter's stream before that, and its own releases at die scope or wider trap (R209, R396, notes/assumptions/17.md). -/
def State.partyUndrained (s : State) (p : Party) (mark : Nat) : Bool :=
  decide (streamOf p ≠ .helper) && s.undrained (s.agentsOf p) (s.partyStreams p) (s.partyRefs p) mark

/-- The asker of a CLOSE that is for no party's release: of an early close, or of a team that has ended. -/
def noWaiter : Waiter := .entry 0xFFF 0

/-- A CLOSE that ends with an error: cause 0x0A, which its release takes as a deferred cause, at the word's physical address
(R452, notes/assumptions/119.md). -/
def State.closeFailed (s : State) (who : Waiter) (w : Nat) : State :=
  match who with
  | .party p =>
    let refs := (s.lanes p).map (·.ref)
    match s.streamIds p refs with
    | id :: _ => s.defer id refs w causeLost
    | [] => s
  | .entry agent seq => match (s.cmem agent).ebb.find? fun e => decide (e.seq = seq) with
    | some e => s.defer e.stream e.refs w causeLost
    | none => s
  | .message _ => s

/-- Requests that end with an error (R451, R452, R456): the access takes the cause when it looks; a CLOSE is over. -/
def State.failRequests (s : State) (due : Request → Bool) (c : MemCause) : State :=
  let open_ (r : Request) : Bool := due r && decide (r.result = .wait)
  let next (r : Request) : Option Request :=
    if !open_ r then some r else if r.kind = .close then none else some { r with failed := some c }
  let closes := s.fab.requests.filter fun r => open_ r && decide (r.kind = .close)
  forEach closes { s with fab := { s.fab with requests := s.fab.requests.filterMap next } } fun r s =>
    forEach r.words s fun w s => s.closeFailed r.for_ w

/-- A registration on another package's word closed, for a release: its home acknowledges the CLOSE, and a fenced package
answers with an error at once (R450, R456). -/
def State.closeGuest (s : State) (who : Waiter) (w : Nat) (g : GuestReg) : State :=
  let a : Asker := ⟨who, g.owner, g.owner.agent, g.asn, g.region⟩
  let s := { s with guestRegs := tset w { g with isOpen := false } s.guestRegs }
  if s.fenced (pkgOf w) then s.closeFailed who w else s.request a (pkgOf w) .close [w] (plainMsg [w])

/-- The open registrations of an owner closed in the named regions of an address space, and at system scope those on
words of other packages (R392, R394, R450). -/
def State.closeWords (s : State) (who : Waiter) (mine : Owner → Bool) (asn : Nat) (scope : Scope) (m : DWord) : State :=
  let close (_ : Nat) (x : WordSt) : WordSt := match x with
    | .open_ o a r => if mine o = true ∧ (a ≠ asn ∨ inMask m r = true) then .closed o a r false else x
    | _ => x
  let s := { s with words := tmap close s.words }
  if scope = .system then
    let open_ (g : GuestReg) : Bool := mine g.owner && g.isOpen && (decide (g.asn ≠ asn) || inMask m g.region)
    forEach (s.guestRegs.filter fun x => open_ x.2) s fun x s => s.closeGuest who x.1 x.2
  else s

/-- A home slice has yet to acknowledge a CLOSE of the owner (R450). -/
def State.closing (s : State) (mine : Owner → Bool) : Bool :=
  s.fab.requests.any fun r => decide (r.kind = .close) && mine r.owner

/-- The release of a scope over a mask by a party, once every older entry has drained (R394). -/
def State.releaseNow (s : State) (p : Party) (scope : Scope) (m : DWord) : State :=
  match scope with
  | .group => s
  | _ => s.closeWords (.party p) (s.sameOwner (s.ownerOf p)) (s.asnOf p) scope m

/-- The clean copies of an L1 that an acquire keeps: those of another address space, which its parties do not read, and
those of a region it does not name (R393). -/
def keepCopy (asn : Nat) (m : DWord) (c : Copy) : Bool := decide (c.asn ≠ asn) || !inMask m c.region

/-- The discards of an acquire: a mask of 0 discards nothing (R394, R396). -/
def State.acquire (s : State) (p : Party) (scope : Scope) (m : DWord) : State :=
  if m = 0 then s
  else
  let agent := s.agentOf p
  let asn := s.asnOf p
  let l1 (s : State) : State := s.onCmem agent fun c => { c with l1 := c.l1.filter fun x => keepCopy asn m x.2 }
  let near (s : State) : State := match nearDie agent with
    | some d => s.onDie d fun x =>
        { x with near := x.near.filter fun y => decide (y.2.asn = asn) && !inMask m y.2.region }
    | none => s
  match scope with
  | .group => s
  | .die => l1 s
  | .package => near (l1 s)
  | .system =>
    let s := near (l1 s)
    { s with guest := s.guest.filter fun x => !inMask m x.2.region }

/-- What follows once the group's older accesses are over: every older load has bound, and where the instruction drains,
every entry that the party entered before it has drained; until then the gang parks (R314, R394). The mark of the first
attempt stays with the wait. -/
def State.afterOlder (s : State) (drains : Bool) (k : State → State) : State :=
  let mark := match s.cctx.wait with | some (.release m) => m | _ => s.mark
  if s.olderOut s.cur || drains && s.partyUndrained s.cur mark then s.park (.release mark) else k s

/-- The release performed; at system scope the gang parks until each home slice has acknowledged (R450). -/
def State.thenRelease (s : State) (scope : Scope) (m : DWord) (k : State → State) : State :=
  let mark := match s.cctx.wait with | some (.release m) => m | _ => s.mark
  let s := s.releaseNow s.cur scope m
  if decide (scope = .system) && s.closing (s.sameOwner (s.ownerOf s.cur)) then s.park (.release mark) else k s

/-- What follows a release of the issuing party: the checkpoint that it takes at guard level 1 or 2, the wait for every
older access, the closing (R394, R396). -/
def State.afterRelease (s : State) (scope : Scope) (m : DWord) (k : State → State) : State :=
  match scope with
  | .group => s.afterOlder false k
  | _ => s.afterCheckpoint id fun s => s.afterOlder true fun s => s.thenRelease scope m k

/-- What follows an acquire of the issuing party: the wait for the group's older loads, the discards (R394, R396). -/
def State.afterAcquire (s : State) (acq : Option Scope) (m : DWord) (k : State → State) : State :=
  match acq with
  | none => k s
  | some sc => s.afterOlder false fun s => k (s.acquire s.cur sc m)

/-! ### Entering the ebb queue (R311, R316) -/

/-- Entries that an ebb queue holds. -/
def ebbMax : Nat := 512

/-- The stream of a lane's entries (R314). -/
def State.laneStream (_ : State) (p : Party) (r : ThreadRef) : StreamId :=
  match p, r with
  | .gang tk gid _, _ => .group tk gid
  | .headland tk, _ => .headland tk
  | .service n, _ => .service n
  | .helper _ _, .helper c f => .helper c f
  | .helper c q, _ => .helper c q

/-- The entry holds an atomic that returns a value. -/
def EbbKind.returning : EbbKind → Bool
  | .atoms xs => xs.any (·.returns)
  | .store _ _ => false

/-- An entry is Held (R313); a helper's returning atomic takes effect when it is issued (R209). -/
def State.heldNow (s : State) (p : Party) (k : EbbKind) : Bool :=
  match p, s.teamOf p with
  | .helper _ _, _ => !k.returning
  | _, some tk =>
    let t := s.team tk
    decide (t.launch.grd = 2) || (decide (t.launch.grd = 1) && !t.nonRollback)
  | _, none => false

/-- The keys of the entries that bytes or atomics fall into: stream and line, each once, in lane order. -/
def entryKeys (xs : List (StreamId × Nat)) : List (StreamId × Nat) :=
  xs.foldl (fun ks x => if ks.contains x then ks else ks ++ [x]) []

/-- Entries added at the end of an agent's queue, numbered. Those of a returning ATOM that its own checkpoint precedes stand
in no interval: they are not held (R230, R348). -/
def State.pushEntries (s : State) (p : Party) (xs : List (StreamId × Nat × Nat × EbbKind)) (past : Bool := false) : State :=
  let op := s.nextId
  let agent := s.agentOf p
  let mk (s : State) (x : StreamId × Nat × Nat × EbbKind) : EbbEntry :=
    { seq := s.nextId, op := op, stream := x.1, tk := s.teamOf p, owner := s.ownerOf p, asn := s.asnOf p
      region := regionIn (s.regionsOf p) x.2.2.1, line := x.2.1, held := !past && s.heldNow p x.2.2.2
      kind := x.2.2.2 }
  forEach xs s fun x s =>
    let e := mk s x
    let s := s.onCmem agent fun m => { m with ebb := m.ebb ++ [e] }
    { s with nextId := s.nextId + 1 }

/-- The entries of a store's bytes (R311). -/
def State.storeEntries (s : State) (p : Party) (bs : List BytePart) (strong : Bool) :
    List (StreamId × Nat × Nat × EbbKind) :=
  (entryKeys (bs.map fun b => (s.laneStream p b.ref, b.pa / 64 * 64))).map fun k =>
    let mine := bs.filter fun b => decide ((s.laneStream p b.ref, b.pa / 64 * 64) = k)
    (k.1, k.2, (match mine with | b :: _ => b.va | [] => 0), .store mine strong)

/-- The entries of atomics (R311). -/
def State.atomEntries (s : State) (p : Party) (xs : List AtomPart) : List (StreamId × Nat × Nat × EbbKind) :=
  (entryKeys (xs.map fun b => (s.laneStream p b.ref, b.pa / 64 * 64))).map fun k =>
    let mine := xs.filter fun b => decide ((s.laneStream p b.ref, b.pa / 64 * 64) = k)
    (k.1, k.2, (match mine with | b :: _ => b.va | [] => 0), .atoms mine)

/-- The window that a time lies in (R316). -/
def State.window (s : State) : Nat := s.time.toNat / 1024

/-- Allowance of a team on one of its cores (R316). -/
def Team.allowance (t : Team) : Nat := if t.paired then (t.allow + 1) / 2 else t.allow

/-- Bytes a team has used on a core in the current window. -/
def State.usedNow (s : State) (t : Team) (core : Nat) : Nat :=
  if t.usedWindow = s.window then tgetD core 0 t.used else 0

/-- Bytes added to a team's counter (R316). -/
def State.addUsed (s : State) (tk core b : Nat) : State :=
  s.onTeam tk fun t =>
    if t.usedWindow = s.window then { t with used := tset core (tgetD core 0 t.used + b) t.used }
    else { t with used := [(core, b)], usedWindow := s.window }

/-- What the allowance says of an instruction that asks for b bytes: admitted, stalled or trapped (R316). A helper's and
a service thread's entries are not tested. -/
inductive Admit
  | yes | stall | trap
  deriving DecidableEq, Repr

/-- R316. -/
def State.admitted (s : State) (p : Party) (b : Nat) : Admit :=
  match p, s.teamOf p with
  | .helper _ _, _ => .yes
  | _, none => .yes
  | _, some tk =>
    let t := s.team tk
    let u := s.usedNow t (s.agentOf p)
    if t.allowance = 0 ∨ u = 0 ∨ u + b ≤ t.allowance then .yes else if t.pol then .trap else .stall

/-- The bytes of an admitted instruction are counted. -/
def State.charge (s : State) (p : Party) (b : Nat) : State :=
  match p, s.teamOf p with
  | .helper _ _, _ => s
  | _, none => s
  | _, some tk => s.addUsed tk (s.agentOf p) b

/-- The issuing instruction has been admitted, and its bytes counted, when it was executed before (R316). -/
def State.pastAdmission (s : State) : Bool := s.cctx.wait.any Wait.pastAdmission

/-- The allowance turns the issuing instruction away under the trap policy: cause 0x0B (R316). -/
def State.turnedAway (s : State) (b : Nat) : Bool := !s.pastAdmission && decide (s.admitted s.cur b = .trap)

/-- What follows the admission of the issuing instruction: its bytes are counted, once; until it is admitted the gang parks
(R316). -/
def State.letIn (s : State) (b : Nat) (dest : Bool) (k : State → State) : State :=
  if s.pastAdmission then k s
  else if s.admitted s.cur b = .yes then k (s.charge s.cur b)
  else s.parkRetry .stall dest

/-- The window in which the issuing instruction was admitted. -/
def State.admittedWindow (s : State) : Nat :=
  match s.cctx.wait with
  | some (.retry (.admitted w) _) => w
  | _ => s.window

/-- Bytes taken off a counter again in the window in which they were counted (R316). -/
def State.uncharge (s : State) (p : Party) (w b : Nat) : State :=
  match p, s.teamOf p with
  | .helper _ _, _ => s
  | _, none => s
  | _, some tk =>
    let c := s.agentOf p
    if w = s.window then s.onTeam tk fun t => { t with used := tset c (s.usedNow t c - b) t.used, usedWindow := w } else s

/-- Entries of an admitted instruction entered all together, once no undrained atomic of its stream stands on its words and
the queue has room (R311, R411): this wait takes no trap in either policy. -/
def State.enterEbb (s : State) (ahead : Bool) (xs : List (StreamId × Nat × Nat × EbbKind)) (past : Bool)
    (k : State → State) : State :=
  if ahead || decide (ebbMax < (s.cmem (s.agentOf s.cur)).ebb.length + xs.length) then
    s.parkRetry (.admitted s.window) (xs.any fun x => x.2.2.2.returning)
  else k (s.pushEntries s.cur xs past)

/-! ### Draining (R313, R314, R390) -/

/-- The asker of an entry's accesses. -/
def EbbEntry.asker (e : EbbEntry) (agent : Nat) : Asker := ⟨.entry agent e.seq, e.owner, agent, e.asn, e.region⟩

/-- Each of some threads once. -/
def eachOnce (rs : List ThreadRef) : List ThreadRef :=
  rs.foldl (fun acc r => if acc.contains r then acc else acc ++ [r]) []

/-- The bytes of one aligned 8-byte unit of a store entry performed: together, or not yet (R155). The words that are
refused give their causes to the lanes whose bytes stand in them (R181, R390). -/
def State.drainUnit (s : State) (agent : Nat) (e : EbbEntry) (strong : Bool) (bs : List BytePart) : State × Bool :=
  match s.storeUnit (e.asker agent) strong (bs.map fun b => (b.pa, b.val)) with
  | (s', .done bad) =>
    (forEach bad s' fun x s =>
      let mine := bs.filter fun b => decide (b.pa / 4 * 4 = x.1)
      s.defer e.stream (eachOnce (mine.map (·.ref))) ((mine.head?.map (·.va)).getD 0) x.2, true)
  | (s', _) => (s', false)

/-- The stores to registers and notify targets in an entry, one for each lane, of an STM one for each word of a lane (R158,
R478): address, size, value. -/
def deviceStores (bs : List BytePart) : List (Nat × Nat × Nat) :=
  let keys := bs.foldl (fun ks b => if ks.contains (b.store, b.lane) then ks else ks ++ [(b.store, b.lane)]) []
  keys.filterMap fun k =>
    match bs.filter fun b => decide ((b.store, b.lane) = k) with
    | [] => none
    | b :: rest => some (b.pa, rest.length + 1, bytesNat ((b :: rest).map (·.val)))

end Sys2Proof.Machine
end

