-- ==== Sys2Proof/Machine/Drain.lean ====
section
/-! DEFINITION. What an ebb entry does when it drains, the stores to the privileged register space and to the notify
window among them, and the delivery of deferred causes (07_thread_memory_control.md R181, 12_cluster.md R313-R315,
16_package_operation.md R419, R433, 18_fabric.md R456, R478). -/
namespace Sys2Proof.Machine

/-! ### Registers whose writes act -/

/-- FENCEj (R456): outstanding forwards to the package lose their words, outstanding requests to it fail; V = 0 lifts
the fence. -/
def State.fenceWrite (s : State) (j : Nat) (v : DWord) : State :=
  let pkg := bits v.toNat 11 0
  let on := v.getLsbD 63
  let new : BitVec 64 := BitVec.ofNat 64 (pkg + (if on then 2 ^ 63 + 2 ^ 62 else 0))
  let s := { s with fab := { s.fab with fence := tset j new s.fab.fence } }
  if on then
    let s := forEach (s.held.filter fun h => decide (h.owner.pkg = pkg)) s fun h s => s.expire h.word h.owner
    s.failRequests (fun r => decide (r.line / 2 ^ 44 = pkg)) causeLost
  else s

/-- One entry of the system-call ring answered by the device with status 0xFE, its RVER cleared (R433). -/
def State.answerRetry (s : State) (a : Nat) : State :=
  let slot := s.devRead (a + 56) 8
  let s := (s.devWriteNat a 2 0).devWriteNat (slot % 2 ^ 44) 4 0xFE
  let s := s.devWriteNat (slot % 2 ^ 44 + 4) 4 (Config.retryValue s.nonce).toNat
  { s with nonce := s.nonce + 1 }.scrply slot

/-- A store to FRECOV: the package enters recovery, or leaves it (R454, R472). -/
def State.frecovStore (s : State) (v : DWord) : State := if v.getLsbD 0 then s.enterRecovery else s.frecovWrite v

/-- SRING: a switch of image answers the entries whose version lies outside the new range and sets CUR (R433); the
package is in recovery until the switch completes (R454). -/
def State.sringWrite (s : State) (v : DWord) : State :=
  let lo := v.extractLsb' 0 16
  let hi := v.extractLsb' 16 16
  let s := match s.queueEntry 4097 with
    | none => s
    | some e => match s.ringEnds e with
      | none => s
      | some (tail, head) =>
        forEach ((upto (tail - head)).map (head + ·)) s fun i s =>
          match s.devTranslate e.asn (e.slot i) with
          | none => s
          | some a =>
            let s := s.devWalked e.asn (e.slot i)
            let rver := BitVec.ofNat 16 (s.devRead a 2)
            if rver ≠ 0 ∧ (rver < lo ∨ hi < rver) then s.answerRetry a else s
  State.enterRecovery { s with pkg := { s.pkg with svMin := lo, svMax := hi, cur := hi } }

/-- A store to the privileged register space (R478). -/
def State.regWrite (s : State) (l n : Nat) (v : Nat) : State :=
  let off := l % 4096
  let d := BitVec.ofNat 64 v
  match blockOf l with
  | .core a =>
    if n = 4 ∧ 0x040 ≤ off ∧ off < 0x080 ∧ off % 4 = 0 then s.lrmWrite a ((off - 0x40) / 4) (BitVec.ofNat 32 v)
    else if n = 8 ∧ off = 0x010 then s.lstatWrite a
    else s.plainRegWrite l n d
  | .die x => if n = 8 ∧ off = 0x018 then s.dtablWrite x d else s.plainRegWrite l n d
  | .pkg => if n = 8 ∧ off = 0x028 then s.sringWrite d else s.plainRegWrite l n d
  | .cap => if n = 8 ∧ off = 0x030 then s.capbmWrite d else s
  | .fab =>
    if n ≠ 8 ∨ off % 8 ≠ 0 then s
    else if off = 0x008 then s.pidrWrite d
    else if off = 0x020 then s.frecovStore d
    else if off = 0x030 then s.hverWrite d
    else if 0x0C0 ≤ off ∧ off < 0x0D0 then s.hbaseWrite ((off - 0xC0) / 8) d
    else if 0x200 ≤ off ∧ off < 0x400 then s.fenceWrite ((off - 0x200) / 8) d
    else s.plainRegWrite l n d
  | _ => s.plainRegWrite l n d

/-! ### Draining -/

/-- The entry removed from its queue, and what it asked of other packages with it. -/
def State.freeEntry (s : State) (agent seq : Nat) : State :=
  ((s.onCmem agent fun m => { m with ebb := m.ebb.filter fun e => decide (e.seq ≠ seq) }).dropRequests
    (.entry agent seq)).leaveQueues (.entry agent seq)

/-- What is left of an entry kept for a later drain. -/
def State.keepEntry (s : State) (agent : Nat) (e : EbbEntry) : State :=
  s.onCmem agent fun m => { m with ebb := m.ebb.map fun x => if x.seq = e.seq then e else x }

/-- The address space and the trust of an entry's party. -/
def EbbEntry.isService (e : EbbEntry) : Bool := match e.stream with | .service _ => true | _ => false

/-- The device stores of an entry: a kick or a reply is a strong store at system scope, a register write takes effect
(R419, R478). -/
def State.drainDevice (s : State) (e : EbbEntry) (bs : List BytePart) : State :=
  forEach (deviceStores bs) s fun x s =>
    match s.target x.1 with
    | .notify off => s.notifyStore off x.2.2 e.asn e.isService
    | .regs => if e.isService then s.regWrite (x.1 % 2 ^ 44) x.2.1 x.2.2 else s
    | _ => s

/-- The entry stores to a register or to the notify window. -/
def State.toDevice (s : State) (pa : Nat) : Bool :=
  match s.target pa with
  | .notify _ => true
  | .regs => true
  | _ => false

/-- The system-scope release of a kick or a reply; false while a home slice has yet to acknowledge it (R419, R450). -/
def State.kickRelease (s : State) (agent : Nat) (e : EbbEntry) (pa : Nat) : State × Bool :=
  match s.target pa with
  | .notify _ =>
    let mine := s.sameOwner e.owner
    let s := s.closeWords (.entry agent e.seq) mine e.asn .system allRegions
    (s, !s.closing mine)
  | _ => (s, true)

/-- The bytes of an entry by the aligned 8-byte units that they lie in. -/
def byteUnits (bs : List BytePart) : List (List BytePart) :=
  let keys := bs.foldl (fun ks b => if ks.contains (b.pa / 8) then ks else ks ++ [b.pa / 8]) []
  keys.map fun k => bs.filter fun b => decide (b.pa / 8 = k)

/-- A store entry drained: each unit performed, registered or refused (R390); units that must wait keep the entry. -/
def State.drainStore (s : State) (agent : Nat) (e : EbbEntry) (bs : List BytePart) (strong : Bool) : State :=
  if bs.any fun b => s.toDevice b.pa then
    let r := s.kickRelease agent e (bs.head?.map (·.pa) |>.getD 0)
    if r.2 then (r.1.drainDevice e bs).freeEntry agent e.seq else r.1
  else
    let r := (byteUnits bs).foldl (fun (acc : State × List BytePart) u =>
      match acc.1.drainUnit agent e strong u with
      | (s', true) => (s', acc.2)
      | (s', false) => (s', acc.2 ++ u)) (s, [])
    if r.2 = [] then r.1.freeEntry agent e.seq
    else r.1.keepEntry agent { e with kind := .store r.2 strong }

/-- The operation of a lane's atomic. -/
def AtomPart.op (x : AtomPart) : MsgAtom := ⟨x.fn, x.wide, x.operand, x.cmp⟩

/-- An atomic on a device: a load of its bytes and a store of the new value (R419, R478, notes/assumptions/24.md). -/
def State.deviceAtom (s : State) (e : EbbEntry) (x : AtomPart) : State × DWord :=
  let n := if x.wide then 8 else 4
  let old : DWord := match s.target x.pa with
    | .regs => BitVec.ofNat 64 (bytesNat ((upto n).map fun i => s.regByte (x.pa % 2 ^ 44 + i)))
    | _ => 0
  let new := natBytes n (atomValue x.fn x.wide old x.operand x.cmp).toNat
  let part (i : Nat) : BytePart := ⟨x.pa + i, x.va + i, new.getD i 0, x.lane, x.ref, 0⟩
  (s.drainDevice e ((upto n).map part), old)

/-- One lane's atomic made ready: its words are here, or registered to the party at another package's home; a kick's release is
over. -/
def State.readyPart (s : State) (agent : Nat) (e : EbbEntry) (x : AtomPart) : State × Reply Unit :=
  match s.target x.pa with
  | .mem => s.readyAtom (e.asker agent) (atomWords (x.pa % 2 ^ 44) x.wide)
  | .remote _ => s.readyGuest (e.asker agent) (atomWords x.pa x.wide)
  | _ =>
    let r := s.kickRelease agent e x.pa
    (r.1, if r.2 then .done () else .wait)

/-- One lane's atomic performed on what is ready for it: the old value. Words of another package on which the predictor has it
performed at the home slice go back there at once (R413). -/
def State.performPart (s : State) (agent : Nat) (e : EbbEntry) (x : AtomPart) : State × DWord :=
  let a := e.asker agent
  match s.target x.pa with
  | .mem => s.placedAtom a (x.pa % 2 ^ 44) x.op
  | .remote _ =>
    let ws := atomWords x.pa x.wide
    let r := s.guestAtom x.pa x.op
    if s.atSlice agent x.pa then (forEach ws r.1 fun w s => s.backGuest w, r.2)
    else if ws.any fun w => (tget w s.guestRegs).any (·.fresh) then r
    else (r.1.lowerPredictor agent x.pa, r.2)
  | _ => s.deviceAtom e x

/-- One lane's atomic in a drain: performed with the old value, refused, or to wait. -/
def State.drainAtom (s : State) (agent : Nat) (e : EbbEntry) (x : AtomPart) : State × Reply DWord :=
  match s.target x.pa with
  | .remote pkg => s.farAtom (e.asker agent) pkg x.pa x.returns x.op
  | _ => match s.readyPart agent e x with
    | (s', .done _) =>
      let r := s'.performPart agent e x
      (r.1, .done r.2)
    | (s', .fault c) => (s', .fault c)
    | (s', .wait) => (s', .wait)

/-- A RED entry drained: each lane's operation in lane order; causes are deferred (R390, R411). -/
def State.drainReds (s : State) (agent : Nat) (e : EbbEntry) (xs : List AtomPart) : State :=
  let r := xs.foldl (fun (acc : State × List AtomPart) x =>
    if acc.2 ≠ [] then (acc.1, acc.2 ++ [x])
    else match acc.1.drainAtom agent e x with
      | (s', .done _) => (s', [])
      | (s', .fault c) => (s'.defer e.stream [x.ref] (c.addrAt x.va) c, [])
      | (s', .wait) => (s', [x])) (s, [])
  if r.2 = [] then r.1.freeEntry agent e.seq else r.1.keepEntry agent { e with kind := .atoms r.2 }

/-- The contexts that wait for the values of an atomic instruction. -/
def State.atomWaiters (s : State) (op : Nat) : List Party :=
  s.ctxs.filterMap fun x => match x.2.wait with
    | some (.atom n _ _ _ _ _ _ _) => if n = op then some x.1 else none
    | _ => none

/-- Old values, or causes, that a returning atomic's wait takes in. -/
def State.atomArrive (s : State) (op : Nat) (got : List (ThreadRef × DWord)) (bad : List (Nat × MemCause)) : State :=
  forEach (s.atomWaiters op) s fun p s => (s.onCtx p fun c =>
    match c.wait with
    | some (.atom n d w refs g b acq pops) => { c with wait := some (.atom n d w refs (g ++ got) (b ++ bad) acq pops) }
    | _ => c).sealCtx p

/-- The atomics of a returning ATOM that are left, with their entries. -/
def State.atomsOf (s : State) (agent op : Nat) : List (EbbEntry × AtomPart) :=
  ((s.cmem agent).ebb.filter fun e => decide (e.op = op)).flatMap fun e => match e.kind with
    | .atoms xs => xs.map fun x => (e, x)
    | .store _ _ => []

/-- The entries of an instruction go, with what they asked of other packages. -/
def State.dropOp (s : State) (agent op : Nat) : State :=
  forEach ((s.cmem agent).ebb.filter fun e => decide (e.op = op)) s fun e s => s.freeEntry agent e.seq

/-- The atomics of an instruction made ready, in lane order: whether none waits, and the causes that they meet. -/
def State.readyParts (s : State) (agent : Nat) (ys : List (EbbEntry × AtomPart)) : State × Bool × List (Nat × MemCause) :=
  ys.foldl (fun (acc : State × Bool × List (Nat × MemCause)) y =>
    match acc.1.readyPart agent y.1 y.2 with
    | (s', .done _) => (s', acc.2)
    | (s', .fault c) => (s', acc.2.1, acc.2.2 ++ [(y.2.lane, c)])
    | (s', .wait) => (s', false, acc.2.2)) (s, true, [])

/-- Ready atomics performed in lane order: the old values. -/
def State.performParts (s : State) (agent : Nat) (ys : List (EbbEntry × AtomPart)) : State × List (ThreadRef × DWord) :=
  ys.foldl (fun (acc : State × List (ThreadRef × DWord)) y =>
    let x := acc.1.performPart agent y.1 y.2
    (x.1, acc.2 ++ [(y.2.ref, x.2)])) (s, [])

/-- The entries of a returning ATOM drained together: every lane is made ready first; then all are performed, or one meets a
cause and none is (R150, R390, R411). A single lane's word of another package goes to its home slice where the predictor says
so; those of several lanes are registered first (notes/assumptions/124.md). -/
def State.drainReturning (s : State) (agent op : Nat) : State :=
  match s.atomsOf agent op with
  | [y] => match s.drainAtom agent y.1 y.2 with
    | (s', .done v) => (s'.atomArrive op [(y.2.ref, v)] []).dropOp agent op
    | (s', .fault c) => (s'.atomArrive op [] [(y.2.lane, c)]).dropOp agent op
    | (s', .wait) => s'
  | ys =>
    let r := s.readyParts agent ys
    if !r.2.1 then r.1
    else if r.2.2 ≠ [] then (r.1.atomArrive op [] r.2.2).dropOp agent op
    else
      let q := r.1.performParts agent ys
      (q.1.atomArrive op q.2 []).dropOp agent op

/-- The entry is the oldest Ready one of its stream (R313). -/
def oldestOfStream (es : List EbbEntry) (e : EbbEntry) : Bool :=
  !es.any fun x => decide (x.stream = e.stream) && decide (x.seq < e.seq) && !x.helperHeld

/-- An ebb entry drains to its home slice or its notify target and is freed (R314). -/
def State.drainEntry (s : State) (agent seq : Nat) : State :=
  let es := (s.cmem agent).ebb
  match es.find? fun e => decide (e.seq = seq) with
  | none => s
  | some e =>
    if e.held || !oldestOfStream es e then s
    else match e.kind with
      | .store bs strong => s.drainStore agent e bs strong
      | .atoms xs => if xs.any (·.returns) then s.drainReturning agent e.op else s.drainReds agent e xs

/-! ### Deferred causes (R181) -/

/-- Deferred causes of one code for one word reported together: their threads. -/
def mergeDeferred (d : Deferred) (rest : List Deferred) : Deferred × List Deferred :=
  let same := rest.filter fun x => decide (x.cause = d.cause) && decide (x.addr = d.addr)
  ({ d with refs := eachOnce (same.foldl (fun m x => m ++ x.refs) d.refs) },
    rest.filter fun x => !(decide (x.cause = d.cause) && decide (x.addr = d.addr)))

/-- A deferred cause as an exception: the lanes that its threads stand in now. -/
def State.deferredTrap (s : State) (d : Deferred) : Trap :=
  { cause := d.cause, lanes := sortBy (·.ix) (d.refs.map fun r => ⟨(s.thread r).lane, r⟩), addr := d.addr, aux := d.aux
    write := true, defer := true }

/-- A thread that a cause stands for has exited. -/
def State.goneThread (s : State) (d : Deferred) : Bool := d.refs.any fun r => !(s.thread r).live

/-- The first deferred cause of a party delivered at its instruction boundary; none while the party is parked, faulted
or inside a hint run. -/
def State.deliverDeferred (s : State) (p : Party) : State :=
  let s := { s with cur := p }
  let c := s.ctx p
  if !c.mayIssue || c.wait.isSome || decide (c.run.len ≠ 0) then s
  else match p with
    | .gang tk gid _ =>
      let g := s.group tk gid
      match g.deferred with
      | [] => s
      | d :: rest =>
        if g.faulted.isSome then s
        else
          let x := mergeDeferred d rest
          if s.goneThread x.1 then s.failTeam tk d.cause
          else (s.onGroup tk gid fun g => { g with deferred := x.2 }).raise (s.deferredTrap x.1)
    | .headland tk =>
      match (s.team tk).hDeferred with
      | [] => s
      | d :: rest =>
        if (s.team tk).hFaulted then s
        else
          let x := mergeDeferred d rest
          (s.onTeam tk fun t => { t with hDeferred := x.2 }).raise (s.deferredTrap x.1)
    | .service n =>
      match (s.service n).deferred with
      | [] => s
      | d :: rest =>
        let x := mergeDeferred d rest
        (s.onService n fun v => { v with deferred := x.2 }).raise (s.deferredTrap x.1)
    | .helper _ _ => s

end Sys2Proof.Machine
end

