-- ==== Sys2Proof/Machine/LoadStore.lean ====
section
/-! DEFINITION. Loads, stores, atomics and the ordering instructions: majors 0x20-0x23, 0x26, 0x28-0x2A
(07_thread_memory_control.md R148-R160, 12_cluster.md R318, 15_package_memory_model.md R395, R396, R410-R413,
09_core_instructions.md R243), and the steps that complete them. -/
namespace Sys2Proof.Machine

/-! ### What the forms move -/

/-- Bytes of a form of LD (R151). -/
def ldSize : LdFmt → Nat
  | .n8 | .i8 => 1
  | .n16 | .i16 => 2
  | .n32 => 4
  | .n64 => 8

/-- Bytes of a form of ST (R151). -/
def stSize : StFmt → Nat
  | .n8 => 1
  | .n16 => 2
  | .n32 => 4
  | .n64 => 8

/-- Bytes of a typed element, of two for the .x2 codes (R98). -/
def tSize : TFmt → Nat
  | .n8 | .i8 | .fk8a | .fk8b => 1
  | .n16 | .i16 | .f16 | .fk8ax2 | .fk8bx2 | .i8x2 => 2
  | .n32 | .f32 => 4
  | .n64 | .f64 => 8

/-- The slot format of a typed code is a pair (R98). -/
def tWide : TFmt → Bool
  | .n64 | .f32 | .f64 => true
  | _ => false

/-- Words moved by LDM and STM (R157). -/
def multiWords : MultiN → Nat
  | .w2 => 2
  | .w4 => 4
  | .w8 => 8
  | .w16 => 16

/-- What LD writes for the bytes it read (R151). -/
def ldOut (f : LdFmt) (x : Nat) : LaneOut :=
  { val := match f with
      | .i8 => up ((BitVec.ofNat 8 x).signExtend 32)
      | .i16 => up ((BitVec.ofNat 16 x).signExtend 32)
      | _ => BitVec.ofNat 64 x }

/-- Two f16 elements from two fk8 bytes (R99). -/
def fkPair (k : Fk8) (x : Nat) : LaneOut :=
  let e0 := (fmt16.ofNum .rn (k.decode (x % 256))).bits
  let e1 := (fmt16.ofNum .rn (k.decode (x / 256 % 256))).bits
  { val := BitVec.ofNat 64 (e0 + e1 * 2 ^ 16) }

/-- What LDT writes for the bytes it read (R99). -/
def ldtOut (f : TFmt) (x : Nat) : LaneOut :=
  match f with
  | .n8 | .n16 | .n32 | .n64 | .f64 => { val := BitVec.ofNat 64 x }
  | .i8 => { val := up ((BitVec.ofNat 8 x).signExtend 32) }
  | .i16 => { val := up ((BitVec.ofNat 16 x).signExtend 32) }
  | .f16 => (fmt32.ofNum .rn (fmt16.decode x)).out
  | .f32 => (fmt64.ofNum .rn (fmt32.decode x)).out
  | .fk8a => (fmt32.ofNum .rn (fk8a.decode x)).out
  | .fk8b => (fmt32.ofNum .rn (fk8b.decode x)).out
  | .fk8ax2 => fkPair fk8a x
  | .fk8bx2 => fkPair fk8b x
  | .i8x2 =>
    let e (b : Nat) : BitVec 16 := (BitVec.ofNat 8 b).signExtend 16
    { val := up (e (x / 256) ++ e x) }

/-- An integer clamped to a range; the Bool says that it changed. -/
def clamp (lo hi x : Int) : Int × Bool := if x < lo then (lo, true) else if hi < x then (hi, true) else (x, false)

/-- A clamped integer as stored bytes. -/
def clampOut (n : Nat) (lo hi x : Int) : LaneOut :=
  let r := clamp lo hi x
  { val := (BitVec.ofInt n r.1).zeroExtend 64, sat := r.2 }

/-- Two fk8 bytes from f16x2 elements (R99). -/
def fkPack (k : Fk8) (x : DWord) : LaneOut :=
  let r0 := k.ofNum .rn (fmt16.decode (x.toNat % 2 ^ 16))
  let r1 := k.ofNum .rn (fmt16.decode (x.toNat / 2 ^ 16 % 2 ^ 16))
  { val := BitVec.ofNat 64 (r0.bits + r1.bits * 256), flags := r0.flags ||| r1.flags }

/-- What STT stores for its slot (R99). -/
def sttOut (f : TFmt) (x : DWord) : LaneOut :=
  match f with
  | .n8 => clampOut 8 0 255 (low x).toNat
  | .i8 => clampOut 8 (-128) 127 (low x).toInt
  | .n16 => clampOut 16 0 65535 (low x).toNat
  | .i16 => clampOut 16 (-32768) 32767 (low x).toInt
  | .n32 | .n64 | .f64 => { val := x }
  | .f16 => (fmt16.ofNum .rn (fmt32.decode (low x).toNat)).out
  | .f32 => (fmt32.ofNum .rn (fmt64.decode x.toNat)).out
  | .fk8a => (fk8a.ofNum .rn (fmt32.decode (low x).toNat)).out
  | .fk8b => (fk8b.ofNum .rn (fmt32.decode (low x).toNat)).out
  | .fk8ax2 => fkPack fk8a x
  | .fk8bx2 => fkPack fk8b x
  | .i8x2 =>
    let c0 := clamp (-128) 127 (x.extractLsb' 0 16).toInt
    let c1 := clamp (-128) 127 (x.extractLsb' 16 16).toInt
    let b (v : Int) : BitVec 8 := BitVec.ofInt 8 v
    { val := (b c1.1 ++ b c0.1).zeroExtend 64, sat := c0.2 || c1.2 }

/-! ### Loads -/

/-- The form of a load or store of format M (R148, R153). -/
def formM (a : Src) (ords : List (BitVec 3)) (hl : Bool) : Form :=
  { headland := hl, pfxG := true, limm := true, ords := ords, srcs := [rBase a] }

/-- The effective addresses of the active lanes (R148). -/
def State.laneVas (s : State) (f : Form) (off : DWord) (act : List Lane) : List LaneVa :=
  act.map fun l => ⟨l, (s.reads f l).getD 0 0 + off⟩

/-- The lane of a load's part. -/
def LoadPart.toLane (x : LoadPart) : Lane := ⟨x.lane, x.ref⟩

/-- The loads that passed their checks. -/
def partsOf (size : Nat) (xs : List (LaneVa × Nat)) : List LoadPart :=
  xs.map fun x => ⟨x.1.lane.ix, x.1.lane.ref, x.1.ea.toNat, x.2, size⟩

/-- The causes that loads met at the memory side. -/
def loadFaults (xs : List (LoadPart × Reply Nat)) : List (LaneVa × MemCause) :=
  xs.filterMap fun x => match x.2 with
    | .fault c => some (⟨x.1.toLane, BitVec.ofNat 64 x.1.va⟩, c)
    | _ => none

/-- Some load has no answer yet. -/
def loadWaits (xs : List (LoadPart × Reply Nat)) : Bool :=
  xs.any fun x => match x.2 with | .wait => true | _ => false

/-- The bytes that loads read. -/
def loadVals (xs : List (LoadPart × Reply Nat)) : List (Lane × Nat) :=
  xs.filterMap fun x => match x.2 with | .done v => some (x.1.toLane, v) | _ => none

/-- What a party's instruction asked for and waited on is forgotten once the instruction is over: its requests to other
packages, its places at home slices, the walks it waited on. -/
def State.forget (s : State) (p : Party) : State :=
  let ps := s.gang p
  s.forgetParties ps.contains

/-- The exception of an access whose causes are known: the races among them are counted (R405). -/
def State.raiseAccess (s : State) (t : Trap) (cs : List MemCause) : State := (s.countRaces cs).raiseMem t

/-- A load's results bound: an enabled flag traps, otherwise slots and flags are written, the acquire is performed, the
channels popped and the instruction retired (R152, R153, R156). -/
def State.bindLoad (s : State) (d : Dest) (wide : Bool) (outs : List (Lane × LaneOut)) (acq : Option Scope)
    (pops : List (BitVec 5)) : State :=
  if s.fpLanes outs ≠ [] then s.fpTrap outs
  else
    let s := s.noteAll none outs
    let s := s.writeDest d wide (outs.map fun (x : Lane × LaneOut) => (x.1, x.2.val))
    let s := match acq with
      | some sc => s.acquire s.cur sc allRegions
      | none => s
    (s.popAll (streamOf s.cur) (outs.map (·.1)) pops).retire

/-- What a load's bytes become. -/
def formOut (f : LoadForm) (x : Nat) : LaneOut :=
  match f with
  | .ld f => ldOut f x
  | .ldt f => ldtOut f x
  | .ldm _ _ _ => { val := BitVec.ofNat 64 x }

/-- The load writes a pair. -/
def formWide : LoadForm → Bool
  | .ld f => decide (f = .n64)
  | .ldt f => tWide f
  | .ldm _ _ _ => false

/-- A load of one word or element performed: an answer still out, or an older load that its acquire waits for, parks the
gang (R194, R394); then a cause of any lane is taken precisely (R150, R390), otherwise the results are bound. -/
def State.performLoad (s : State) (d : Dest) (form : LoadForm) (parts : List LoadPart) (acq : Option Scope)
    (pops : List (BitVec 5)) : State :=
  if acq.isSome && s.olderOut s.cur then s.park (.load d form parts acq pops)
  else
    let r := s.loadAll s.cur parts
    if loadWaits r.2 then r.1.park (.load d form parts acq pops)
    else match trapOf false (loadFaults r.2) with
      | some t => r.1.raiseAccess t ((loadFaults r.2).map (·.2))
      | none => r.1.bindLoad d (formWide form) ((loadVals r.2).map fun x => (x.1, formOut form x.2)) acq pops

/-- A load after its checks: its reply comes at once, or later on a slow turn (R152). -/
def State.startLoad (s : State) (d : Dest) (form : LoadForm) (parts : List LoadPart) (acq : Option Scope)
    (pops : List (BitVec 5)) : State :=
  if s.slow then s.park (.load d form parts acq pops) else s.performLoad d form parts acq pops

/-- Some check has no answer yet. -/
def checksWait (xs : List (LaneVa × Check)) : Bool := xs.any fun x => decide (x.2 = .wait)

/-- The checks of R149 over all active lanes, then what follows with the physical addresses; `dest` says that the instruction
has a destination. -/
def State.withChecks (s : State) (k : Access) (write dest : Bool) (align : Nat) (lv : List LaneVa)
    (body : List (LaneVa × Nat) → State → State) : State :=
  let r := s.checkAll s.cur k align lv
  if checksWait r.2 then r.1.parkRetry .checks dest
  else match trapOf write (faultsOf r.2) with
    | some t => r.1.raiseMem t
    | none => body (passedOf r.2) r.1

/-- LD and LDT. -/
def State.loadOp (s : State) (d : Dest) (a : Src) (o : BitVec 9) (form : LoadForm) (size : Nat) (hl : Bool) : Outcome :=
  let f : Form := { formM a [1] hl with dest := some (d, formWide form), bad := d.cls }
  let run := s.cctx.run
  s.issue f fun act s =>
    s.withChecks .read false true size (s.laneVas f (immWith run o) act) fun ok s =>
      s.startLoad d form (partsOf size ok) (if isAcq run then some (scopeOf run) else none)
        (f.srcs.flatMap Operand.pops)

/-- LD (R151-R155). -/
def execLd (d : Dest) (a : Src) (o : BitVec 9) (f : LdFmt) (s : State) : Outcome :=
  s.loadOp d a o (.ld f) (ldSize f) true

/-- LDT (R156). -/
def execLdt (d : Dest) (a : Src) (o : BitVec 9) (f : TFmt) (s : State) : Outcome :=
  s.loadOp d a o (.ldt f) (tSize f) false

/-! ### LDM (R157-R159) -/

/-- A fault of a multi-word operation at word i: the words below stay transferred (R158). -/
def Trap.atWord (t : Trap) (i : Nat) : Trap := { t with count := i }

/-- The checks of one word of an LDM: the lanes' loads, or the exception; nothing while a walk is out. -/
def State.ldmCheck (s : State) (i : Nat) (lv : List LaneVa) : State × Option (List LoadPart ⊕ Trap) :=
  let r := s.checkAll s.cur .read 4 lv
  if checksWait r.2 then (r.1, none)
  else match trapOf false (faultsOf r.2) with
    | some t => (r.1, some (.inr (t.atWord i)))
    | none => (r.1, some (.inl (partsOf 4 (passedOf r.2))))

/-- The words of LDM from word i on; `bases` are the lanes with the address of word 0. The loads of the first of them may
be known: each word is translated once (R373). -/
def State.ldmFrom (s : State) (d : Dest) (n : Nat) (bases : List LaneVa) (pops : List (BitVec 5)) :
    Nat → Nat → Option (List LoadPart) → State
  | 0, _, _ =>
    (s.popAll (streamOf s.cur) (bases.map (·.lane)) pops).retire
  | fuel + 1, i, known =>
    let lv := bases.map fun b => { b with ea := b.ea + BitVec.ofNat 64 (4 * i) }
    let s := s.onGang s.cur fun c => { c with count := i }
    let r : State × Option (List LoadPart ⊕ Trap) := match known with
      | some ps => (s, some (.inl ps))
      | none => s.ldmCheck i lv
    match r.2 with
    | none =>
      r.1.park (.load d (.ldm i n false) (lv.map fun x => ⟨x.lane.ix, x.lane.ref, x.ea.toNat, 0, 4⟩) none pops)
    | some (.inr t) => r.1.raiseMem t
    | some (.inl parts) =>
      let q := r.1.loadAll s.cur parts
      if loadWaits q.2 then q.1.park (.load d (.ldm i n true) parts none pops)
      else match trapOf false (loadFaults q.2) with
        | some t => q.1.raiseAccess (t.atWord i) ((loadFaults q.2).map (·.2))
        | none =>
          let s := q.1.writeDest ⟨false, d.ix + BitVec.ofNat 5 i⟩ false
            ((loadVals q.2).map fun x => (x.1, BitVec.ofNat 64 x.2))
          State.ldmFrom (s.forget s.cur) d n bases pops fuel (i + 1) none

/-- The form of LDM and STM. -/
def formMulti (d : Dest) (a : Src) (n : Nat) (ld : Bool) : Form :=
  { pfxG := true, limm := true, srcs := [rBase a], late := ld, bad := d.cls || a.cls || decide (32 < d.ix.toNat + n) }

/-- LDM (R157-R159): from word 0, or from COUNT after a restart. -/
def execLdm (d : Dest) (a : Src) (o : BitVec 9) (n : MultiN) (s : State) : Outcome :=
  let f := formMulti d a (multiWords n) true
  let run := s.cctx.run
  let start := s.cctx.count
  s.issue f fun act s =>
    s.ldmFrom d (multiWords n) (s.laneVas f (immWith run o) act) (f.srcs.flatMap Operand.pops)
      (multiWords n - start) start none

/-! ### Stores -/

/-- The bytes of one lane's store. -/
def storeBytes (x : LaneVa × Nat) (size : Nat) (v : DWord) : List BytePart :=
  (upto size).map fun i =>
    ⟨x.2 + i, x.1.ea.toNat + i, v.extractLsb' (8 * i) 8, x.1.lane.ix, x.1.lane.ref, 0⟩

/-- The base-2 logarithm of an access size. -/
def sizeLog (n : Nat) : Nat := Nat.log2 n

/-- The value that a lane's store writes. -/
def laneVal (vals : List (Lane × DWord)) (l : Lane) : DWord := tgetD l 0 vals

/-- The store records of the lanes (R346). -/
def State.signStores (s : State) (xs : List (LaneVa × Nat)) (size : Nat) (vals : List (Lane × DWord)) : State :=
  forEach xs s fun x s =>
    s.sign s.cur x.1.lane.ref (sigRecord x.1.ea.toNat (sizeLog size) (natBytes size (laneVal vals x.1.lane).toNat))

/-- An undrained ATOM or RED of the party's stream on a word that the instruction touches: it waits (R411). -/
def State.atomAhead (s : State) (xs : List (LaneVa × Nat)) (size : Nat) : Bool :=
  xs.any fun x => atomPending (s.cmem (s.agentOf s.cur)).ebb [s.laneStream s.cur x.1.lane.ref] x.1.lane.ref x.2 size

/-- The address of the lowest-numbered lane (R150). -/
def firstEa (lv : List LaneVa) : Nat := (lv.head?.map (·.ea.toNat)).getD 0

/-- Stores that passed their checks: the trap policy, then an enabled flag of a conversion (R149, R156), the admission, the
release of ORD 2, the entries, all together (R152, R153, R311, R316). -/
def State.placeStore (s : State) (f : Form) (act : List Lane) (xs : List (LaneVa × Nat)) (size : Nat)
    (outs : List (Lane × LaneOut)) (rel : Option Scope) : State :=
  let vals := outs.map fun (x : Lane × LaneOut) => (x.1, x.2.val)
  let bytes := size * xs.length
  let go (s : State) : State :=
    let bs := xs.flatMap fun x => storeBytes x size (laneVal vals x.1.lane)
    s.enterEbb (s.atomAhead xs size) (s.storeEntries s.cur bs rel.isSome) false fun s =>
      ((s.signStores xs size vals).noteAll none outs).finish f act
  if s.turnedAway bytes then s.raise { cause := 0x0B, lanes := act, addr := firstEa (xs.map (·.1)), write := true }
  else if s.fpLanes outs ≠ [] then s.fpTrap outs
  else s.letIn bytes false fun s => match rel with
    | some sc => s.afterRelease sc allRegions go
    | none => go s

/-- ST and STT: `conv` gives what is stored for the slot's value. -/
def State.storeOp (s : State) (d : Dest) (a : Src) (o : BitVec 9) (size : Nat) (wide : Bool) (hl : Bool)
    (conv : DWord → LaneOut) : Outcome :=
  let f : Form := { formM a [2] hl with srcs := [⟨⟨false, false, d.ix⟩, wide, false⟩, rBase a], bad := d.cls }
  let run := s.cctx.run
  s.issue f fun act s =>
    let lv := act.map fun l => (⟨l, (s.reads f l).getD 1 0 + immWith run o⟩ : LaneVa)
    s.withChecks .write true false size lv fun ok s =>
      let outs := act.map fun l => (l, conv ((s.reads f l).getD 0 0))
      s.placeStore f act ok size outs (if isRel run then some (scopeOf run) else none)

/-- ST (R151-R155). -/
def execSt (d : Dest) (a : Src) (o : BitVec 9) (f : StFmt) (s : State) : Outcome :=
  s.storeOp d a o (stSize f) (decide (f = .n64)) true fun x => { val := x }

/-- STT (R156). -/
def execStt (d : Dest) (a : Src) (o : BitVec 9) (f : TFmt) (s : State) : Outcome :=
  s.storeOp d a o (tSize f) (tWide f) false (sttOut f)

/-! ### STM (R157-R159) -/

/-- The checks of STM from word i on, word by word: the words that every lane may store, then how the scan ended: at the
last word, at a word whose checks have no answer yet, or at a fault. -/
def State.stmScan (s : State) (bases : List LaneVa) :
    Nat → Nat → State × List (Nat × List (LaneVa × Nat)) × Option (Option Trap)
  | 0, _ => (s, [], none)
  | fuel + 1, i =>
    let r := s.checkAll s.cur .write 4 (bases.map fun b => { b with ea := b.ea + BitVec.ofNat 64 (4 * i) })
    if checksWait r.2 then (r.1, [], some none)
    else match trapOf true (faultsOf r.2) with
      | some t => (r.1, [], some (some (t.atWord i)))
      | none =>
        let q := State.stmScan r.1 bases fuel (i + 1)
        (q.1, (i, passedOf r.2) :: q.2.1, q.2.2)

/-- The words of an admitted STM entered all together, one entry for each line; then the fault that it met part-way, whose
bytes not entered are taken off the counter (R311, R316). -/
def State.stmEnter (s : State) (f : Form) (d : Dest) (n : Nat) (act : List Lane) (ws : List (Nat × List (LaneVa × Nat)))
    (t : Option Trap) : State :=
  let vals (i : Nat) := act.map fun l => (l, up (slot32 l.ref (s.thread l.ref) (d.ix.toNat + i)))
  let bs := ws.flatMap fun w => w.2.flatMap fun x =>
    (storeBytes x 4 (laneVal (vals w.1) x.1.lane)).map fun b => { b with store := w.1 }
  let es := s.storeEntries s.cur bs false
  let back := s.admittedWindow
  s.enterEbb (ws.any fun w => s.atomAhead w.2 4) es false fun s =>
    let s := forEach ws s fun w s => s.signStores w.2 4 (vals w.1)
    match t with
    | some t => (s.uncharge s.cur back (4 * (n - t.count) * act.length)).raiseMem t
    | none => s.finish f act

/-- STM (R157-R159, R316). -/
def execStm (d : Dest) (a : Src) (o : BitVec 9) (n : MultiN) (s : State) : Outcome :=
  let f := formMulti d a (multiWords n) false
  let run := s.cctx.run
  let start := s.cctx.count
  s.issue f fun act s =>
    let bases := s.laneVas f (immWith run o) act
    let q := s.stmScan bases (multiWords n - start) start
    match q.2.1, q.2.2 with
    | _, some none => q.1.parkRetry .checks false
    | [], some (some t) => q.1.raiseMem t
    | ws, t =>
      let bytes := 4 * (multiWords n - start) * act.length
      if q.1.turnedAway bytes then
        q.1.raise { cause := 0x0B, lanes := act, addr := firstEa bases + 4 * start, write := true, count := start }
      else q.1.letIn bytes false fun s => s.stmEnter f d (multiWords n) act ws (t.getD none)

/-! ### PREF (R160) -/

/-- One lane's prefetch: the line's words that are there in V enter the named cache, unless it holds the line; everything
else drops it. -/
def State.prefLine (s : State) (v : PrefLevel) (va pa : Nat) : State :=
  let a := s.asker s.cur va
  let l := pa % 2 ^ 44
  let near := (nearDie a.agent).any fun d => (s.die d).near.any (inLine l)
  match s.target pa with
  | .mem => if s.contained l then s else match v with
    | .l1 => if (s.cmem a.agent).l1.any (inLine l) || near then s else s.fillCaches a.agent l a.asn a.region
    | .near => match nearDie a.agent with
      | some d => if near then s else s.fillNear d l (s.cleanLine l a.asn a.region)
      | none => s
    | .l2 => s
  | _ => s

/-- PREF (R160): no architectural effect, no fault. The spec gives it no access size: no address is misaligned for it (DESIGN
CHOICE, notes/assumptions/131.md). -/
def execPref (a : Src) (o : BitVec 9) (v : PrefLevel) (s : State) : Outcome :=
  let f : Form := { pfxG := true, limm := true, srcs := [rBase a], bad := a.cls }
  let run := s.cctx.run
  s.issue f fun act s =>
    let lv := s.laneVas f (immWith run o) act
    let s := forEach lv s fun x s =>
      match s.checkVa s.cur .read x.ea 1 with
      | (s', .ok pa) => s'.prefLine v x.ea.toNat pa
      | _ => s
    s.finish f act

/-! ### ATOM and RED (R410-R413) -/

/-- The operands of the lanes' atomics: address, operand, compare value (R410). -/
def State.atomParts (s : State) (d : Dest) (b : Src) (wide : Bool) (fn : AtomFn) (returns : Bool)
    (xs : List (LaneVa × Nat)) : List AtomPart :=
  let st := streamOf s.cur
  xs.map fun x =>
    { lane := x.1.lane.ix, ref := x.1.lane.ref, va := x.1.ea.toNat, pa := x.2, fn := fn, wide := wide
      operand := s.source st x.1.lane.ref ⟨b, wide, false⟩ []
      cmp := s.source st x.1.lane.ref ⟨⟨false, false, d.ix⟩, wide, false⟩ [], returns := returns }

/-- The function code of an atomic, op[3:0] (R64). -/
def atomCode : AtomFn → Nat
  | .swp => 0 | .cas => 1 | .add => 2 | .and => 3 | .or => 4 | .xor => 5 | .min => 6 | .max => 7 | .minN => 8
  | .maxN => 9 | .fadd => 10 | .inc => 11 | .dec => 12

/-- The atomic records of the lanes: their tag holds op[4:0], whose bit 4 is the width (R64, R346). -/
def State.signAtoms (s : State) (tag : Nat) (xs : List AtomPart) : State :=
  forEach xs s fun x s =>
    let n := if x.wide then 8 else 4
    let data := (if x.returns && decide (x.fn = .cas) then natBytes n x.cmp.toNat else []) ++ natBytes n x.operand.toNat
    s.sign s.cur x.ref (sigRecord x.va (tag * 32 + (if x.wide then 16 else 0) + atomCode x.fn) data)

/-- Bytes that an atomic asks of the allowance (R316). -/
def atomAsk (wide : Bool) (fn : AtomFn) (lanes : Nat) : Nat :=
  (if wide then 8 else 4) * (if fn = .cas then 2 else 1) * lanes

/-- The issuing gang as it waits for an effect that its checkpoint precedes: part of that checkpoint's frame (R348). -/
def State.sealGang (s : State) (act : List Lane) : State :=
  match s.teamOf s.cur with
  | some tk => s.sealEffect tk (s.gang s.cur) (act.map (·.ref))
  | none => s

/-- Atomics that passed their checks: the admission, for a returning ATOM of die scope or wider the checkpoint, the release,
then the entries, and for ATOM the wait for the old values (R230, R316, R348). -/
def State.placeAtom (s : State) (f : Form) (act : List Lane) (d : Dest) (b : Src) (wide : Bool) (fn : AtomFn)
    (returns : Bool) (ok : List (LaneVa × Nat)) (run : HintRun) : State :=
  let ask := atomAsk wide fn ok.length
  let parts := s.atomParts d b wide fn returns ok
  if s.turnedAway ask then s.raise { cause := 0x0B, lanes := act, addr := firstEa (ok.map (·.1)), write := true }
  else s.letIn ask returns fun s =>
    let cuts := returns && (decide (scopeOf run ≠ .group) || decide (s.guardOf s.cur = 2))
    let enter (s : State) : State :=
      let op := s.nextId
      s.enterEbb (s.atomAhead ok (if wide then 8 else 4)) (s.atomEntries s.cur parts) cuts fun s =>
        if returns then
          let s := s.park (.atom op d wide (partsOf (if wide then 8 else 4) ok) [] []
            (if isAcq run then some (scopeOf run) else none) (f.srcs.flatMap Operand.pops))
          if cuts then s.sealGang act else s
        else (s.signAtoms 1 parts).finish f act
    let go (s : State) : State := if isRel run then s.afterRelease (scopeOf run) allRegions enter else enter s
    if cuts then
      s.afterCheckpoint (fun s => s.signAtoms 2 parts) fun s => if s.inShadow then s.park .cut else go s
    else go s

/-- The checks of the addresses of atomics: rights R and W; the host's memory has no atomics (R363, R397, R410). -/
def State.atomOp (s : State) (f : Form) (d : Dest) (b : Src) (wide : Bool) (fn : AtomFn) (returns : Bool) : Outcome :=
  let run := s.cctx.run
  s.issue f fun act s =>
    s.withChecks .atomic true returns (if wide then 8 else 4) (s.laneVas f 0 act) fun ok s =>
      s.placeAtom f act d b wide fn returns ok run

/-- ATOM (R410-R412). -/
def execAtom (d : Dest) (a b : Src) (w : Bool) (n : AtomFn) (s : State) : Outcome :=
  s.atomOp { pfxG := true, ords := [1, 2, 3], scope0 := true, srcs := [r64 a, ⟨b, w, false⟩], dest := some (d, w)
             bad := d.cls || a.cls } d b w n true

/-- RED (R410-R412). -/
def execRed (a b : Src) (w : Bool) (n : AtomFn) (s : State) : Outcome :=
  s.atomOp { pfxG := true, ords := [2], scope0 := true, srcs := [r64 a, ⟨b, w, false⟩], bad := a.cls }
    ⟨false, 0⟩ b w n false

/-! ### ACQ, REL, FENCE, GFENCE, EBDR -/

/-- The form of ACQ, REL and FENCE (R395). -/
def formOrder (l : Bool) (a : Src) : Form :=
  { headland := true, pfxG := true, cpopIsHint := true, srcs := if l then [] else [r64 a], bad := !l && a.cls
    badEnc := l && decide (a ≠ ⟨false, false, 0⟩) }

/-- The region mask of ACQ, REL and FENCE: every region, or the lowest active lane's pair (R395). -/
def State.orderMask (s : State) (f : Form) (l : Bool) (act : List Lane) : DWord :=
  if l then allRegions else match act with
    | x :: _ => (s.reads f x).getD 0 0
    | [] => 0

/-- REL or FENCE at die scope or wider in a helper (R396). -/
def helperRelease (p : Party) (sc : Scope) : Bool := decide (streamOf p = .helper) && decide (sc ≠ .group)

/-- ACQ (R395, R396). -/
def execAcq (l : Bool) (sc : Scope) (a : Src) (s : State) : Outcome :=
  let f := formOrder l a
  s.issue f fun act s => s.afterAcquire (some sc) (s.orderMask f l act) fun s => s.finish f act

/-- REL (R395, R396). -/
def execRel (l : Bool) (sc : Scope) (a : Src) (s : State) : Outcome :=
  let f := formOrder l a
  s.issue f fun act s =>
    if helperRelease s.cur sc then s.raiseCause act 0x10
    else s.afterRelease sc (s.orderMask f l act) fun s => s.finish f act

/-- FENCE (R395, R396): REL, then ACQ. -/
def execFence (l : Bool) (sc : Scope) (a : Src) (s : State) : Outcome :=
  let f := formOrder l a
  s.issue f fun act s =>
    if helperRelease s.cur sc then s.raiseCause act 0x10
    else s.afterRelease sc (s.orderMask f l act) fun s =>
      (s.acquire s.cur sc (s.orderMask f l act)).finish f act

/-- GFENCE (R243): the gang parks until the group's older accesses have been performed for the group itself. -/
def execGfence (s : State) : Outcome :=
  let f : Form := { pfxG := true }
  s.issue f fun act s => s.afterOlder false fun s => s.finish f act

/-- EBDR (R318). -/
def execEbdr (s : State) : Outcome :=
  let f : Form := { headland := true, pfxG := true }
  s.issue f fun act s =>
    if streamOf s.cur = .helper then s.raiseCause act 0x10
    else s.afterCheckpoint id fun s =>
      let mark := match s.cctx.wait with | some (.release m) => m | _ => s.mark
      let refs := act.map (·.ref)
      let mine (e : EbbEntry) : Bool := decide (e.seq < mark) && (match e.kind with
        | .store bs _ => bs.any fun b => refs.contains b.ref
        | .atoms xs => xs.any fun x => refs.contains x.ref)
      if (s.cmem (s.agentOf s.cur)).ebb.any mine then s.park (.release mark) else s.finish f act

/-! ### Steps that complete loads, stores and causes -/

/-- The values of a returning atomic bound, in every copy of a pair (R348, R411). -/
def State.bindAtom (s : State) (d : Dest) (wide : Bool) (got : List (ThreadRef × DWord)) (acq : Option Scope)
    (pops : List (BitVec 5)) (lanes : List Lane) : State :=
  let also (ls : List Lane) (s : State) : State :=
    let s := s.popAll (streamOf s.cur) ls pops
    match acq with
    | some sc => s.acquire s.cur sc allRegions
    | none => s
  s.deliver lanes also (got.map fun x => (x.1, setSlot x.1 wide d.ix.toNat x.2))

/-- The causes that a returning atomic met, as its exception (R150, R390). -/
def atomTrap (refs : List LoadPart) (bad : List (Nat × MemCause)) : Option Trap :=
  trapOf true (bad.filterMap fun x =>
    (refs.find? fun r => decide (r.lane = x.1)).map fun r => (⟨r.toLane, BitVec.ofNat 64 r.va⟩, x.2))

/-- The instruction of a gang, that of a context, is over once it waits no more. -/
def State.forgetDone (s : State) (p : Party) (gang : List Party) : State :=
  if (s.ctx p).wait.isSome then s else s.forgetParties gang.contains

/-- LOAD_REPLY (R152, R158, R411): the answers of a waiting load, LDT, LDM or returning atomic. -/
def execLoadReply (p : Party) (s : State) : Outcome :=
  let s := { s with cur := p }
  let gang := s.gang p
  .next ((match (s.ctx p).wait with
    | some (.load d form parts acq pops) =>
      match form with
      | .ldm i n known =>
        let bases := parts.map fun x => (⟨x.toLane, BitVec.ofNat 64 x.va - BitVec.ofNat 64 (4 * i)⟩ : LaneVa)
        s.ldmFrom d n bases pops (n - i) i (if known then some parts else none)
      | _ => s.performLoad d form parts acq pops
    | some (.atom op d wide refs got bad acq pops) =>
      if s.atomsOf (s.agentOf p) op ≠ [] ∨ got.length < refs.length ∧ bad = [] then s
      else if acq.isSome && s.olderOut p then s
      else match atomTrap refs bad with
        | some t => s.raiseAccess t (bad.map (·.2))
        | none => s.bindAtom d wide got acq pops (refs.map LoadPart.toLane)
    | _ => s : State).forgetDone p gang)

/-- DEFERRED_CAUSE (R181). -/
def execDeferredCause (p : Party) (s : State) : Outcome := .next (s.deliverDeferred p)

/-- EBB_DRAIN (R314). -/
def execEbbDrain (core seq : Nat) (s : State) : Outcome := .next (s.drainEntry core seq)

/-- EBB_WINDOW (R316): the counters of the teams of a core start anew at the window's boundary. -/
def execEbbWindow (core : Nat) (s : State) : Outcome :=
  let reset (t : Team) : Team :=
    if t.usedWindow = s.window then t else { t with used := [], usedWindow := s.window }
  .next { s with teams := tmap (fun _ t => if t.cores.contains core then reset t else t) s.teams }

end Sys2Proof.Machine
end

