-- ==== Sys2Proof/Machine/Barrier.lean ====
section
/-! DEFINITION. The barriers, major 0x34, and the steps that end their waits and bring arrivals from elsewhere
(09_core_instructions.md R263-R270, 12_cluster.md R308, 08_core_execution.md R219). -/
namespace Sys2Proof.Machine

/-- The form of a barrier instruction (R263, R234). -/
def formBar (hl : Bool) (srcs : List Operand) : Form :=
  { headland := hl, service := false, helperBad := true, pfxG := true, srcs := srcs }

/-- The issuing party's team; a barrier instruction runs in no other party. -/
def State.myTeam (s : State) : Nat := (s.teamOf s.cur).getD 0

/-- The tids of lanes: a headland sets no member bit (R265). -/
def State.laneTids (_ : State) (ls : List Lane) : List Nat :=
  ls.filterMap fun l => match l.ref with | .compute _ tid => some tid | _ => none

/-- The group of the issuing gang. -/
def State.myGids (s : State) : List Nat := match s.cur with | .gang _ gid _ => [gid] | _ => []

/-- A 32-bit operand of a lane as a number. -/
def State.read32 (s : State) (f : Form) (l : Lane) : Nat := ((s.reads f l).getD 0 0).toNat % 2 ^ 32

/-- BAR.INIT (R264). -/
def execBarInit (n : BitVec 4) (a : Src) (s : State) : Outcome :=
  let f := formBar true [r32 a]
  s.issue f fun act s =>
    let e := match act with | l :: _ => s.read32 f l | [] => 0
    if e = 0 ∨ 2048 < e then s.raiseCause act 0x07
    else
      let tk := s.myTeam
      let b := (s.team tk).barrier n.toNat
      let s := if b.init then s
        else s.setBarrier tk n.toNat
          { b with init := true, exp := e, arr := 0, drop := 0, broken := false, ovr := false, members := [], arrived := [] }
      s.finish f act

/-- The trap of R268, which resumes after the instruction. -/
def State.raiseBroken (s : State) (act : List Lane) : State := s.raise { cause := 0x11, lanes := act, after := true }

/-- The arrivals of the active lanes as one update, after the release (R265). A count out of range takes cause 0x07 also where
the record is broken or uninitialised: the spec gives no order between 0x07 and 0x11 (DESIGN CHOICE,
notes/assumptions/110.md). Then `k` with whether they completed the
phase, and the phase in which they counted; `waits` says that the instruction waits on the phase. -/
def State.arriveAll (s : State) (waits : Bool) (n : Nat) (f : Form) (counts : Option (List Nat)) (act : List Lane)
    (k : Bool → Bool → State → State) : State :=
  let cs := match counts with | some cs => cs | none => act.map fun _ => 1
  let bad := ((act.zip cs).filter fun (x : Lane × Nat) => decide (x.2 = 0) || decide (2048 < x.2)).map (·.1)
  let tk := s.myTeam
  let b := (s.team tk).barrier n
  if bad ≠ [] then s.raiseCause bad 0x07
  else if !b.init || b.broken then s.raiseBroken act
  else s.afterRelease .die allRegions fun s =>
    let b := (s.team tk).barrier n
    let s := if streamOf s.cur = .headland then s.fenceFlags tk n else s
    let r := s.updateBarrier tk n (b.arrive (cs.foldl (· + ·) 0) (s.laneTids act)) (if waits then s.myGids else [])
    k r.2 b.phase ((r.1.noteUpdate tk n (s.laneTids act)).popAll (streamOf s.cur) act (f.srcs.flatMap Operand.pops))

/-- The counts that a form with C = 1 gives. -/
def State.counts (s : State) (f : Form) (act : List Lane) : List Nat := act.map (s.read32 f)

/-- BAR.ARV: the arrivals, then on. -/
def State.barArv (s : State) (n : BitVec 4) (f : Form) (counts : Option (List Nat)) (act : List Lane) : State :=
  s.arriveAll false n.toNat f counts act fun completed _ s => s.retire.phaseCheckpoint s.myTeam completed

/-- BAR.SYN: the arrivals, then the wait, unless they completed the phase (R266). -/
def State.barSyn (s : State) (n : BitVec 4) (f : Form) (counts : Option (List Nat)) (act : List Lane) : State :=
  s.arriveAll true n.toNat f counts act fun completed phase s =>
    if completed then (s.acquire s.cur .die allRegions).retire.phaseCheckpoint s.myTeam true
    else s.park (.barrier n.toNat phase none)

/-- BAR.ARV n (R265). -/
def execBarArv (n : BitVec 4) (s : State) : Outcome :=
  let f := formBar true []
  s.issue f fun act s => s.barArv n f none act

/-- BAR.ARV n, va (R265). -/
def execBarArvCount (n : BitVec 4) (a : Src) (s : State) : Outcome :=
  let f := formBar true [r32 a]
  s.issue f fun act s => s.barArv n f (some (s.counts f act)) act

/-- BAR.SYN n (R266). -/
def execBarSyn (n : BitVec 4) (s : State) : Outcome :=
  let f := formBar true []
  s.issue f fun act s => s.barSyn n f none act

/-- BAR.SYN n, va (R266). -/
def execBarSynCount (n : BitVec 4) (a : Src) (s : State) : Outcome :=
  let f := formBar true [r32 a]
  s.issue f fun act s => s.barSyn n f (some (s.counts f act)) act

/-- BAR.WT (R266). -/
def execBarWt (n : BitVec 4) (s : State) : Outcome :=
  s.issue (formBar true []) fun act s =>
    let b := (s.team s.myTeam).barrier n.toNat
    if !b.init || b.broken then s.raiseBroken act else s.park (.barrier n.toNat b.phase none)

/-- BAR.DRP (R267). -/
def execBarDrp (n : BitVec 4) (s : State) : Outcome :=
  let f := formBar false []
  s.issue f fun act s =>
    let tk := s.myTeam
    let b := (s.team tk).barrier n.toNat
    if b.broken ∧ b.members = [] then (s.setBarrier tk n.toNat b.uninit).finish f act
    else
      let r := s.dropThreads tk [n.toNat] (s.laneTids act)
      (r.1.finish f act).phaseCheckpoint tk r.2

/-! ### GBAR -/

/-- GBAR and GBAR.T (R269): release, arrival, wait; on a broken grid the wait is over at once. -/
def State.gbarOp (s : State) (traps : Bool) : Outcome :=
  s.issue (formBar false []) fun act s =>
    s.afterRelease .package allRegions fun s =>
      let tk := s.myTeam
      let s := s.onTeam tk fun t => { t with gbarArrived := addAll t.gbarArrived (s.laneTids act) }
      (s.park (.gbar traps none)).gbarUpdate tk

/-- GBAR (R269, R270). -/
def execGbar (s : State) : Outcome := s.gbarOp false

/-- GBAR.T (R269, R270). -/
def execGbarT (s : State) : Outcome := s.gbarOp true

/-! ### Steps -/

/-- BARRIER_WAIT_END (R266, R268-R270): the waiter acquires and goes on, or learns that the barrier broke. -/
def execBarrierWaitEnd (p : Party) (s : State) : Outcome :=
  let s := { s with cur := p }
  let act := s.waitLanes p
  .next (match (s.ctx p).wait, s.teamOf p with
    | some (.barrier n _ done), some tk =>
      if ((s.team tk).barrier n).broken || decide (done = some true) then s.raiseBroken act
      else if done = some false then (if s.olderOut p then s else (s.acquire p .die allRegions).retire)
      else s
    | some (.gbar traps done), some tk =>
      if done = some false then
        let s := s.acquire p .package allRegions
        (if traps then s else forEach act s fun l s => s.onThread l.ref fun t => t.setPred 1 false).retire
      else if decide (done = some true) || s.gridBroken tk then
        if traps then s.raiseBroken act
        else (forEach act s fun l s => s.onThread l.ref fun t => t.setPred 1 true).retire
      else s
    | _, _ => s)

/-- BARRIER_REMOTE_ARRIVAL (R219, R308): an arrival from elsewhere reaches the record; one that stands uninitialised or
broken takes none. -/
def execBarrierRemoteArrival (tk n : Nat) (count : Nat) (tids : List Nat) (s : State) : Outcome :=
  let b := (s.team tk).barrier n
  .next (if !b.init || b.broken || decide (count = 0) then s
    else
      let r := s.updateBarrier tk n (b.arrive count tids)
      (r.1.noteUpdate tk n tids).phaseCheckpoint tk r.2)

end Sys2Proof.Machine
end

