-- ==== Sys2Proof/Machine/Scratch.lean ====
section
/-! DEFINITION. The scratchpad: its bytes with their full/empty tags and presence bits, LDS, STS, ATOMS, TAG and PRSW, and
the timeout of a tag wait (08_core_execution.md R213, R214, R231, 09_core_instructions.md R252-R262). -/
namespace Sys2Proof.Machine

/-! ### The array -/

/-- Old bytes and tags of a line, recorded on the interval's first change to it (R231). -/
def Team.logLine (t : Team) (line : Nat) : Team :=
  match t.lineLog with
  | none => t
  | some l =>
    if l.any fun x => decide (x.line = line) then t
    else
      let base := line * 64
      let rec_ : LineLog :=
        { line := line
          bytes := (upto 64).map fun i => tgetD (base + i) 0 t.pad
          fe := (upto 16).map fun i => t.full.contains (base + 4 * i)
          pr := decide (tgetD line 0 t.filling = 0)
          bad := t.padBad.filter fun w => decide (w / 64 = line) }
      { t with lineLog := some (rec_ :: l) }

/-- One byte of scratchpad written. A word is written whole, or is sound before: it is sound after (R252). -/
def Team.padSet (t : Team) (a : Nat) (b : BitVec 8) : Team :=
  let t := t.logLine (a / 64)
  { t with pad := tset a b t.pad, padBad := t.padBad.filter (· ≠ a / 4 * 4) }

/-- Bytes written from an offset. -/
def Team.padWrite (t : Team) (a : Nat) : List (BitVec 8) → Team
  | [] => t
  | b :: bs => Team.padWrite (t.padSet a b) (a + 1) bs

/-- Words that hold uncorrectable data in a byte range. -/
def Team.badRange (t : Team) (a n : Nat) : Bool := t.padBad.any fun w => decide (a < w + 4) && decide (w < a + n)

/-- The number that `n` bytes of scratchpad hold. -/
def Team.padRead (t : Team) (a n : Nat) : Nat := bytesNat ((upto n).map fun i => tgetD (a + i) 0 t.pad)

/-- The FE tag of a word set. -/
def Team.tagSet (t : Team) (w : Nat) (full : Bool) : Team :=
  let t := t.logLine (w / 64)
  if full then (if t.full.contains w then t else { t with full := w :: t.full })
  else { t with full := t.full.filter (· ≠ w) }

/-- Every word's tag is as wanted. -/
def Team.tagsAre (t : Team) (full : Bool) (ws : List Nat) : Bool := ws.all fun w => t.full.contains w == full

/-- PR of a line (R214): no engine fill of it is outstanding. -/
def Team.present (t : Team) (line : Nat) : Bool := decide (tgetD line 0 t.filling = 0)

/-- Scratchpad size that a party addresses: none for a service thread (R234). -/
def State.padSize (s : State) : Nat :=
  match s.teamOf s.cur with
  | some tk => (s.team tk).launch.z
  | none => 0

/-- The checks of R252 on one lane's offset. -/
def padCause (z align size : Nat) (ea : DWord) : Option MemCause :=
  if ea.toNat % align ≠ 0 then some causeAlign
  else if z < ea.toNat + size then some (causeProt 0)
  else none

/-- The checks of all lanes, each with the size that it touches. -/
def State.padTrap (s : State) (write : Bool) (align : Nat) (lv : List (LaneVa × Nat)) : Option Trap :=
  trapOf write (lv.filterMap fun x => (padCause s.padSize align x.2 x.1.ea).map fun c => (x.1, c))

/-- The lanes that read uncorrectable data, once the other checks are passed (R252). -/
def State.padError (s : State) (tk : Nat) (lv : List (LaneVa × Nat)) : Option Trap :=
  trapOf false (lv.filterMap fun x => if (s.team tk).badRange x.1.ea.toNat x.2 then some (x.1, causePoison) else none)

/-! ### Tag waits (R255) -/

/-- The contexts of a team, its helpers' among them, that wait on tags which are now as they want and that were parked
before a place in the order: they perform first. -/
def State.tagAhead (s : State) (tk order : Nat) : Bool :=
  let t := s.team tk
  !t.atCut && s.ctxs.any fun x => match x.2.wait with
    | some (.tag o ws full _ _) =>
      decide (o < order) && decide (s.teamOf x.1 = some tk) && t.tagsAre full ws
        && (match x.1 with
          | .gang k g _ => (s.group k g).faulted.isNone
          | .headland _ => !t.hFaulted
          | _ => true)
    | _ => false

/-- The issuing party's place in the order of tag waits: a new one stands last. -/
def State.tagOrder (s : State) : Nat :=
  match s.cctx.wait with
  | some (.tag o _ _ _ _) => o
  | _ => s.nextId

/-- The release of the issuing gang's instruction has been performed: its tag wait says so. -/
def State.tagReleased (s : State) : Bool :=
  match s.cctx.wait with
  | some (.tag _ _ _ _ released) => released
  | _ => false

/-- The tag wait of the issuing party is satisfied: its counter is cleared, whatever its access then meets (R256). -/
def State.tagServed (s : State) : State :=
  if s.cctx.tagWait then match s.cur with
    | .gang tk gid _ => s.onGroup tk gid fun g => { g with tagTimer := if s.tagOver s.cur then 0 else g.tagTimer }
    | .headland tk => s.onTeam tk fun t => { t with hTagTimer := 0 }
    | _ => s
  else s

/-- The gang parks in a tag wait, or stays in it. -/
def State.parkTag (s : State) (ws : List Nat) (full released : Bool) : State :=
  let o := s.tagOrder
  let t := match s.cctx.wait with | some (.tag _ _ _ t _) => t | _ => s.time.toNat
  { s.park (.tag o ws full t released) with nextId := max s.nextId (o + 1) }

/-- A scratchpad access in its turn: waiters whose tags are there perform first; a waiting form parks until every word of
every active lane is as it wants. -/
def State.padTurn (s : State) (dest : Bool) (want : Option Bool) (ws : List Nat) (released : Bool) (k : Nat → State → State) : State :=
  match s.teamOf s.cur with
  | none => s
  | some tk =>
    if s.tagAhead tk s.tagOrder then (match want with
      | some full => s.parkTag ws full released
      | none => s.parkRetry .turn dest)
    else match want with
      | some full => if (s.team tk).tagsAre full ws then k tk s.tagServed else s.parkTag ws full released
      | none => k tk s

/-- What follows the release that a scratchpad access makes, if it makes one, and the older loads that its acquire waits
for (R257, R261): both stand before the access, once. -/
def State.padOrder (s : State) (run : HintRun) (k : State → State) : State :=
  if s.tagReleased then k s
  else if isRel run then s.afterRelease (scopeOf run) allRegions k
  else if isAcq run then s.afterOlder false k
  else k s

/-- Words of an access of a size at an offset. -/
def padWords (ea : DWord) (size : Nat) : List Nat := (upto (size / 4)).map fun i => ea.toNat + 4 * i

/-! ### LDS and STS (R254-R257) -/

/-- LDS. -/
def execLds (d : Dest) (a : Src) (o : BitVec 9) (f : LdsForm) (w : Bool) (s : State) : Outcome :=
  let fm : Form := { formM a [1] true with dest := some (d, w), bad := d.cls }
  let run := s.cctx.run
  let size := if w then 8 else 4
  let want : Option Bool := match f with | .plain => none | _ => some true
  s.issue fm fun act s =>
    let lv := s.laneVas fm (immWith run o) act
    match s.padTrap false size (lv.map fun x => (x, size)) with
    | some t => s.raise t
    | none =>
      let ws := lv.flatMap fun x => padWords x.ea size
      s.padOrder run fun s => s.padTurn true want ws (isAcq run) fun tk s => match s.padError tk (lv.map fun x => (x, size)) with
        | some t => s.raiseMem t
        | none =>
          let t := s.team tk
          let s := s.writeDest d w (lv.map fun (x : LaneVa) => (x.lane, BitVec.ofNat 64 (t.padRead x.ea.toNat size)))
          let s := match f with
            | .fe => s.onTeam tk fun t => ws.foldl (fun t w => t.tagSet w false) t
            | _ => s
          let s := if isAcq run then s.acquire s.cur (scopeOf run) allRegions else s
          s.finish fm act

/-- STS. -/
def execSts (d : Dest) (a : Src) (o : BitVec 9) (f : StsForm) (w : Bool) (s : State) : Outcome :=
  let fm : Form := { formM a [2] true with srcs := [⟨⟨false, false, d.ix⟩, w, false⟩, rBase a], bad := d.cls }
  let run := s.cctx.run
  let size := if w then 8 else 4
  let want : Option Bool := match f with | .ef => some false | _ => none
  s.issue fm fun act s =>
    let lv := act.map fun l => (⟨l, (s.reads fm l).getD 1 0 + immWith run o⟩ : LaneVa)
    match s.padTrap true size (lv.map fun x => (x, size)) with
    | some t => s.raise t
    | none =>
      let ws := lv.flatMap fun x => padWords x.ea size
      s.padOrder run fun s => s.padTurn false want ws (isRel run) fun tk s =>
        let vals := lv.map fun (x : LaneVa) => (x.ea.toNat, ((s.reads fm x.lane).getD 0 0).toNat)
        let s := s.onTeam tk fun t => vals.foldl (fun t (x : Nat × Nat) => t.padWrite x.1 (natBytes size x.2)) t
        let s := match f with
          | .plain => s
          | _ => s.onTeam tk fun t => ws.foldl (fun t w => t.tagSet w true) t
        s.finish fm act

/-! ### ATOMS (R258-R261) -/

/-- One lane's scratchpad atomic: the old value. -/
def State.padAtom (s : State) (tk : Nat) (wide : Bool) (fn : AtomFn) (a : Nat) (b cmp : DWord) : State × DWord :=
  let n := if wide then 8 else 4
  let old := BitVec.ofNat 64 ((s.team tk).padRead a n)
  (s.onTeam tk fun t => t.padWrite a (natBytes n (atomValue fn wide old b cmp).toNat), old)

/-- ATOMS: the lanes one after another, every operand read before. -/
def execAtoms (d : Dest) (a b : Src) (w : Bool) (n : AtomFn) (s : State) : Outcome :=
  let f : Form := { pfxG := true, ords := [1, 2, 3], srcs := [r64 a, ⟨b, w, false⟩], dest := some (d, w)
                    bad := d.cls || a.cls }
  let run := s.cctx.run
  let size := if w then 8 else 4
  s.issue f fun act s =>
    let lv := s.laneVas f 0 act
    match s.padTrap true size (lv.map fun x => (x, size)) with
    | some t => s.raise t
    | none => s.padOrder run fun s => s.padTurn true none [] false fun tk s => match s.padError tk (lv.map fun x => (x, size)) with
      | some t => s.raiseMem { t with write := true }
      | none =>
        let st := streamOf s.cur
        let xs := lv.map fun (x : LaneVa) => (x, (s.reads f x.lane).getD 1 0,
          s.source st x.lane.ref ⟨⟨false, false, d.ix⟩, w, false⟩ [])
        let r := xs.foldl (fun (acc : State × List (Lane × DWord)) x =>
          let q := acc.1.padAtom tk w n x.1.ea.toNat x.2.1 x.2.2
          (q.1, acc.2 ++ [(x.1.lane, q.2)])) (s, [])
        let s := r.1.writeDest d w r.2
        let s := if isAcq run then s.acquire s.cur (scopeOf run) allRegions else s
        s.finish f act

/-! ### TAG and PRSW (R262) -/

/-- The form of major 0x35. -/
def formTag (a b : Src) : Form := { service := false, pfxG := true, srcs := [r64 a, r32 b], bad := a.cls }

/-- Offset and count of each lane. -/
def State.tagArgs (s : State) (f : Form) (act : List Lane) : List (LaneVa × Nat) :=
  act.map fun l => let v := s.reads f l; (⟨l, v.getD 0 0⟩, (v.getD 1 0).toNat % 2 ^ 32)

/-- TAG.F and TAG.E. -/
def State.tagOp (s : State) (a b : Src) (full : Bool) : Outcome :=
  let f := formTag a b
  s.issue f fun act s =>
    let xs := s.tagArgs f act
    match s.padTrap true 4 (xs.map fun x => (x.1, 4 * x.2)) with
    | some t => s.raise t
    | none => s.padTurn false none [] false fun tk s =>
      let ws := xs.flatMap fun x => (upto x.2).map fun i => x.1.ea.toNat + 4 * i
      (s.onTeam tk fun t => ws.foldl (fun t w => t.tagSet w full) t).finish f act

/-- TAG.F. -/
def execTagF (a b : Src) (s : State) : Outcome := s.tagOp a b true

/-- TAG.E. -/
def execTagE (a b : Src) (s : State) : Outcome := s.tagOp a b false


/-- PRSW. -/
def execPrsw (a b : Src) (s : State) : Outcome :=
  let f := formTag a b
  s.issue f fun act s =>
    let xs := s.tagArgs f act
    match s.padTrap false 1 xs with
    | some t => s.raise t
    | none => match s.teamOf s.cur with
      | none => s
      | some tk =>
        if xs.all fun x => (linesOf x.1.ea.toNat x.2).all (s.team tk).present then s.finish f act else s.parkRetry (dest := false)

/-- Another gang of the party's group is in a tag wait that began before the party's: the timer counts for that one. -/
def State.tagBefore (s : State) (p : Party) : Bool :=
  (s.otherWaits p).any fun x => x.2.isTag && decide (x.1 < (s.ctx p).order)

/-- TAG_WAIT_TIMEOUT (R256): a tag wait whose count has reached the watchdog's limit, the oldest of its group. The rule does
not say what the counter holds after the trap: it starts anew (DESIGN CHOICE, notes/assumptions/104.md). -/
def execTagWaitTimeout (p : Party) (s : State) : Outcome :=
  let s := { s with cur := p }
  let limit := usAc (s.core (s.agentOf p)).wdog
  .next (match (s.ctx p).wait with
    | some (.tag _ _ _ since _) =>
      let timer := match p with
        | .gang tk gid _ => (s.group tk gid).tagTimer
        | .headland tk => (s.team tk).hTagTimer
        | _ => s.time.toNat - since
      if limit = 0 ∨ timer < limit ∨ s.tagBefore p = true then s
      else
        let s := match p with
          | .gang tk gid _ => s.onGroup tk gid fun g => { g with tagTimer := 0 }
          | .headland tk => s.onTeam tk fun t => { t with hTagTimer := 0 }
          | _ => s
        s.raiseCause (s.waitLanes p) 0x0C
    | _ => s)

end Sys2Proof.Machine
end

