-- ==== Sys2Proof/Machine/Engines.lean ====
section
/-! DEFINITION. The engine queues: CPY, ZRO, GTH, SCA, QFNC, QWT and FETCHW (majors 0x38-0x3A), and the steps by which
the engines perform their entries (12_cluster.md R319-R337). -/
namespace Sys2Proof.Machine

/-! ### Queues -/

/-- The state with an engine queue updated. -/
def State.onEngine (s : State) (tk q : Nat) (f : EngQueue → EngQueue) : State :=
  s.onTeam tk fun t => { t with engines := tset q (f (t.engine q)) t.engines }

/-- Entries that an engine queue holds (R319). -/
def engineMax : Nat := 64

/-- The form of the engine instructions (R327, R334). -/
def formEngine (a : Src) (headland : Bool) : Form := { headland := headland, service := false, pfxG := true, srcs := [r64 a], bad := a.cls }

/-- In a helper at guard level 1 the instruction traps with cause 0x10 (R326). -/
def State.guardedHelper (s : State) : Bool := decide (streamOf s.cur = .helper) && decide (s.guardOf s.cur ≠ 0)

/-! ### Acceptance (R319, R320) -/

/-- Bytes of a team's scratchpad. -/
def Team.padBytes (t : Team) (a n : Nat) : List (BitVec 8) := (upto n).map fun i => tgetD (a + i) 0 t.pad

/-- The first check of R320 that a lane's descriptor fails, with its address; one that lies in the scratchpad and holds
uncorrectable data meets cause 0x09 as any other access does (R252). -/
def Team.descCause (t : Team) (k : EngKind) (thread : Bool) (off : DWord) : Option (Nat × MemCause) :=
  let a := off.toNat
  let z := t.launch.z
  if a % 64 ≠ 0 then some (a, { rank := 1, cause := 0x04, aux := 0 })
  else if z < a + descSize k then some (a, { rank := 2, cause := 0x06, aux := 0 })
  else if t.badRange a (descSize k) then some (a, { rank := 3, cause := 0x09, aux := 0 })
  else
    let d := t.padBytes a (descSize k)
    if malformed k thread d then some (a, { rank := 4, cause := 0x06, aux := 2 })
    else match (alignedVals k d).find? fun x => decide (x.1 % x.2 ≠ 0) with
      | some x => some (x.1, { rank := 5, cause := 0x04, aux := 0 })
      | none => match (padRanges k d).find? fun x => decide (x.2.1 < 0) || decide ((z : Int) < x.2.2) with
        | some x => some (x.1, { rank := 6, cause := 0x06, aux := 0 })
        | none => none

/-- The thread has gather-return streams (R330). -/
def hasStreams : ThreadRef → Bool
  | .compute _ _ => true
  | _ => false

/-- GID of an engine fault record: 0xFF for the headland (R325). -/
def State.engGid (s : State) (r : ThreadRef) : Nat :=
  match s.recruiter r with
  | .headland _ => 0xFF
  | x => (s.thread x).gid

/-- Commands are held at guard level 2 when they write memory (R344). -/
def Team.holds (t : Team) (c : EngCmd) : Bool := decide (t.launch.grd = 2) && decide (t.pair ≠ .none) && c.writesMemory

/-- Engine fills that begin: PR of each line the command writes is clear (R214). -/
def Team.beginFill (t : Team) (c : EngCmd) : Team :=
  { t with filling := (c.linesFrom 0 t.launch.z).foldl (fun f l => tset l (tgetD l 0 f + 2) f) t.filling }

/-- One lane's command enters a queue; a halted queue discards it (R324). -/
def State.enterCommand (s : State) (tk q : Nat) (k : EngKind) (x : LaneVa) : State :=
  let t := s.team tk
  if (t.engine q).halted.isSome then s
  else
    let c : EngCmd :=
      { id := s.nextId, kind := k, desc := t.padBytes x.ea.toNat (descSize k), pc := s.cctx.pc, lane := x.lane.ix
        gid := s.engGid x.lane.ref, ref := x.lane.ref, core := s.agentOf s.cur, mark := s.nextId, done := 0, ix := 0, row := [], held := false }
    let c := { c with held := t.holds c }
    let s := s.onEngine tk q fun e => { e with entries := e.entries ++ [.cmd c] }
    { s.onTeam tk (fun t => t.beginFill c) with nextId := s.nextId + 1 }

/-- The record of an accepted command (R346). -/
def State.signCommand (s : State) (tk q code : Nat) (k : EngKind) (x : LaneVa) : State :=
  s.sign s.cur x.lane.ref
    (sigRecord x.ea.toNat (3 * 32 + code) ((s.team tk).padBytes x.ea.toNat (descSize k) ++ [BitVec.ofNat 8 q]))

/-- The code of a command in its signature record. -/
def engCode : EngKind → Nat
  | .cpy => 0
  | .zro => 1
  | .gth => 2
  | .sca => 3

/-- At guard level 1 the command stands in the frame of the checkpoint that it took: a rollback does not enter it again
(R326, notes/assumptions/18.md). -/
def State.sealCommands (s : State) (tk : Nat) (ps : List Party) (refs : List ThreadRef) : State :=
  let t := s.team tk
  if t.launch.grd = 0 ∨ (t.launch.grd = 2 ∧ t.pair ≠ .none) then s
  else
    let s := s.sealEffect tk ps refs
    match tget tk s.frames with
    | none => s
    | some f => { s with frames := tset tk { f with engines := t.engines } s.frames }

/-- An engine command: the checks over all active lanes, the checkpoint, room, then the commands in lane order. -/
def State.engineOp (s : State) (k : EngKind) (q : Nat) (a : Src) : Outcome :=
  let f := formEngine a (decide (k = .cpy) || decide (k = .zro))
  s.issue f fun act s =>
    if s.guardedHelper then s.raiseCause act 0x10
    else
      let tk := s.myTeam
      let lv := s.laneVas f 0 act
      let bad := lv.filterMap fun x =>
        ((s.team tk).descCause k (hasStreams x.lane.ref) x.ea).map fun c =>
          (({ x with ea := BitVec.ofNat 64 c.1 } : LaneVa), c.2)
      match trapOf false bad with
      | some t => s.raiseMem t
      | none => s.afterCheckpoint id fun s =>
        let e := (s.team tk).engine q
        if e.halted.isNone && decide (engineMax < e.entries.length + act.length) then s.parkRetry .turn false
        else
          let ps := s.gang s.cur
          let s := forEach lv s fun x s => (s.signCommand tk q (engCode k) k x).enterCommand tk q k x
          (s.finish f act).sealCommands tk ps (act.map (·.ref))

/-- CPY (R327-R329). -/
def execCpy (n : BitVec 2) (a : Src) (s : State) : Outcome := s.engineOp .cpy n.toNat a

/-- ZRO (R327-R329). -/
def execZro (n : BitVec 2) (a : Src) (s : State) : Outcome := s.engineOp .zro n.toNat a

/-- GTH (R330-R332). -/
def execGth (n : BitVec 2) (a : Src) (s : State) : Outcome := s.engineOp .gth n.toNat a

/-- SCA (R330, R333). -/
def execSca (n : BitVec 2) (a : Src) (s : State) : Outcome := s.engineOp .sca n.toNat a

/-! ### The engines' accesses (R322, R323) -/

/-- The party that an engine queue accesses memory as: the rights, address space and owner of its team. -/
def engParty (tk q : Nat) : Party := .gang tk (1000 + q) 0

/-- What an access of an engine answers. -/
inductive EngRes (α : Type)
  | done (v : α)
  | fault (c : MemCause) (va : Nat)
  | wait
  deriving DecidableEq, Repr

/-- A range in pieces of a size. -/
def pieces (unit va n : Nat) : List (Nat × Nat) := (upto (n / unit)).map fun i => (va + unit * i, unit)

/-- The physical address of an access of a queue's head: translated once, and kept until the head moves on (R373). -/
def State.engVa (s : State) (tk q : Nat) (k : Access) (va n : Nat) : State × EngRes Nat :=
  match ((s.team tk).engine q).trans.find? fun x => decide (x.va = va) && decide (x.kind = k) with
  | some x => (s, .done x.pa)
  | none => match s.checkVa (engParty tk q) k (BitVec.ofNat 64 va) n with
    | (s', .ok pa) => (s'.onEngine tk q fun e => { e with trans := ⟨va, k, pa⟩ :: e.trans }, .done pa)
    | (s', .fault c) => (s', .fault c va)
    | (s', .wait) => (s', .wait)

/-- A team's cores hold no copy of a word. -/
def State.dropCopies (s : State) (tk w : Nat) : State := forEach (s.team tk).cores s fun c s => s.dropL1 c w

/-- A piece read at its home slice, never in an L1 (R322). -/
def State.engPiece (s : State) (tk q va n : Nat) : State × EngRes (List (BitVec 8)) :=
  match s.engVa tk q .read va n with
  | (s', .done pa) =>
    let pas := (upto n).map (pa + ·)
    match s'.readUnit (s'.asker (engParty tk q) va) false (wordsTouched pas) with
    | (s'', .done t) => (s'', .done (pas.map (byteIn t)))
    | (s'', .fault c) => (s'', .fault c va)
    | (s'', .wait) => (s'', .wait)
  | (s', .fault c va) => (s', .fault c va)
  | (s', .wait) => (s', .wait)

/-- Pieces read one after another. -/
def State.engPieces (s : State) (tk q : Nat) : List (Nat × Nat) → State × EngRes (List (BitVec 8))
  | [] => (s, .done [])
  | x :: xs =>
    match s.engPiece tk q x.1 x.2 with
    | (s', .done v) =>
      match State.engPieces s' tk q xs with
      | (s'', .done bs) => (s'', .done (v ++ bs))
      | r => r
    | r => r

/-- Bytes read in scratchpad, or in memory by pieces of a size. -/
def State.engRead (s : State) (tk q : Nat) (pad : Bool) (unit a n : Nat) : State × EngRes (List (BitVec 8)) :=
  if pad then
    (s, if (s.team tk).badRange a n then .fault causePoison a else .done ((s.team tk).padBytes a n))
  else s.engPieces tk q (pieces unit a n)

/-- A piece of memory to be written: virtual and physical address, bytes. -/
structure EngWrite where
  va : Nat
  pa : Nat
  bytes : List (BitVec 8)
  deriving DecidableEq, Repr

/-- The physical addresses of the pieces of a write. -/
def State.engTranslate (s : State) (tk q : Nat) : List (Nat × List (BitVec 8)) → State × EngRes (List EngWrite)
  | [] => (s, .done [])
  | x :: xs =>
    match s.engVa tk q .write x.1 x.2.length with
    | (s', .done pa) =>
      match State.engTranslate s' tk q xs with
      | (s'', .done ws) => (s'', .done (⟨x.1, pa, x.2⟩ :: ws))
      | r => r
    | (s', .fault c va) => (s', .fault c va)
    | (s', .wait) => (s', .wait)

/-- The bytes of a piece by physical address. -/
def EngWrite.bytesAt (x : EngWrite) : List (Nat × BitVec 8) :=
  (upto x.bytes.length).map fun i => (x.pa + i, x.bytes.getD i 0)

/-- The bytes of a piece by address in this package's memory. -/
def EngWrite.localBytes (x : EngWrite) : List (Nat × BitVec 8) := x.bytesAt.map fun b => (b.1 % 2 ^ 44, b.2)

/-- The words of a write made ready: nothing is written while one of them stands in the way or meets a cause (R323, R389). -/
def State.engClaim (s : State) (tk q : Nat) (ws : List EngWrite) : State × EngRes FarAnswers :=
  let a := s.asker (engParty tk q) 0
  let near := ws.filter fun x => decide (s.target x.pa = .mem)
  let far := ws.filter fun x => match s.target x.pa with | .remote _ => true | _ => false
  match s.readyLocal a (near.flatMap EngWrite.localBytes) with
  | (s', .done bad) => match s'.readyFar a false (far.flatMap EngWrite.bytesAt) with
    | (s'', none) => (s'', .wait)
    | (s'', some rs) =>
      let cause (x : EngWrite) : Option MemCause := firstCause (
        if near.contains x then (wordsTouched (x.localBytes.map (·.1))).filterMap fun w => tget w bad
        else (wordsTouched (x.bytesAt.map (·.1))).filterMap (farCause rs))
      match leastBy (·.2.rank) (ws.filterMap fun x => (cause x).map fun c => (x.va, c)) with
      | some x => (s'', .fault x.2 x.1)
      | none => (s'', .done rs)
  | (s', .fault c) => (s', .fault c 0)
  | (s', .wait) => (s', .wait)

/-- One piece written: memory is registered to the issuing core for the team as its stores are (R323); the notify window
takes it as a kick of the team (R419, notes/assumptions/24.md). -/
def State.engStore (s : State) (tk q : Nat) (rs : FarAnswers) (x : EngWrite) : State :=
  let a := s.asker (engParty tk q) x.va
  match s.target x.pa with
  | .mem =>
    forEach (wordsTouched (x.localBytes.map (·.1))) s fun w s =>
      (s.dropCopies tk w).storeWord a false w (bytesIn w x.localBytes)
  | .remote _ =>
    forEach (wordsTouched (x.bytesAt.map (·.1))) s fun w s =>
      (s.dropCopies tk (farKey w)).storeGuest a false rs w (bytesIn w x.bytesAt)
  | .host _ => s.hostStore x.localBytes
  | .notify off => s.notifyStore off (bytesNat x.bytes) a.asn false
  | _ => s

/-- The system-scope release of an engine's write to the notify window, a kick; false while a home slice has yet to acknowledge
it (R419, R450). -/
def State.engRelease (s : State) (tk q : Nat) (ws : List EngWrite) : State × Bool :=
  if ws.any fun x => match s.target x.pa with | .notify _ => true | _ => false then
    let p := engParty tk q
    let mine := s.sameOwner (s.ownerOf p)
    let s := s.closeWords (.party p) mine (s.asnOf p) .system allRegions
    (s, !s.closing mine)
  else (s, true)

/-- Bytes in pieces of a size. -/
def bytePieces (unit a : Nat) (bs : List (BitVec 8)) : List (Nat × List (BitVec 8)) :=
  (pieces unit a bs.length).map fun x => (x.1, (bs.drop (x.1 - a)).take x.2)

/-- Part of a word that holds uncorrectable data is to be written (R252). -/
def Team.badPart (t : Team) (a n : Nat) : Bool := decide (n < 4) && t.badRange a n

/-- Bytes written in scratchpad, or in memory by pieces of a size: all of them, or none. -/
def State.engWrite (s : State) (tk q : Nat) (pad : Bool) (unit a : Nat) (bs : List (BitVec 8)) : State × EngRes Unit :=
  if pad then
    if (s.team tk).badPart a bs.length then (s, .fault causePoison a)
    else (s.onTeam tk fun t => t.padWrite a bs, .done ())
  else match s.engTranslate tk q (bytePieces unit a bs) with
    | (s', .fault c va) => (s', .fault c va)
    | (s', .wait) => (s', .wait)
    | (s', .done ws) => match s'.engClaim tk q ws with
      | (s'', .done rs) => match s''.engRelease tk q ws with
        | (t, true) => (forEach ws t fun x s => s.engStore tk q rs x, .done ())
        | (t, false) => (t, .wait)
      | (s'', .fault c va) => (s'', .fault c va)
      | (s'', .wait) => (s'', .wait)

/-! ### The head of a queue -/

/-- The ebb entries that the issuing stream, or the thread in a former group, entered before a command have drained (R314,
R322). -/
def State.streamDrained (s : State) (tk : Nat) (c : EngCmd) : Bool :=
  let ids : List StreamId := match c.ref with
    | .compute k _ => [.group k c.gid]
    | .headland k => [.headland k]
    | .helper x f => [.helper x f]
    | .service n => [.service n]
  !s.undrained (s.team tk).cores ids [c.ref] c.mark

/-- The command that a queue performs now. -/
def State.engineHead (s : State) (tk q : Nat) (k : EngKind) : Option EngCmd :=
  let t := s.team tk
  let e := t.engine q
  if !t.resident || t.failed.isSome || e.halted.isSome || e.parked.any (·.waiting) then none
  else match e.entries with
    | .cmd c :: _ => if c.kind = k ∧ c.held = false ∧ s.streamDrained tk c = true then some c else none
    | _ => none

/-- A line of a fill that has ended: written whole, or cut off. A line that two commands fill is present only when the last of
them has ended, which the spec leaves open (DESIGN CHOICE, notes/assumptions/117.md). -/
def endFill (whole : Bool) (v : Nat) : Nat := if whole then (v - 2) / 2 * 2 else (v - 2) / 2 * 2 + 1

/-- Lines of a command's fill that end. -/
def Team.endFills (t : Team) (whole : Bool) (lines : List Nat) : Team :=
  { t with filling := lines.foldl (fun f l => tset l (endFill whole (tgetD l 0 f)) f) t.filling }

/-- The lines that unit i was the last to write. -/
def EngCmd.finished (c : EngCmd) (i : Nat) : List Nat :=
  match c.padUnit i with
  | some (a, n) => (linesOf a n).filter fun l => !c.fillsFrom (i + 1) l
  | none => []

/-- The head of a queue after progress: it stays, or has completed (R321). -/
def State.engineProgress (s : State) (tk q : Nat) (c : EngCmd) : State :=
  let spent := decide (c.units ≤ c.done) && c.row.isEmpty
  (s.onEngine tk q fun e =>
    { e with
      parked := none, trans := [], entries := if spent then e.entries.drop 1 else .cmd c :: e.entries.drop 1 }).forget
    (engParty tk q)

/-- Entries discarded: their fills are cut off. -/
def State.discardEntries (s : State) (tk : Nat) (es : List EngEntry) : State :=
  forEach es s fun e s => match e with
    | .cmd c => s.onTeam tk fun t => t.endFills false (c.linesFrom c.done t.launch.z)
    | .fence _ _ => s

/-- The 32 bytes of an engine fault record (R325). -/
def engineRecord (q : Nat) (c : EngCmd) (m : MemCause) (va : Nat) : Nat :=
  m.aux.toNat + q * 2 ^ 40 + c.gid % 2 ^ 8 * 2 ^ 42 + c.lane % 2 ^ 6 * 2 ^ 50 + m.cause.toNat * 2 ^ 56 + c.pc.toNat * 2 ^ 64
    + va % 2 ^ 60 * 2 ^ 128 + c.doneField * 2 ^ 192

/-- Handle of an engine fault record (R426). -/
def Team.engineRecordAt (t : Team) (q : Nat) : Nat := t.ctxBase + 0x2080 + 32 * q

/-- A cause that an entry meets (R324). Cause 0x09 in an interval that is not rollbackable halts the queue, as R324 says of
any other cause, and does not fail the team at once, as R232 would (DESIGN CHOICE, notes/assumptions/133.md). -/
def State.engineFault (s : State) (tk q : Nat) (c : EngCmd) (m : MemCause) (va : Nat) : State :=
  let t := s.team tk
  let h := t.engineRecordAt q
  let s := (s.countRaces [m]).forget (engParty tk q)
  if m.cause = 0x05 then
    let same := match (t.engine q).parked with | some x => decide (x.done = c.done) && decide (x.va = va) | none => false
    let s := s.onEngine tk q fun e => { e with parked := some ⟨c.done, va, true, false⟩, trans := [] }
    if same then s else s.notice (some tk) h t.core 1 0x05
  else if m.cause = 0x09 ∧ t.launch.grd ≠ 0 ∧ t.nonRollback = false then
    (s.onEngine tk q fun e => { e with trans := [] }).consumePoison tk
  else
    let addr := m.addrAt va
    let s := s.discardEntries tk (t.engine q).entries
    let s := s.devWriteNat (h % 2 ^ 44) 32 (engineRecord q c m addr)
    s.onEngine tk q fun _ => { EngQueue.fresh with halted := some (m.cause, addr, m.aux) }

/-- What follows an access of the head of a queue. -/
def State.engineThen {α : Type} (tk q : Nat) (c : EngCmd) (r : State × EngRes α) (k : α → State → State) : State :=
  match r with
  | (s, .done v) => k v s
  | (s, .fault m va) => s.engineFault tk q c m va
  | (s, .wait) => s

/-! ### CPY and ZRO (R329) -/

/-- An address that a shape reaches. -/
def shapeAddr (x : Int) : Nat := (x % (2 ^ 64 : Int)).toNat

/-- One element of a copy. -/
def State.copyStep (s : State) (tk q : Nat) (c : EngCmd) : State :=
  let d := copyDesc c.desc
  let i := c.done
  let src : State × EngRes (List (BitVec 8)) := if c.kind = .zro then (s, .done (natBytes d.size 0))
    else s.engRead tk q d.ssp d.size (shapeAddr (d.srcAt i)) d.size
  State.engineThen tk q c src fun bs s =>
    State.engineThen tk q c (s.engWrite tk q d.dsp d.size (shapeAddr (d.dstAt i)) bs) fun _ s =>
      (s.onTeam tk fun t => t.endFills true (c.finished i)).engineProgress tk q { c with done := i + 1 }

/-- CPY_PERFORM (R329). -/
def execCpyPerform (tk q : Nat) (s : State) : Outcome :=
  .next (match s.engineHead tk q .cpy with | some c => s.copyStep tk q c | none => s)

/-- ZRO_PERFORM (R329). -/
def execZroPerform (tk q : Nat) (s : State) : Outcome :=
  .next (match s.engineHead tk q .zro with | some c => s.copyStep tk q c | none => s)

/-! ### GTH (R331, R332) -/

/-- Cause of an index out of range. -/
def causeIndex : MemCause := { rank := 4, cause := 0x06, aux := 4 }

/-- Index i of a command, checked against NROWS. -/
def State.engIndex (s : State) (tk q : Nat) (g : GatherDesc) (i : Nat) : State × EngRes Nat :=
  match s.engRead tk q g.isp g.iw (g.idxAt i) g.iw with
  | (s', .done bs) => if g.nrows ≤ bytesNat bs then (s', .fault causeIndex (g.idxAt i)) else (s', .done (bytesNat bs))
  | (s', .fault c va) => (s', .fault c va)
  | (s', .wait) => (s', .wait)

/-- Words of bytes. -/
def wordsOfBytes (bs : List (BitVec 8)) : List Word :=
  (upto (bs.length / 4)).map fun i => BitVec.ofNat 32 (bytesNat ((bs.drop (4 * i)).take 4))

/-- A gathered word joins its thread's stream while there is room; the words of a thread that has exited are dropped. -/
def State.feedStream (s : State) (tk q : Nat) (c : EngCmd) (gs : Nat) (w : Word) (rest : List Word) : State :=
  let t := s.thread c.ref
  if !t.live then s.engineProgress tk q { c with row := [] }
  else
    let es := tgetD gs [] t.streams
    if 16 ≤ es.length then s
    else (s.onThread c.ref fun t => { t with streams := tset gs (es ++ [w]) t.streams }).engineProgress tk q { c with row := rest }

/-- One row of a gather, or one word of it into a stream. -/
def State.gatherStep (s : State) (tk q : Nat) (c : EngCmd) : State :=
  let g := gatherDesc c.desc
  match c.row with
  | w :: rest => s.feedStream tk q c g.gs w rest
  | [] =>
    if g.nidx ≤ c.done then s.engineProgress tk q c
    else State.engineThen tk q c (s.engIndex tk q g c.done) fun r s =>
      State.engineThen tk q c (s.engRead tk q false 4 (g.base + r * g.rstr) g.rowb) fun bs s =>
        if g.dk = 0 then s.engineProgress tk q { c with done := c.done + 1, row := wordsOfBytes bs }
        else State.engineThen tk q c (s.engWrite tk q (decide (g.dk = 1)) 4 (g.data + c.done * g.rowb) bs) fun _ s =>
          (s.onTeam tk fun t => t.endFills true (c.finished c.done)).engineProgress tk q { c with done := c.done + 1 }

/-- GTH_PERFORM (R331). -/
def execGthPerform (tk q : Nat) (s : State) : Outcome :=
  .next (match s.engineHead tk q .gth with | some c => s.gatherStep tk q c | none => s)

/-! ### SCA (R333) -/

/-- The atomic function of an SCA element format. -/
def scaFn (sfmt : Nat) : AtomFn := if sfmt < 2 then .add else .fadd

/-- One add at a home slice, as RED of the same function and width; it registers nothing and leaves no copy on the team's
cores (R333, R399). -/
def State.scaAdd (s : State) (tk q : Nat) (g : GatherDesc) (va : Nat) (x : DWord) : State × EngRes Unit :=
  let op : MsgAtom := ⟨scaFn g.sfmt, decide (g.esize = 8), x, 0⟩
  match s.engVa tk q .atomic va g.esize with
  | (s', .fault c va) => (s', .fault c va)
  | (s', .wait) => (s', .wait)
  | (s', .done pa) =>
    let a := s'.asker (engParty tk q) va
    match s'.target pa with
    | .mem =>
      let ws := atomWords (pa % 2 ^ 44) op.wide
      match s'.readyAtom a ws with
      | (s'', .done _) => (forEach ws (s''.performAtom a true (pa % 2 ^ 44) op).1 fun w s => s.dropCopies tk w, .done ())
      | (s'', .fault c) => (s'', .fault c va)
      | (s'', .wait) => (s'', .wait)
    | .remote pkg => match s'.sliceAtom a pkg pa op with
      | (s'', .done _) => (forEach (atomWords pa op.wide) s'' fun w s => s.dropCopies tk (farKey w), .done ())
      | (s'', .fault c) => (s'', .fault c va)
      | (s'', .wait) => (s'', .wait)
    | _ => (s', .done ())

/-- One add of a scatter. -/
def State.scatterStep (s : State) (tk q : Nat) (c : EngCmd) : State :=
  let g := gatherDesc c.desc
  let per := g.rowb / g.esize
  if c.units ≤ c.done then s.engineProgress tk q c
  else
    let i := c.done / per
    let j := c.done % per
    let ix : State × EngRes Nat := if j = 0 then s.engIndex tk q g i else (s, .done c.ix)
    State.engineThen tk q c ix fun r s =>
      State.engineThen tk q c (s.engRead tk q g.ssp g.esize (g.data + i * g.rowb + j * g.esize) g.esize) fun bs s =>
        State.engineThen tk q c (s.scaAdd tk q g (g.base + r * g.rstr + j * g.esize) (BitVec.ofNat 64 (bytesNat bs))) fun _ s =>
          s.engineProgress tk q { c with done := c.done + 1, ix := r }

/-- SCA_PERFORM (R333). -/
def execScaPerform (tk q : Nat) (s : State) : Outcome :=
  .next (match s.engineHead tk q .sca with | some c => s.scatterStep tk q c | none => s)

/-! ### Parked queues (R324) -/

/-- ENGINE_QUEUE_RETRY (R324): a PTUPD has completed since the queue parked. -/
def execEngineQueueRetry (tk q : Nat) (s : State) : Outcome :=
  .next (match ((s.team tk).engine q).parked with
    | some x => if x.waiting && x.due then s.onEngine tk q fun e => { e with parked := some { x with waiting := false, due := false } }
        else s
    | none => s)

/-- Every parked queue is due for a retry. -/
def State.retryDue (s : State) : State :=
  let mark (e : EngQueue) : EngQueue := { e with parked := e.parked.map fun x => { x with due := true } }
  { s with teams := tmap (fun _ t => { t with engines := tmap (fun _ e => mark e) t.engines }) s.teams }

/-! ### QFNC (R335) -/

/-- The queues that a mask names. -/
def maskQueues (m : BitVec 4) : List Nat := (upto 4).filter fun q => m.getLsbD q

/-- QFNC. -/
def execQfnc (m : BitVec 4) (s : State) : Outcome :=
  let f : Form := { headland := true, service := false, pfxG := true }
  s.issue f fun act s =>
    let tk := s.myTeam
    let open_ := (maskQueues m).filter fun q => ((s.team tk).engine q).halted.isNone
    if open_.any fun q => decide (engineMax ≤ ((s.team tk).engine q).entries.length) then s.parkRetry .turn false
    else
      let id := s.nextId
      let s := forEach open_ s fun q s => s.onEngine tk q fun e => { e with entries := e.entries ++ [.fence id m] }
      { s with nextId := id + 1 }.finish f act

/-- The fence at the head of a queue. -/
def EngQueue.headFence (e : EngQueue) : Option Nat :=
  match e.entries with
  | .fence id _ :: _ => some id
  | _ => none

/-- A queue holds the fence with an id. -/
def EngQueue.holdsFence (e : EngQueue) (id : Nat) : Bool :=
  e.entries.any fun x => match x with | .fence i _ => decide (i = id) | .cmd _ => false

/-- A fence that every queue which holds it has reached is released. -/
def State.releaseFence (s : State) (tk id : Nat) : State :=
  let t := s.team tk
  let qs := (upto 4).filter fun q => (t.engine q).holdsFence id
  if qs.all fun q => decide ((t.engine q).headFence = some id) then
    forEach qs s fun q s => s.onEngine tk q fun e => { e with entries := e.entries.drop 1 }
  else s

/-- QFNC_RELEASE (R335). -/
def execQfncRelease (tk : Nat) (s : State) : Outcome :=
  .next (forEach ((upto 4).filterMap fun q => ((s.team tk).engine q).headFence) s fun id s => s.releaseFence tk id)

/-! ### QWT (R336) -/

/-- The number of an entry. -/
def EngEntry.id : EngEntry → Nat
  | .cmd c => c.id
  | .fence id _ => id

/-- The entries below a mark of the named queues are complete (R336). -/
def Team.queuesDone (t : Team) (m : BitVec 4) (mark : Nat) : Bool :=
  !(maskQueues m).any fun q => (t.engine q).entries.any fun e => decide (e.id < mark)

/-- QWT: the entries that stood in the named queues complete, then a halted queue's cause is delivered. -/
def execQwt (m : BitVec 4) (s : State) : Outcome :=
  let f : Form := { headland := true, service := false, pfxG := true }
  s.issue f fun act s =>
    if s.guardedHelper then s.raiseCause act 0x10
    else s.afterCheckpoint id fun s =>
      let tk := s.myTeam
      let mark := match s.cctx.wait with | some (.queues _ x) => x | _ => s.nextId
      let t := s.team tk
      if (maskQueues m).any fun q => (t.engine q).entries.any fun e => decide (e.id < mark) then s.park (.queues m mark)
      else match (maskQueues m).find? fun q => (t.engine q).halted.isSome with
        | none => s.finish f act
        | some q => match (t.engine q).halted with
          | none => s.finish f act
          | some h => (s.onEngine tk q fun e => { e with halted := none }).raise
              { cause := h.1, lanes := act, addr := h.2.1, aux := h.2.2, defer := true }

/-! ### FETCHW (R337) -/

/-- The four words of a mailbox. -/
def mailWords (off : Nat) : List Nat := (upto 4).map fun i => off + 4 * i

/-- FETCHW's own record (R346). -/
def State.signFetch (s : State) (f : Form) (act : List Lane) : State :=
  forEach act s fun l s => s.sign s.cur l.ref (sigRecord 0 (5 * 32 + 3) (natBytes 8 ((s.reads f l).getD 0 0).toNat))

/-- FETCHW, whose a may be of either class (R334): the mailbox is set empty in every copy, the request stands with the distributor, and the instruction
retires. -/
def execFetchw (a : Src) (s : State) : Outcome :=
  let f : Form := { formEngine a false with bad := false }
  s.issue f fun act s =>
    match act with
    | [] => s
    | l :: _ =>
      let ea := (s.reads f l).getD 0 0
      if s.guardedHelper then s.raiseCause act 0x10
      else match s.padTrap true 16 [(⟨l, ea⟩, 16)] with
        | some t => s.raise t
        | none => s.afterCheckpoint (fun s => s.signFetch f act) fun s =>
          if s.inShadow then s.park .cut
          else
            let tk := s.myTeam
            let off := ea.toNat
            let empty (t : Team) : Team := (mailWords off).foldl (fun t w => t.tagSet w false) t
            let s := s.onTeam tk empty
            let s := match s.shadowOf tk with | some x => s.onTeam x empty | none => s
            let s := s.onTeam tk fun t => { t with fetches := t.fetches ++ [off] }
            s.deliver act (fun ls s => s.popAll (streamOf s.cur) ls (f.srcs.flatMap Operand.pops)) (act.map fun l => (l.ref, fun t => t))

/-- The line's record in the berm log takes the answer in: a rollback keeps it (R348). -/
def LineLog.answered (off : Nat) (vals : List Nat) (l : LineLog) : LineLog :=
  if l.line ≠ off / 64 then l
  else
    let base := off % 64
    { l with
      bytes := (upto 64).map fun i => if base ≤ i ∧ i < base + 16 then
          BitVec.ofNat 8 (vals.getD ((i - base) / 4) 0 / 256 ^ ((i - base) % 4)) else l.bytes.getD i 0
      fe := (upto 16).map fun i => if base / 4 ≤ i ∧ i < base / 4 + 4 then true else l.fe.getD i false }

/-- An answer written into a mailbox, its words full. -/
def Team.mailAnswer (off : Nat) (vals : List Nat) (t : Team) : Team :=
  { t with
    pad := ((vals.flatMap (natBytes 4)).zip (upto 16)).foldl (fun p (x : BitVec 8 × Nat) => tset (off + x.2) x.1 p) t.pad
    full := addAll t.full (mailWords off)
    padBad := t.padBad.filter fun w => !(mailWords off).contains w
    lineLog := t.lineLog.map fun ls => ls.map (LineLog.answered off vals) }

/-- The coordinates of a team of a grid by its number, x fastest. -/
def teamCoords (dims : Nat × Nat × Nat) (i : Nat) : Nat × Nat × Nat :=
  (i % dims.1, i / dims.1 % dims.2.1, i / dims.1 / dims.2.1)

/-- FETCHW_ANSWER (R337): the oldest request of a team is answered. -/
def execFetchwAnswer (tk : Nat) (s : State) : Outcome :=
  let t := s.team tk
  .next (match t.fetches with
    | [] => s
    | off :: rest =>
      if !t.resident then s
      else
        let s := s.onTeam tk fun t => { t with fetches := rest }
        let both (s : State) (f : Team → Team) : State :=
          let s := s.onTeam tk f
          match s.shadowOf tk with | some x => s.onTeam x f | none => s
        match s.recordOf t.launch with
        | none => both s (Team.mailAnswer off [0, 0, 0, 1])
        | some r =>
          if recTeams r.bits ≤ r.next then both s (Team.mailAnswer off [0, 0, 0, 1])
          else
            let c := teamCoords (recDims r.bits) r.next
            let taken (x : Record) : Record := if x = r then { x with next := x.next + 1 } else x
            let s := { s with pkg := { s.pkg with records := s.pkg.records.map taken } }
            let s := s.onTeam tk fun t => { t with withdrawn := t.withdrawn ++ [c] }
            both s (Team.mailAnswer off [c.1, c.2.1, c.2.2, 0]))

end Sys2Proof.Machine
end

