-- ==== Sys2Proof/Machine/Compaction.lean ====
section
/-! DEFINITION. The compaction unit and the slack-water detector: APPEND, TAKE and QUIES (major 0x3B), and the wake of
QUIES (12_cluster.md R339-R343, 16_package_operation.md R427). -/
namespace Sys2Proof.Machine

/-- The compaction entry of an address space as the table holds it (R427). -/
def State.workEntry (s : State) (asn : Nat) : WorkLists :=
  let x := s.devRead (s.pkg.cutb.toNat * 2 ^ 12 % 2 ^ 44 + 16 * asn) 16
  let k := bits x 124 120
  ⟨x.testBit 127 && decide (4 ≤ k) && decide (k ≤ 24), k, [], []⟩

/-- The work lists of an address space: as latched when its first team was placed. -/
def State.workLists (s : State) (asn : Nat) : WorkLists := (tget asn s.pkg.work).getD (s.workEntry asn)

/-- The state with an address space's work lists updated. -/
def State.onWork (s : State) (asn : Nat) (f : WorkLists → WorkLists) : State :=
  { s with pkg := { s.pkg with work := tset asn (f (s.workLists asn)) s.pkg.work } }

/-- The items of a list. -/
def WorkLists.items (w : WorkLists) (l : Nat) : List (List Word) := tgetD l [] w.lists

/-- The form of the compaction instructions (R340). -/
def formWork (a : Src) : Form := { service := false, pfxG := true, srcs := [r32 a] }

/-- The list that a lane names: bits [31:8] are ignored. -/
def State.listOf (s : State) (f : Form) (l : Lane) : Nat := s.read32 f l % 256

/-- Words of an item of APPEND. -/
def itemWords (n : BitVec 2) : Nat := if n = 0 then 1 else if n = 1 then 2 else 4

/-- A lane's item. -/
def State.item (s : State) (n : BitVec 2) (b : Src) (l : Lane) : List Word :=
  (upto (itemWords n)).map fun i => slot32 l.ref (s.thread l.ref) (b.ix.toNat + i)

/-- The records of APPEND, TAKE and QUIES (R346). -/
def State.signWork (s : State) (code : Nat) (f : Form) (act : List Lane) (data : Lane → List Word) : State :=
  forEach act s fun l s =>
    s.sign s.cur l.ref (sigRecord 0 (5 * 32 + code) (natBytes 4 (s.listOf f l) ++ (data l).flatMap fun w => natBytes 4 w.toNat))

/-- What APPEND, TAKE and QUIES have in common: cause 0x10 in a helper at guard level 1 (R326), cause 0x06 where the
address space has no lists (R427), the checkpoint, and the effect in the primary copy alone (R348). -/
def State.workOp (s : State) (f : Form) (code : Nat) (data : State → Lane → List Word) (start : Nat → State → State)
    (body : Nat → List Lane → State → State) : Outcome :=
  s.issue f fun act s =>
    let asn := s.asnOf s.cur
    if s.guardedHelper then s.raiseCause act 0x10
    else if !(s.workLists asn).valid then s.raise { cause := 0x06, lanes := act, aux := 0x10 }
    else (start asn s).afterCheckpoint (fun s => s.signWork code f act (data s)) fun s =>
      if s.inShadow then s.park .cut else body asn act s

/-- The issuing gang's APPEND is in flight from its issue on, that of a pair in the primary (R343). -/
def State.appendStarts (asn : Nat) (s : State) : State :=
  if s.inShadow then s
  else
    let mine := (s.gang s.cur).map fun p => (p, (s.ctx p).pc)
    s.onWork asn fun x => { x with inFlight := x.inFlight ++ mine.filter fun y => !x.inFlight.contains y }

/-- Items that the lanes add to each list. -/
def asked (xs : List (Nat × List Word)) (l : Nat) : Nat := (xs.filter fun x => decide (x.1 = l)).length

/-- APPEND (R341). -/
def execAppend (n : BitVec 2) (a b : Src) (s : State) : Outcome :=
  let w := itemWords n
  let f : Form :=
    { formWork a with bad := b.cls || b.pop || decide (b.ix.toNat % w ≠ 0) || decide (32 < b.ix.toNat + w) }
  s.workOp f 0 (fun s l => s.item n b l) State.appendStarts fun asn act s =>
    s.afterRelease .package allRegions fun s =>
      let xs := act.map fun l => (s.listOf f l, s.item n b l)
      let wl := s.workLists asn
      if xs.any fun x => decide (2 ^ wl.k < (wl.items x.1).length + asked xs x.1) then s.parkRetry (dest := false)
      else
        let put (y : WorkLists) (x : Nat × List Word) : WorkLists :=
          { y with lists := tset x.1 (y.items x.1 ++ [x.2]) y.lists }
        let ps := s.gang s.cur
        let s := s.onWork asn fun y => { xs.foldl put y with inFlight := y.inFlight.filter fun z => !ps.contains z.1 }
        s.deliver act (fun ls s => s.popAll (streamOf s.cur) ls (f.srcs.flatMap Operand.pops)) (act.map fun l => (l.ref, fun t => t))

/-- Four slots of a thread written. -/
def setFour (r : ThreadRef) (i : Nat) (ws : List Word) (t : Thread) : Thread :=
  (upto 4).foldl (fun t j => setSlot32 r (i + j) (ws.getD j 0) t) t

/-- One lane's TAKE: the head item of its list, if there is one. -/
def State.takeOne (s : State) (asn l : Nat) : State × Option (List Word) :=
  match (s.workLists asn).items l with
  | [] => (s, none)
  | x :: xs => (s.onWork asn fun y => { y with lists := tset l xs y.lists }, some x)

/-- TAKE (R342). -/
def execTake (d : Dest) (a : Src) (s : State) : Outcome :=
  let f : Form := { formWork a with late := true, bad := d.cls || decide (d.ix.toNat % 4 ≠ 0) }
  s.workOp f 1 (fun _ _ => []) (fun _ s => s) fun asn act s =>
    let r := act.foldl (fun (acc : State × List (Lane × Nat × Option (List Word))) l =>
      let n := acc.1.listOf f l
      let x := acc.1.takeOne asn n
      (x.1, acc.2 ++ [(l, n, x.2)])) (s, [])
    let out (x : Lane × Nat × Option (List Word)) : ThreadRef × (Thread → Thread) :=
      (x.1.ref, fun t =>
        let t := setFour x.1.ref d.ix.toNat (x.2.2.getD []) t
        { t.setPred 1 x.2.2.isSome with lease := x.2.2.map fun _ => ⟨asn, x.2.1⟩ })
    let also (ls : List Lane) (s : State) : State :=
      let s := s.popAll (streamOf s.cur) ls (f.srcs.flatMap Operand.pops)
      if r.2.any (·.2.2.isSome) then s.acquire s.cur .package allRegions else s
    r.1.deliver act also (r.2.map out)

/-! ### QUIES (R343) -/

/-- A thread of a shadow copy: its leases are its primary's. -/
def State.shadowRef (s : State) (r : ThreadRef) : Bool :=
  match r with
  | .compute tk _ | .headland tk => match (s.team tk).pair with | .shadow _ => true | _ => false
  | _ => false

/-- The address space is quiescent (R343). -/
def State.quiescent (s : State) (asn : Nat) : Bool :=
  let w := s.workLists asn
  w.lists.all (fun x => x.2.isEmpty)
    && s.threads.all (fun x => s.shadowRef x.1 || (match x.2.lease with | some l => decide (l.asn ≠ asn) | none => true))
    && w.inFlight.all fun x => (s.ctx x.1).wait.isNone || decide ((s.ctx x.1).pc ≠ x.2)

/-- QUIES returns when its address space is quiescent or its list holds an item; otherwise the gang stays parked. -/
def State.quiesTry (s : State) (asn l : Nat) (act : List Lane) (pops : List (BitVec 5)) : State :=
  let done (s : State) (p1 : Bool) : State :=
    let also (ls : List Lane) (s : State) : State :=
      let s := s.popAll (streamOf s.cur) ls pops
      if p1 then s.acquire s.cur .package allRegions else s
    s.deliver act also (act.map fun l => (l.ref, fun t => { t.setPred 1 p1 with lease := none }))
  if s.quiescent asn then done s true
  else if (s.workLists asn).items l ≠ [] then done s false
  else s.park (.quies l pops)

/-- QUIES (R343). -/
def execQuies (a : Src) (s : State) : Outcome :=
  let f := formWork a
  s.workOp f 2 (fun _ _ => []) (fun _ s => s) fun asn act s =>
    let l := match act with | x :: _ => s.listOf f x | [] => 0
    let s := forEach act s fun x s => s.onThread x.ref fun t => { t with lease := none }
    s.quiesTry asn l act (f.srcs.flatMap Operand.pops)

/-- QUIES_WAKE (R343). -/
def execQuiesWake (p : Party) (s : State) : Outcome :=
  .next (match (s.ctx p).wait with
    | some (.quies l pops) =>
      let s := { s with cur := p }
      s.quiesTry (s.asnOf p) l (s.waitLanes p) pops
    | _ => s)

end Sys2Proof.Machine
end

