-- ==== Sys2Proof/Machine/Recruit.lean ====
section
/-! DEFINITION. Recruitment, major 0x33, and the steps of a helper's life (08_core_execution.md R205-R212,
09_core_instructions.md R248-R251, 12_cluster.md R313, R316). -/
namespace Sys2Proof.Machine

/-! ### Donors (R205) -/

/-- No lane of a quad runs and none waits in a path entry. -/
def Ctx.lendable (c : Ctx) (live : BitVec 4) : Bool :=
  decide (c.m = 0) && c.stack.all (fun e => e.token || decide (e.mask &&& live = 0)) && decide (c.spilled = 0 ∨ c.idle)

/-- The live lanes of a quad as a mask. -/
def State.quadLive (s : State) (tk gid q : Nat) : BitVec 4 :=
  (s.quadLanes tk gid q 0xF).foldl (fun m l => m ||| BitVec.ofNat 4 (2 ^ (l.ix % 4))) 0

/-- A physical quad's helper context is free. -/
def State.helperFree (s : State) (core quad : Nat) : Bool :=
  !s.helpers.any fun x => decide (x.1.1 = core) && decide (x.2.quad = quad)
    && (decide (x.2.st = .granted) || decide (x.2.st = .running))

/-- The donor lanes of one group: group, physical quad, lane of the quad. -/
def State.groupDonors (s : State) (tk gid : Nat) : List (Nat × Nat × Nat) :=
  let g := s.group tk gid
  g.quads.flatMap fun q =>
    if (s.ctx (.gang tk gid q)).lendable (s.quadLive tk gid q) && s.helperFree g.core (g.quad0 + q) then
      (upto 4).map fun j => (gid, g.quad0 + q, j)
    else []

/-- The gids of a team's live groups on a core, ascending. -/
def State.liveGids (s : State) (tk core : Nat) : List Nat :=
  sortBy id (s.groups.filterMap fun x =>
    if x.1.1 = tk ∧ x.2.core = core ∧ x.2.live = true ∧ x.2.ended = false then some x.1.2 else none)

/-- The donor lanes in the order of R205: two groups that share a physical quad lend it once. -/
def State.donors (s : State) (tk gid core : Nat) : List (Nat × Nat × Nat) :=
  let all := (gid :: (s.liveGids tk core).filter (· ≠ gid)).flatMap (s.groupDonors tk)
  all.foldl (fun ds d =>
    if ds.any fun (x : Nat × Nat × Nat) => x.2.1 = d.2.1 ∧ x.1 ≠ d.1 then ds else ds ++ [d]) []

/-- The helper frames of a core that hold no helper. -/
def State.freeFrames (s : State) (core : Nat) : List Nat := (upto 64).filter fun f => (tget (core, f) s.helpers).isNone

/-- A snapshot frame of the core is free. -/
def State.snapshotFree (s : State) (core : Nat) : Bool :=
  decide ((s.recruits.filter fun x => decide (x.2.core = core)).length < 64)

/-! ### RECRUIT (R206, R249) -/

/-- One helper placed on a donor lane. -/
def State.placeHelper (s : State) (tk tid core hix : Nat) (pc : VAddr) (fm : FFlags) (frame : Nat)
    (d : Nat × Nat × Nat) : State :=
  let h : Helper := ⟨tk, tid, hix, d.1, d.2.1, d.2.2, pc, .granted, false⟩
  let s := { s with helpers := tset (core, frame) h s.helpers }
  let s := s.setThread (.helper core frame) { Thread.fresh with fmask := fm }
  let bit : BitVec 4 := BitVec.ofNat 4 (2 ^ d.2.2)
  let c := s.ctx (.helper core d.2.1)
  let s := if c.idle then s.forgetParties fun p => decide (p = .helper core d.2.1) else s
  s.setCtx (.helper core d.2.1) { Ctx.fresh pc ((if c.idle then 0 else c.m) ||| bit) with idle := false }

/-- One recruiter served: its grant. -/
def State.recruitOne (s : State) (tk gid core : Nat) (l : Lane) (pc : VAddr) (n : Nat) : State × Nat :=
  let t := s.thread l.ref
  let ds := s.donors tk gid core
  let fs := s.freeFrames core
  let grant := if (s.team tk).launch.grd = 2 ∨ s.snapshotFree core = false then 0
    else Nat.min n (Nat.min ds.length fs.length)
  if grant = 0 then (s, 0)
  else
    let used := fs.take grant
    let r : Recruitment := ⟨core, used, (upto 16).map fun i => slot32 l.ref t (16 + i)⟩
    let s := { s with recruits := tset (tk, t.tid) r s.recruits }
    let put (acc : State × Nat) (x : Nat × Nat × Nat × Nat) : State × Nat :=
      (acc.1.placeHelper tk t.tid core acc.2 pc t.fmask x.1 x.2, acc.2 + 1)
    (((used.zip ds).foldl put (s, 0)).1, grant)

/-- The recruitment of a lane's thread. -/
def State.recruitOf (s : State) (l : Lane) : Option Recruitment :=
  match l.ref with
  | .compute tk tid => tget (tk, tid) s.recruits
  | _ => none

/-- The checks of a start PC or of a branch target (R166, R249). -/
def targetCause (x : DWord) : Option MemCause :=
  if x.toNat % 4 ≠ 0 then some causeAlign else if 2 ^ 60 ≤ x.toNat then some causeCanon else none

/-- The causes that targets meet, as an exception. -/
def targetTrap (xs : List (Lane × DWord)) : Option Trap :=
  trapOf false (xs.filterMap fun x => (targetCause x.2).map fun c => (⟨x.1, x.2⟩, c))

/-- RECRUIT (R248, R249). -/
def execRecruit (d : Dest) (a b : Src) (s : State) : Outcome :=
  let f : Form := { service := false, helperBad := true, pfxG := true, srcs := [r64 a, r32 b], late := true, bad := d.cls }
  s.issue f fun act s =>
    let args := act.map fun l => let v := s.reads f l; (l, v.getD 0 0, Nat.min ((v.getD 1 0).toNat % 2 ^ 32) 32)
    match targetTrap (args.map fun (x : Lane × DWord × Nat) => (x.1, x.2.1)) with
    | some t => s.raise t
    | none =>
      let again := act.filter fun l => (s.recruitOf l).isSome
      if again ≠ [] then s.raiseCause again 0x10
      else s.afterOlder false fun s => match s.cur with
        | .gang tk gid _ =>
          let core := (s.group tk gid).core
          let r := args.foldl (fun (acc : State × List (Lane × DWord)) x =>
            let q := acc.1.recruitOne tk gid core x.1 (x.2.1.extractLsb' 0 60) x.2.2
            (q.1, acc.2 ++ [(x.1, BitVec.ofNat 64 q.2)])) (s, [])
          (r.1.writeDest d false r.2).finish f act
        | _ => s

/-! ### HWAIT (R211, R250) -/

/-- Every helper of a recruitment has stopped. -/
def State.helpersStopped (s : State) (x : Recruitment) : Bool :=
  x.frames.all fun f => let st := (s.helper x.core f).st; !(decide (st = .granted) || decide (st = .running))

/-- The mask of helper indices that did not complete. -/
def State.helperMask (s : State) (x : Recruitment) : Nat :=
  x.frames.foldl (fun m f => let h := s.helper x.core f; if h.st = .completed then m else m + 2 ^ h.hix) 0

/-- The lowest-numbered faulted helper: its index and cause. -/
def State.faultedHelper (s : State) (x : Recruitment) : Option (Nat × BitVec 8) :=
  x.frames.findSome? fun f => let h := s.helper x.core f
    match h.st with | .faulted c => some (h.hix, c) | _ => none

/-- A recruitment closed: flags merged, frames freed. -/
def State.closeRecruitment (s : State) (l : Lane) (x : Recruitment) : State :=
  let s := forEach x.frames s fun f s =>
    let t := s.thread (.helper x.core f)
    let s := s.onThread l.ref fun r => { r with fflags := r.fflags ||| t.fflags, xstat := r.xstat ||| t.xstat }
    { s with helpers := tdel (x.core, f) s.helpers, threads := tdel (.helper x.core f) s.threads }
  match l.ref with
  | .compute tk tid => { s with recruits := tdel (tk, tid) s.recruits }
  | _ => s

/-- HWAIT completes in its active lanes; a helper's fault is raised with the results written. Where helpers of several lanes
have faulted, the record names the first faulted helper of the lowest of them (DESIGN CHOICE, notes/assumptions/118.md). -/
def State.hwaitDone (s : State) (d : Dest) (act : List Lane) : State :=
  let xs := act.map fun l => (l, s.recruitOf l)
  let bad := xs.filterMap fun x => (x.2.bind s.faultedHelper).map fun h => (x.1, h)
  let outs := xs.map fun x => (x.1, BitVec.ofNat 64 (match x.2 with | some r => s.helperMask r | none => 0))
  let s := s.writeDest d false outs
  let s := forEach xs s fun x s => match x.2 with | some r => s.closeRecruitment x.1 r | none => s
  match bad with
  | [] => s.retire
  | h :: _ => s.raise { cause := 0x0F, lanes := bad.map (·.1), after := true, ocause := h.2.2, hix := h.2.1 }

/-- Every recruitment of the lanes has only stopped helpers. -/
def State.hwaitReady (s : State) (act : List Lane) : Bool :=
  act.all fun l => match s.recruitOf l with | some r => s.helpersStopped r | none => true

/-- HWAIT. -/
def execHwait (d : Dest) (s : State) : Outcome :=
  let f : Form := { service := false, helperBad := true, pfxG := true, bad := d.cls }
  s.issue f fun act s => if s.hwaitReady act then s.hwaitDone d act else s.park (.hwait d)

/-- HWAIT_COMPLETE. -/
def execHwaitComplete (p : Party) (s : State) : Outcome :=
  let s := { s with cur := p }
  let act := s.waitLanes p
  .next (match (s.ctx p).wait with
    | some (.hwait d) => if s.hwaitReady act then s.hwaitDone d act else s
    | _ => s)

/-! ### HDONE (R209, R251) -/

/-- Bytes that an entry asks of the allowance (R316). -/
def EbbKind.ask : EbbKind → Nat
  | .store bs _ => bs.length
  | .atoms xs => xs.foldl (fun n x => n + (if x.wide then 8 else 4) * (if x.fn = .cas then 2 else 1)) 0

/-- A helper's held entries join its recruiter's stream: behind it, counted, held as its interval is (R313). -/
def State.joinEntries (s : State) (core frame : Nat) : State :=
  let h := s.helper core frame
  let r : ThreadRef := .compute h.tk h.tid
  let t := s.thread r
  let mine := (s.cmem core).ebb.filter fun e => e.held && decide (e.stream = .helper core frame)
  let s := s.onCmem core fun m => { m with ebb := dropHelperEntries core frame m.ebb }
  forEach mine s fun e s =>
    let k := e.kind.asRecruiter t.lane r
    let new : EbbEntry :=
      { e with
        stream := .group h.tk t.gid
        seq := s.nextId
        op := s.nextId
        held := s.heldNow (.gang h.tk t.gid 0) k
        kind := k }
    let s := (s.onCmem core fun m => { m with ebb := m.ebb ++ [new] }).addUsed h.tk core k.ask
    { s with nextId := s.nextId + 1 }

/-- The commands that a helper entered follow its entries in its recruiter's stream (R209, R322). -/
def State.joinCommands (s : State) (core frame : Nat) : State :=
  let h := s.helper core frame
  let join (e : EngEntry) : EngEntry := match e with
    | .cmd c => if c.ref = .helper core frame then .cmd { c with ref := .compute h.tk h.tid, mark := s.nextId } else e
    | .fence _ _ => e
  s.onTeam h.tk fun t =>
    { t with engines := tmap (fun _ e => { e with entries := e.entries.map join }) t.engines }

/-- A helper completes. -/
def State.helperDone (s : State) (core frame : Nat) : State :=
  let h := s.helper core frame
  let mine := (s.thread (.helper core frame)).hr
  let s := s.onThread (.compute h.tk h.tid) fun t => { t with hr := t.hr ++ mine }
  let s := (s.joinEntries core frame).joinCommands core frame
  let s := s.onThread (.helper core frame) fun t => { t with hr := [], lease := none }
  s.stopHelper core frame .completed

/-- The helpers of lanes complete. -/
def State.helpersDone (s : State) (act : List Lane) : State :=
  forEach act s fun l s => match l.ref with | .helper c f => s.helperDone c f | _ => s

/-- HDONE. -/
def execHdone (s : State) : Outcome :=
  let f : Form := { service := false, pfxG := true }
  s.issue f fun act s =>
    if streamOf s.cur = .helper then (s.finish f act).helpersDone act else s.raiseCause act 0x10

/-! ### Steps of a helper's life -/

/-- HELPER_START (R208, R212). -/
def execHelperStart (core quad : Nat) (s : State) : Outcome :=
  let go (k : Nat × Nat) (h : Helper) : Helper :=
    if k.1 = core ∧ h.quad = quad ∧ h.st = .granted then { h with st := .running } else h
  .next { s with helpers := tmap go s.helpers }

/-- The helpers that run on a donor group's lanes. -/
def State.helpersOn (s : State) (tk gid : Nat) : List (Nat × Nat) :=
  s.helpers.filterMap fun x =>
    if x.2.tk = tk ∧ x.2.donor = gid ∧ x.1.1 = (s.group tk gid).core
        ∧ (x.2.st = .granted ∨ x.2.st = .running) then some x.1 else none

/-- The donor group needs the lane that a helper runs on, or its team has left the core (R210). -/
def State.mustRelease (s : State) (h : Helper) : Bool :=
  let g := s.group h.tk h.donor
  let t := s.team h.tk
  h.leaves || !g.live || t.preempted || t.failed.isSome || decide ((s.ctx (.gang h.tk h.donor (h.quad - g.quad0))).m ≠ 0 ∧ g.quad0 ≤ h.quad)

/-- The helper is in its context, its lane is needed, and it stands at an instruction boundary (R62, R210). -/
def State.releasable (s : State) (core : Nat) (h : Helper) : Bool :=
  (decide (h.st = .granted) || decide (h.st = .running)) && s.mustRelease h && (s.ctx (.helper core h.quad)).atBoundary

/-- The helpers on a group's lanes are to stop: those at an instruction boundary do. -/
def State.releaseOn (s : State) (tk gid : Nat) : State :=
  forEach (s.helpersOn tk gid) s fun k s =>
    if (s.ctx (.helper k.1 (s.helper k.1 k.2).quad)).atBoundary then s.stopHelper k.1 k.2 .released
    else s.onHelper k.1 k.2 fun h => { h with leaves := true }

/-- HELPER_RELEASE (R210). -/
def execHelperRelease (core quad : Nat) (s : State) : Outcome :=
  .next (forEach s.helpers s fun x s =>
    if x.1.1 = core ∧ x.2.quad = quad ∧ s.releasable core x.2 = true then s.stopHelper x.1.1 x.1.2 .released else s)

end Sys2Proof.Machine
end

