-- ==== Sys2Proof/Machine/Control.lean ====
section
/-! DEFINITION. The reconvergence stack with its spill area, schedule(), and the branches, calls and exits of majors 0x2C
and 0x2D (07_thread_memory_control.md R161-R167). An instruction here leaves its quads as R165 says; schedule() runs at the
end of the step. -/
namespace Sys2Proof.Machine

/-! ### The stack (R161-R163) -/

/-- Entries that a party's stack holds at most (R162). -/
def stackLimit : Party → Nat
  | .helper _ _ => 8
  | _ => 16

/-- Entries that the sequencer holds. -/
def sequencerEntries : Nat := 8

/-- The threads whose register spaces hold the spilled entries of a context: every live lane of the quad. -/
def State.spillThreads (s : State) (p : Party) : List ThreadRef :=
  match p with
  | .gang tk gid q => (s.quadLanes tk gid q 0xF).map (·.ref)
  | .service n => [.service n]
  | _ => []

/-- The lanes of a context that are live. -/
def State.liveMask (s : State) (p : Party) : BitVec 4 :=
  match p with
  | .gang tk gid q => s.quadLive tk gid q
  | _ => 0xF

/-- The word of a party's register space at which spilled entry k begins. -/
def State.spillWord (s : State) (p : Party) (k : Nat) : Nat :=
  (match p with
    | .gang tk _ _ => (s.team tk).launch.s / 4
    | _ => 512) - 16 + 2 * k

/-- The two words of a spilled entry (R163). -/
def Entry.word (e : Entry) : DWord :=
  (BitVec.ofBool e.token ++ (0 : BitVec 1) ++ e.mask ++ e.pc.extractLsb' 2 58 : BitVec 64)

/-- An entry as its words give it. -/
def entryOf (x : DWord) (live : BitVec 4) : Entry :=
  ⟨x.getLsbD 63, x.extractLsb' 58 4 &&& live, (x.extractLsb' 0 58 ++ (0 : BitVec 2) : BitVec 60)⟩

/-- Spilled entry k, read from the lowest-numbered live lane. -/
def State.spilledEntry (s : State) (p : Party) (k : Nat) : Entry :=
  match s.spillThreads p with
  | r :: _ =>
    let t := s.thread r
    let w := s.spillWord p k
    entryOf (t.word (w + 1) ++ t.word w) (s.liveMask p)
  | [] => ⟨false, 0, 0⟩

/-- The whole stack of a context, topmost first. -/
def State.fullStack (s : State) (p : Party) : List Entry :=
  let c := s.ctx p
  c.stack ++ ((upto c.spilled).reverse.map (s.spilledEntry p))

/-- One spilled entry written in every live lane of the quad. -/
def State.spill (s : State) (p : Party) (k : Nat) (e : Entry) : State :=
  let w := s.spillWord p k
  forEach (s.spillThreads p) s fun r s => s.onThread r fun t =>
    (t.setWord w (e.word.extractLsb' 0 32)).setWord (w + 1) (e.word.extractLsb' 32 32)

/-- The stack of a context replaced: the 8 topmost entries in the sequencer, those below written where they are new. -/
def State.setStack (s : State) (p : Party) (st : List Entry) : State :=
  let c := s.ctx p
  let below := (st.drop sequencerEntries).reverse
  let s := forEach (upto below.length) s fun k s =>
    match below[k]? with
    | some e => if k < c.spilled ∧ s.spilledEntry p k = e then s else s.spill p k e
    | none => s
  s.onCtx p fun c => { c with stack := st.take sequencerEntries, spilled := below.length }

/-! ### schedule() (R161) -/

/-- What schedule() works on. -/
structure Quad where
  pc : VAddr
  m : BitVec 4
  stack : List Entry
  idle : Bool
  deriving DecidableEq, Repr

/-- schedule(), with fuel for its loop: each turn returns, removes an entry or runs a lower path. -/
def schedule : Nat → Quad → Quad
  | 0, q => q
  | fuel + 1, q =>
    let above := q.stack.takeWhile fun e => !e.token
    let rest := q.stack.dropWhile fun e => !e.token
    let m := match rest with
      | t :: _ => if q.pc = t.pc then 0 else q.m
      | [] => q.m
    let here (e : Entry) : Bool := decide (m ≠ 0) && decide (e.pc = q.pc)
    let merged := (above.filter here).foldl (fun m e => m ||| e.mask) m
    let paths := above.filter fun e => !here e
    match leastBy (fun e => e.pc.toNat) paths with
    | some lo =>
      if merged ≠ 0 ∧ q.pc < lo.pc then { q with m := merged, stack := paths ++ rest }
      else
        let left := paths.erase lo
        let left := if merged ≠ 0 then ⟨false, merged, q.pc⟩ :: left else left
        schedule fuel { q with pc := lo.pc, m := lo.mask, stack := left ++ rest }
    | none =>
      if merged ≠ 0 then { q with m := merged, stack := rest }
      else match rest with
        | [] => { q with m := 0, stack := [], idle := true }
        | t :: rest => schedule fuel { q with pc := t.pc, m := t.mask, stack := rest }

/-- schedule() of one context. -/
def State.runSchedule (s : State) (p : Party) : State :=
  let c := s.ctx p
  if c.idle then s
  else
    let st := s.fullStack p
    let q := schedule (2 * st.length + 4) ⟨c.pc, c.m, st, false⟩
    (s.setStack p q.stack).onCtx p fun c => { c with pc := q.pc, m := q.m, idle := q.idle }

/-! ### Moves -/

/-- What an instruction leaves a quad with. -/
structure Move where
  pc : VAddr
  m : BitVec 4
  stack : List Entry
  deriving DecidableEq, Repr

/-- The active lanes of one context as its quad numbers them. -/
def State.quadActive (s : State) (p : Party) (act : List Lane) : BitVec 4 :=
  ((s.ctxLanes p).filter act.contains).foldl (fun m l => m ||| BitVec.ofNat 4 (2 ^ (l.ix % 4))) 0

/-- A control instruction: `fn` gives each quad of the gang its move from its context and its active lanes, `eff` is what
it does beside that. A stack that would grow past its limit is a spill failure, which changes nothing (R162). -/
def State.control (s : State) (f : Form) (act : List Lane) (eff : State → State)
    (fn : Party → Move → BitVec 4 → Move) : State :=
  let ps := s.gang s.cur
  let next := s.cctx.fetchPc + 4
  let moves := ps.map fun p => (p, fn p ⟨next, (s.ctx p).m, s.fullStack p⟩ (s.quadActive p act))
  let bad := moves.filter fun x => decide (stackLimit x.1 < x.2.stack.length)
  if bad ≠ [] then s.raiseCause (bad.flatMap fun x => (s.ctxLanes x.1).filter act.contains) 0x0E
  else
    let s := eff (s.finish f act)
    forEach moves s fun x s =>
      (s.setStack x.1 x.2.stack).onCtx x.1 fun c => { c with pc := x.2.pc, m := x.2.m }

/-- A branch of some lanes of a quad to a target (BRC of R165). -/
def Move.branch (v : Move) (target : VAddr) (taken : BitVec 4) : Move :=
  if taken = 0 then v
  else if taken = v.m then { v with pc := target }
  else { v with m := v.m &&& ~~~taken, stack := ⟨false, taken, target⟩ :: v.stack }

/-- The target of a format B or BRK word (R55, R164). -/
def State.branchTarget (s : State) {w : Nat} (o : BitVec w) : VAddr :=
  s.cctx.fetchPc + ((immWith s.cctx.run o).extractLsb' 0 60 <<< 2)

/-- The lanes of a context in which a predicate is true. -/
def State.trueLanes (s : State) (p : Party) (g : PredIx) : BitVec 4 :=
  s.quadActive p ((s.ctxLanes p).filter fun l => (s.thread l.ref).pred g)

/-- BRA (R165, R167). -/
def execBra (g : PredIx) (o : BitVec 21) (s : State) : Outcome :=
  let f : Form := { headland := true, limm := true }
  let target := s.branchTarget o
  s.issue f fun act s => s.control f act id fun p v _ =>
    if (s.ctxLanes p).all fun l => (s.thread l.ref).pred g then { v with pc := target } else v

/-- BRC (R165). -/
def execBrc (g : PredIx) (o : BitVec 21) (s : State) : Outcome :=
  let f : Form := { limm := true }
  let target := s.branchTarget o
  s.issue f fun act s => s.control f act id fun p v _ => v.branch target (s.trueLanes p g)

/-- CALL (R24, R165, R167): the region ends; the return address in each active lane, then the branch of those lanes. -/
def execCall (g : PredIx) (o : BitVec 21) (s : State) : Outcome :=
  let f : Form := { headland := true, limm := true, g := g }
  let target := s.branchTarget o
  let back := (s.cctx.fetchPc + 4).zeroExtend 64
  s.issue f fun act s => s.endRegion act fun s =>
    s.control f act (fun s => forEach act s fun l s => s.onThread l.ref (setSlot64 l.ref 30 back))
      fun _ v a => v.branch target a

/-- JOIN (R165). -/
def execJoin (o : BitVec 21) (s : State) : Outcome :=
  let f : Form := { limm := true }
  let target := s.branchTarget o
  s.issue f fun act s => s.control f act id fun _ v _ => { v with stack := ⟨true, v.m, target⟩ :: v.stack }

/-- The stack after BRK: lanes leave the topmost n tokens, emptied tokens go, their path stands below the n-th. -/
def brkStack (lanes : BitVec 4) (path : Entry) : Nat → List Entry → List Entry
  | 0, st => path :: st
  | _ + 1, [] => [path]
  | n + 1, e :: st =>
    if e.token then
      let left := e.mask &&& ~~~lanes
      let rest := brkStack lanes path n st
      if left = 0 then rest else { e with mask := left } :: rest
    else e :: brkStack lanes path (n + 1) st

/-- BRK (R165): the word holds n - 1. -/
def execBrk (g : PredIx) (o : BitVec 17) (n : BitVec 3) (s : State) : Outcome :=
  let f : Form := { limm := true, g := g }
  let target := s.branchTarget o
  s.issue f fun act s => s.control f act id fun _ v a =>
    if a = 0 then v
    else { v with m := v.m &&& ~~~a, stack := brkStack a ⟨false, a, target⟩ (n.toNat + 1) v.stack }

/-- The paths of lanes that go to targets of their own: one for each target, in lane order (R165). -/
def targetPaths (xs : List (Nat × VAddr)) : List Entry :=
  xs.foldl (fun ps x =>
    let bit : BitVec 4 := BitVec.ofNat 4 (2 ^ (x.1 % 4))
    if ps.any fun e => decide (e.pc = x.2) then
      ps.map fun e => if e.pc = x.2 then { e with mask := e.mask ||| bit } else e
    else ⟨false, bit, x.2⟩ :: ps) []

/-- RET and JMPR (R165, R166); RET ends the region (R24). -/
def State.jumpOp (s : State) (ret : Bool) (g : PredIx) (a : Src) : Outcome :=
  let f : Form := { headland := true, g := g, srcs := [r64 a] }
  s.issue f fun act s =>
    let xs := act.map fun l => (l, (s.reads f l).getD 0 0)
    match targetTrap xs with
    | some t => s.raise t
    | none =>
      let go (s : State) : State := s.control f act id fun p v a =>
        let mine := xs.filter fun (x : Lane × DWord) => (s.ctxLanes p).contains x.1
        { v with m := v.m &&& ~~~a
                 stack := targetPaths (mine.map fun (x : Lane × DWord) => (x.1.ix, x.2.extractLsb' 0 60)) ++ v.stack }
      if ret then s.endRegion act go else go s

/-- RET. -/
def execRet (g : PredIx) (a : Src) (s : State) : Outcome := s.jumpOp true g a

/-- JMPR. -/
def execJmpr (g : PredIx) (a : Src) (s : State) : Outcome := s.jumpOp false g a

/-! ### EXIT -/

/-- A thread that has exited: its gather streams and its lease are gone (R332, R342). -/
def Thread.exited (t : Thread) : Thread := { t with live := false, streams := [], hr := [], lease := none }

/-- The threads of lanes exit: barriers take their arrive-and-drop (R165, R216); whether a phase completed. -/
def State.exitThreads (s : State) (act : List Lane) : State × Bool :=
  let s := forEach act s fun l s => match l.ref with
    | .compute _ _ => s.onThread l.ref Thread.exited
    | _ => s
  match s.cur with
  | .gang tk _ _ =>
    s.dropThreads tk (upto 16) (sortBy id (act.filterMap fun l => match l.ref with | .compute _ t => some t | _ => none))
  | .headland tk => (s.onTeam tk fun t => { t with hEnded := true }, false)
  | _ => (s, false)

/-- An entry without lanes. -/
def Entry.without (lanes : BitVec 4) (e : Entry) : Entry := { e with mask := e.mask &&& ~~~lanes }

/-- EXIT (R24, R165, R167): the region ends; in a helper it acts as HDONE (R208). -/
def execExit (g : PredIx) (s : State) : Outcome :=
  let f : Form := { headland := true, g := g }
  s.issue f fun act s =>
    let open_ := act.filter fun l => (s.recruitOf l).isSome
    if open_ ≠ [] then s.raiseCause open_ 0x10
    else match s.cur with
      | .helper _ _ => (s.finish f act).helpersDone act
      | _ => s.endRegion act fun s =>
        let s := s.control f act id fun _ v a => { v with m := v.m &&& ~~~a, stack := v.stack.map (Entry.without a) }
        let r := s.exitThreads act
        match s.cur with
        | .gang tk _ _ => r.1.phaseCheckpoint tk r.2
        | _ => r.1

end Sys2Proof.Machine
end

