-- ==== Sys2Proof/Machine/CrossLane.lean ====
section
/-! DEFINITION. The cross-lane instructions: member masks and major 0x30, shuffles, reductions and scans of major 0x31
(09_core_instructions.md R236-R242). -/
namespace Sys2Proof.Machine

/-! ### Members (R236, R237) -/

/-- Width of the issuing group. -/
def State.groupWidth (s : State) : Nat :=
  match s.cur with
  | .gang tk gid _ => (s.group tk gid).width
  | _ => 1

/-- No thread lives in a lane of the issuing group: it has exited, was filed, or is vacant. -/
def State.laneAbsent (s : State) (j : Nat) : Bool :=
  match s.cur with
  | .gang tk gid _ => (s.laneThread tk gid j).isNone
  | _ => true

/-- The members: their mask and whether a named one is absent; none where the masks are illegal. -/
def State.members (s : State) (act : List Lane) (bs : List DWord) : Option (BitVec 64 × Bool) :=
  let w := s.groupWidth
  let cut (x : DWord) : BitVec 64 := BitVec.ofNat 64 (x.toNat % 2 ^ w)
  match bs with
  | [] => none
  | b :: rest =>
    let m := cut b
    if rest.any fun x => decide (cut x ≠ m) then none
    else if m = 0 then some (laneMask act, false)
    else
      let live := laneMask act
      let named := (upto w).filter fun j => m.getLsbD j
      if named.any fun j => !live.getLsbD j && !s.laneAbsent j then none
      else if decide (live &&& ~~~m ≠ 0) then none
      else some (m, named.any fun j => !live.getLsbD j)

/-- A member-mask instruction: `fn` gives each active lane its result from the lanes that are present members. -/
def State.memberOp (s : State) (f : Form) (bAt : Nat) (fn : State → List (Lane × List DWord) → Lane × List DWord → LaneOut) :
    Outcome :=
  s.issue { f with service := false, helperBad := true } fun act s =>
    let xs := act.map fun l => (l, s.reads f l)
    match s.members act (xs.map fun (x : Lane × List DWord) => x.2.getD bAt 0) with
    | none => s.raiseCause act 0x07
    | some (m, absent) =>
      let present := xs.filter fun x => m.getLsbD x.1.ix
      let outs := xs.map fun x => (x.1, fn s present x)
      let s := if absent && decide (s.room act f.dest = .ok) then
          forEach act s fun l s => s.onThread l.ref fun t => { t with xstat := t.xstat ||| xstatAM }
        else s
      s.commit f act outs

/-- The predicate of a member. -/
def State.memberPred (s : State) (q : PredIx) (x : Lane × List DWord) : Bool := (s.thread x.1.ref).pred q

/-- The mask of lanes of which something holds. -/
def maskWhere (xs : List (Lane × List DWord)) (p : Lane × List DWord → Bool) : DWord := laneMask ((xs.filter p).map (·.1))

/-- VOTE.OR (R238). -/
def execVoteOr (p q : PredIx) (b : Src) (g : PredIx) (s : State) : Outcome :=
  s.memberOp { g := g, srcs := [r64 b], pred := some p } 0 fun s ms _ => { pred := ms.any (s.memberPred q) }

/-- VOTE.AND. -/
def execVoteAnd (p q : PredIx) (b : Src) (g : PredIx) (s : State) : Outcome :=
  s.memberOp { g := g, srcs := [r64 b], pred := some p } 0 fun s ms _ => { pred := ms.all (s.memberPred q) }

/-- VOTE.EQ. -/
def execVoteEq (p q : PredIx) (b : Src) (g : PredIx) (s : State) : Outcome :=
  s.memberOp { g := g, srcs := [r64 b], pred := some p } 0 fun s ms _ =>
    { pred := ms.all (s.memberPred q) || !ms.any (s.memberPred q) }

/-- BALLOT. -/
def execBallot (d : Dest) (q : PredIx) (b : Src) (g : PredIx) (s : State) : Outcome :=
  s.memberOp { g := g, srcs := [r64 b], dest := some (d, true) } 0 fun s ms _ => { val := maskWhere ms (s.memberPred q) }

/-- ELECT. -/
def execElect (p : PredIx) (b : Src) (g : PredIx) (s : State) : Outcome :=
  s.memberOp { g := g, srcs := [r64 b], pred := some p } 0 fun _ ms x =>
    { pred := match ms with | y :: _ => decide (y.1.ix = x.1.ix) | [] => false }

/-- MATCH. -/
def execMatchL (d : Dest) (a b : Src) (g : PredIx) (s : State) : Outcome :=
  s.memberOp { g := g, srcs := [r32 a, r64 b], dest := some (d, true) } 1 fun _ ms x =>
    { val := maskWhere ms fun y => decide (low (y.2.getD 0 0) = low (x.2.getD 0 0)) }

/-- VOTE.CNT. -/
def execVoteCnt (d : Dest) (q : PredIx) (b : Src) (g : PredIx) (s : State) : Outcome :=
  s.memberOp { g := g, srcs := [r64 b], dest := some (d, false) } 0 fun s ms _ =>
    { val := BitVec.ofNat 64 (ms.filter (s.memberPred q)).length }

/-! ### Shuffles (R240, R241) -/

/-- The form of major 0x31. -/
def formLane (g : PredIx) (d : Dest) (srcs : List Operand) : Form :=
  { service := false, helperBad := true, g := g, srcs := srcs, dest := some (d, false) }

/-- What one lane of a shuffle receives, given every active lane with its sources, and whether its source lane is
absent. -/
def shufflePick (from_ : Nat → Nat → Nat → Option Nat) (w : Nat) (xs : List (Lane × List DWord)) (x : Lane × List DWord) :
    Lane × LaneOut × Bool :=
  let own := x.2.getD 0 0
  match from_ w x.1.ix (low (x.2.getD 1 0)).toNat with
  | none => (x.1, { val := own }, false)
  | some j => match xs.find? fun y => decide (y.1.ix = j) with
    | some y => (x.1, { val := y.2.getD 0 0 }, false)
    | none => (x.1, { val := own }, true)

/-- A shuffle: `from_` names the source lane, nothing at the boundary. -/
def State.shuffle (s : State) (d : Dest) (a b : Src) (g : PredIx) (from_ : Nat → Nat → Nat → Option Nat) : Outcome :=
  let f := formLane g d [r32 a, r32 b]
  s.issue f fun act s =>
    let xs := act.map fun l => (l, s.reads f l)
    let outs := xs.map (shufflePick from_ s.groupWidth xs)
    let s := if s.room act f.dest = .ok then
        forEach (outs.filter fun x => x.2.2) s fun x s => s.onThread x.1.ref fun t => { t with xstat := t.xstat ||| xstatAM }
      else s
    s.commit f act (outs.map fun x => (x.1, x.2.1))

/-- SHFL.IDX. -/
def execShflIdx (d : Dest) (a b : Src) (g : PredIx) (s : State) : Outcome :=
  s.shuffle d a b g fun w _ n => some (n % w)

/-- SHFL.UP. -/
def execShflUp (d : Dest) (a b : Src) (g : PredIx) (s : State) : Outcome :=
  s.shuffle d a b g fun _ l n => if l < n then none else some (l - n)

/-- SHFL.DN. -/
def execShflDn (d : Dest) (a b : Src) (g : PredIx) (s : State) : Outcome :=
  s.shuffle d a b g fun w l n => if w ≤ l + n then none else some (l + n)

/-- SHFL.XOR. -/
def execShflXor (d : Dest) (a b : Src) (g : PredIx) (s : State) : Outcome :=
  s.shuffle d a b g fun w l n => some (l ^^^ (n &&& (w - 1)))

/-! ### Reductions and scans (R240, R242) -/

/-- A reduction or scan over the active lanes: `fn` from the values with their lanes. -/
def State.reduce (s : State) (d : Dest) (a : Src) (g : PredIx) (fn : List (Nat × Word) → Nat → LaneOut) : Outcome :=
  let f := formLane g d [r32 a]
  s.issue f fun act s =>
    let xs := act.map fun l => (l.ix, low ((s.reads f l).getD 0 0))
    s.commit f act (act.map fun l => (l, fn xs l.ix))

/-- A reduction by a binary function over at least one value. -/
def foldWords (f : Word → Word → Word) (xs : List (Nat × Word)) : Word :=
  match xs with
  | [] => 0
  | x :: rest => rest.foldl (fun acc y => f acc y.2) x.2

/-- A reduction whose result is the same in every lane. -/
def State.reduceBy (s : State) (d : Dest) (a : Src) (g : PredIx) (f : Word → Word → Word) : Outcome :=
  s.reduce d a g fun xs _ => { val := up (foldWords f xs) }

/-- REDG.ADD. -/
def execRedgAdd (d : Dest) (a : Src) (g : PredIx) (s : State) : Outcome := s.reduceBy d a g (· + ·)
/-- REDG.MIN. -/
def execRedgMin (d : Dest) (a : Src) (g : PredIx) (s : State) : Outcome := s.reduceBy d a g minW
/-- REDG.MIN.N. -/
def execRedgMinN (d : Dest) (a : Src) (g : PredIx) (s : State) : Outcome := s.reduceBy d a g minNW
/-- REDG.MAX. -/
def execRedgMax (d : Dest) (a : Src) (g : PredIx) (s : State) : Outcome := s.reduceBy d a g maxW
/-- REDG.MAX.N. -/
def execRedgMaxN (d : Dest) (a : Src) (g : PredIx) (s : State) : Outcome := s.reduceBy d a g maxNW
/-- REDG.AND. -/
def execRedgAnd (d : Dest) (a : Src) (g : PredIx) (s : State) : Outcome := s.reduceBy d a g (· &&& ·)
/-- REDG.OR. -/
def execRedgOr (d : Dest) (a : Src) (g : PredIx) (s : State) : Outcome := s.reduceBy d a g (· ||| ·)
/-- REDG.XOR. -/
def execRedgXor (d : Dest) (a : Src) (g : PredIx) (s : State) : Outcome := s.reduceBy d a g (· ^^^ ·)

/-- REDG.FADD (R242). -/
def execRedgFadd (d : Dest) (a : Src) (g : PredIx) (s : State) : Outcome :=
  s.reduce d a g fun xs _ => (groupSum (xs.map (·.2.toNat))).out

/-- The wrapped sum of the values of some lanes. -/
def sumWhere (xs : List (Nat × Word)) (p : Nat → Bool) : Word :=
  (xs.filter fun x => p x.1).foldl (fun acc x => acc + x.2) 0

/-- SCANG.ADD. -/
def execScangAdd (d : Dest) (a : Src) (g : PredIx) (s : State) : Outcome :=
  s.reduce d a g fun xs l => { val := up (sumWhere xs fun j => decide (j ≤ l)) }

/-- SCANG.ADDX. -/
def execScangAddx (d : Dest) (a : Src) (g : PredIx) (s : State) : Outcome :=
  s.reduce d a g fun xs l => { val := up (sumWhere xs fun j => decide (j < l)) }

end Sys2Proof.Machine
end

