-- ==== Sys2Proof/Machine/Home.lean ====
section
/-! DEFINITION. The home slices and the fabric as the messages between packages reach them: READ, WRITE, ATOMIC, FWD, DATA,
CLOSE, WBACK, ERR, HOLD and the two timeouts (15_package_memory_model.md R384-R391, 18_fabric.md R448-R456,
19_fabric_program.md R473). A message names words by address; its owner word says who sent it. -/
namespace Sys2Proof.Machine

/-- The words of a line that a mask names. -/
def maskWords (line mask : Nat) : List Nat :=
  (upto 16).filterMap fun i => if mask.testBit i then some (line / 64 * 64 + 4 * i) else none

/-- The word has its home in this package. -/
def State.homedHere (s : State) (w : Nat) : Bool := decide (s.target (s.fab.pid.toNat * 2 ^ 44 + w % 2 ^ 44) = .mem)

/-- A message from an owner's package is discarded: the package is fenced (R456). -/
def State.shutMessage (s : State) (o : Owner) : Bool := decide (o.pkg ≠ s.fab.pid.toNat) && s.fenced o.pkg

/-- A HOLD to a requester of another package about a word, naming the package in recovery (R454, R473). -/
def State.sendHold (s : State) (o : Owner) (req w recovering : Nat) : State :=
  if o.pkg = s.fab.pid.toNat then s
  else s.send { kind := .hold, to_ := o.pkg, line := s.fullPa w / 64 * 64, words := [(s.fullPa w, 0)], req := req
                holds := some recovering }

/-- The requester of another package learns of a HOLD that is in force for a forward of one of its words, and of this
package's own recovery (R454, R473). -/
def State.tellHold (s : State) (o : Owner) (req : Nat) (ws : List Nat) : State :=
  match s.held.find? fun h => ws.contains h.word && h.extended with
  | some h => s.sendHold o req h.word h.owner.pkg
  | none => if s.fab.recov then s.sendHold o req (ws.headD 0) s.fab.pid.toNat else s

/-- A cause that a request of another package meets: a race is counted here, the requester takes it (R404, R405). -/
def State.refuseWith (s : State) (o : Owner) (req w : Nat) (c : MemCause) : State :=
  (s.countRaces [c]).replyTo o .err req w [(s.fullPa w, 0)] (some c)

/-! ### Requests -/

/-- A read of one word. -/
def State.serveRead (s : State) (o : Owner) (w req : Nat) : State :=
  let asks := if o.pkg = s.fab.pid.toNat then none else some (o.pkg, req)
  match s.atHome (.message (.read o w req)) [w] fun s => s.homeRead o w asks with
  | (s', .done v) =>
    if s'.localOwner o then s'.fillCaches o.agent w 0 63 else s'.replyTo o .data req w [(s'.fullPa w, v)]
  | (s', .fault c) => s'.refuseWith o req w c
  | (s', .wait) => s'.tellHold o req [w]

/-- READ (R389, R391): each word is served by itself. -/
def execRead (o : Sender) (line mask : Nat) (s : State) : Outcome :=
  let own := ownerOfBits o.owner
  .next (if s.shutMessage own then s
    else forEach ((maskWords (line % 2 ^ 44) mask).filter s.homedHere) s fun w s => s.serveRead own w o.req)

/-- A word made ready for a registration; a write of less than the word needs its data (R389, R435). -/
def State.claimWord (s : State) (o : Owner) (w : Nat) (full : Bool) : State × Reply Unit :=
  if s.contained w then (s, .wait)
  else if (s.wordSt w).isNone && s.poisoned w && !full then (s, .fault causePoison)
  else match s.homeClaim o [w] fun _ => claimKind full with
    | (s', .done bad) => (s', match bad with | x :: _ => .fault x.2 | [] => .done ())
    | (s', .fault c) => (s', .fault c)
    | (s', .wait) => (s', .wait)

/-- A registration of one word: its writer receives its data. -/
def State.serveWrite (s : State) (o : Owner) (w : Nat) (strong full : Bool) (req : Nat) : State :=
  match s.atHome (.message (.write o w strong full req)) [w] fun s => s.claimWord o w full with
  | (s', .done _) =>
    let v := mword w s'.mem
    let s' := if full then s'.healWord w else s'
    { s' with words := tset w (registered (s'.wordSt w) o 0 63 strong) s'.words }.replyTo o .data req w [(s'.fullPa w, v)]
  | (s', .fault c) => s'.refuseWith o req w c
  | (s', .wait) => s'.tellHold o req [w]

/-- WRITE (R389): the word is registered to the writer. -/
def execWrite (o : Sender) (word : Nat) (mode : WriteMode) (s : State) : Outcome :=
  let own := ownerOfBits o.owner
  let w := word % 2 ^ 44 / 4 * 4
  .next (if s.shutMessage own || !s.homedHere w then s else s.serveWrite own w mode.strong mode.full o.req)

/-- The requester's own registration of a word has yet to come back to its home (R388, R389). -/
def State.backOwed (s : State) (o : Owner) (w : Nat) : Bool := !s.localOwner o && s.ownsWord o w

/-- The words of an atomic of a message made ready, when its turn has come (R384). -/
def State.claimFor (s : State) (a : Asker) (ws : List Nat) : State × Reply Unit :=
  s.atHome a.who ws fun s => if ws.any (s.backOwed a.owner) then (s, .wait) else s.readyAtom a ws

/-- An atomic or an SCA add at the home slice: the words are V after it (R389, R411). -/
def State.serveAtomic (s : State) (o : Owner) (pa : Nat) (x : MsgAtom) (req : Nat) : State :=
  let ws := atomWords pa x.wide
  match s.claimFor ⟨.message (.atomic o pa x req), o, o.agent, 0, 63⟩ ws with
  | (s', .done _) =>
    let r := (forEach ws s' fun w s => s.makeV w).applyAtom pa x
    let s := if r.1.localOwner o then forEach ws r.1 fun w s => (s.dropL1 o.agent w).writeThrough o.agent w else r.1
    s.replyTo o .data req pa ((s.fullPa pa, r.2.extractLsb' 0 32)
      :: if x.wide then [(s.fullPa pa + 4, r.2.extractLsb' 32 32)] else [])
  | (s', .fault c) => s'.refuseWith o req pa c
  | (s', .wait) => s'.tellHold o req ws

/-- ATOMIC (R389, R411). -/
def execAtomic (o : Sender) (word : Nat) (wide : Bool) (fn : AtomFn) (x cmp : DWord) (s : State) : Outcome :=
  let own := ownerOfBits o.owner
  let pa := word % 2 ^ 44 / (if wide then 8 else 4) * (if wide then 8 else 4)
  .next (if s.shutMessage own || !s.homedHere pa then s else s.serveAtomic own pa ⟨fn, wide, x, cmp⟩ o.req)

/-- A read of a word by a host bridge: for ownership it registers the word (R462). -/
def State.serveHost (s : State) (o : Owner) (w : Nat) (own : Bool) : State :=
  let r : State × Reply Unit := s.atHome (.message (.host o w own)) [w] fun s =>
    if own then s.claimWord o w true
    else match s.homeRead o w with
      | (s', .done _) => (s', .done ())
      | (s', .fault c) => (s', .fault c)
      | (s', .wait) => (s', .wait)
  match r with
  | (s', .done _) => if own then { s' with words := tset w (.closed o 0 63 false) s'.words } else s'
  | (s', .fault c) => s'.countRaces [c]
  | (s', .wait) => s'

/-- A request that waited at a home slice, when its turn has come (R384). -/
def State.serveMsg (s : State) : HomeMsg → State
  | .read o w req => s.serveRead o w req
  | .write o w strong full req => s.serveWrite o w strong full req
  | .atomic o pa x req => s.serveAtomic o pa x req
  | .host o w own => s.serveHost o w own

/-- The messages that stand first in the queue of a word with no forward outstanding are served (R384). -/
def State.serveQueues (s : State) : State :=
  forEach s.queue s fun x s =>
    if s.heldWord x.1 then s
    else match s.queueOf x.1 with
      | .message m :: _ => if s.shutMessage m.asks.1 then s.leaveQueues (.message m) else s.serveMsg m
      | _ => s

/-- The device's own writes that waited for a recall, one after another (R480): the first that still waits has its word
recalled. -/
def State.servePending (s : State) : Nat → State
  | 0 => s
  | n + 1 => match s.devPending with
    | [] => s
    | x :: rest =>
      let w := x.1 / 4 * 4
      if s.devReady w then State.servePending ({ s with devPending := rest }.devPut x.1 x.2) n
      else match (s.wordSt w).bind WordSt.owner? with
        | some o => if s.localOwner o then s else s.forward w o .recall
        | none => s

/-! ### At an owner of this package -/

/-- Owners of this package answer the forwards of words whose home is here: those that one message names together (R389, R391,
R413). -/
def State.answerHere (s : State) (ws : List Nat) : State :=
  let mine (w : Nat) : Option Held := s.held.find? fun h => decide (h.word = w) && s.localOwner h.owner
  let taken := ws.filter fun w => (mine w).any fun h => h.kind.takes
  let read := (ws.filterMap mine).filter fun h => !h.kind.takes
  let s := forEach taken (s.revoke taken) fun w s => s.unhold w
  forEach read s fun h s => (s.giveLine h.owner h.word).unhold h.word

/-- The registrations of this package on words of another one that a forward may ask for: every closed one; for a recall by the
device's own writes an open one as well (R480). -/
def State.guestsFor (s : State) (kind : FwdKind) (ws : List Nat) : List (Nat × GuestReg) :=
  ws.filterMap fun w => match tget w s.guestRegs with
    | some g => if g.isOpen && decide (kind ≠ .recall) then none else some (w, g)
    | none => none

/-- A registration that a word's home has yet to answer: a forward of it waits (R448). -/
def State.asksFor (s : State) (w : Nat) : Bool :=
  s.fab.requests.any fun r => decide (r.kind = .write) && r.words.contains w && decide (r.result = .wait)

/-- An owner gives a word of another package up: a registration that it has been granted for an access goes with it; after a
read it keeps a clean copy (R391). -/
def State.giveGuest (s : State) (kind : FwdKind) (w : Nat) (g : GuestReg) : State :=
  let granted (r : Request) : Bool := decide (r.kind = .write) && r.words.contains w
  let s := { s with
    guestRegs := tdel w s.guestRegs
    fab := { s.fab with requests := s.fab.requests.filter fun r => !granted r } }
  s.onCmem g.owner.agent fun m =>
    { m with l1 := if kind.takes then tdel (farKey w) m.l1 else tset (farKey w) ⟨g.val, g.asn, g.region⟩ m.l1 }

/-- An answer to a request: it takes the words in; a registration stands from then on (R389, R449). One that comes after the
deadline finds its request ended with an error (R452). -/
def State.takeAnswer (s : State) (req : Nat) (words : List (Nat × Word)) (states : List (Nat × BitVec 2)) : State :=
  let due (r : Request) : Bool := decide (r.id = req) && !s.fenced (r.line / 2 ^ 44)
  if s.fab.requests.any fun r => due r && decide (r.deadline < s.time.toNat) then s.failRequests due causeLost
  else
    let other := (states.filter fun x => decide (x.2 ≠ 0)).map (·.1)
    let next (r : Request) : Option Request :=
      if !due r || decide (r.result ≠ .wait) then some r
      else if r.kind = .close then none
      else some { r with
        answer := some (words.foldl (fun t x => tset x.1 x.2 t) (r.answer.getD [])), registered := r.registered ++ other }
    let grant (r : Request) (s : State) : State :=
      let a : Asker := ⟨r.for_, r.owner, r.owner.agent, r.asn, r.region⟩
      forEach (words.filter fun x => r.words.contains x.1) s fun x s =>
        if (s.ownGuest r.owner x.1).isSome then s else s.putGuest a x.1 x.2 (!r.strong)
    let granted := s.fab.requests.filter fun r => due r && decide (r.result = .wait) && decide (r.kind = .write)
    let s := { s with fab := { s.fab with requests := s.fab.requests.filterMap next } }
    forEach granted s grant

/-- An owner of this package answers a forward from another package's home: with the data of every closed word of the line
that it holds for a read, of the words named for a recall or a revoke; a read of another package is answered as well. It is
their owner no more (R391, R448). -/
def State.answerFar (s : State) (line : Nat) (named : Named) : State :=
  let asked := s.guestsFor named.kind (maskWords line named.mask)
  let ws := if named.kind.takes then asked
    else (s.guestsFor .forward (lineWords line)).filter fun x => asked.any fun y => decide (y.2.owner = x.2.owner)
  if ws = [] then s
  else
    let words := ws.map fun x => (x.1, x.2.val)
    let s := s.bumpAll ((ws.filter fun x => named.kind.takes && x.2.atom).map fun x => (x.2.owner.agent, x.1))
    let msg (to_ req : Nat) : Msg := { kind := .data, to_ := to_, line := line / 64 * 64, words := words, req := req }
    let home := line / 2 ^ 44
    let s := forEach ws (s.send (msg home 0)) fun x s => s.giveGuest named.kind x.1 x.2
    match named.asks with
    | some (pkg, req) =>
      if pkg = s.fab.pid.toNat then s.takeAnswer req words [] else if pkg = home then s else s.send (msg pkg req)
    | none => s

/-- A forward that cannot be answered yet: a registration of one of its words is still on its way here. -/
def State.early (s : State) (line : Nat) (named : Named) : Bool := (maskWords line named.mask).any s.asksFor

/-- A forward from another package's home: answered; or kept, until a registration that is on its way is here, and, with HOLD,
until recovery ends. The answer needs the core that holds the word, so that a package in recovery cannot give it at once
(R448, R454; DEDUCED from R475 and R477, notes/assumptions/123.md). -/
def State.fwdFar (s : State) (line : Nat) (named : Named) : State :=
  let ws := maskWords line named.mask
  if s.guestsFor named.kind ws = [] && !s.early line named then s
  else if s.fab.recov || s.early line named then
    let t := { s with fab := { s.fab with kept := s.fab.kept ++ [(line, named)] } }
    if s.fab.recov then t.send { kind := .hold, to_ := line / 2 ^ 44, line := line / 64 * 64, words := ws.map fun w => (w, 0)
                                 holds := some s.fab.pid.toNat }
    else t
  else s.answerFar line named

/-- The forwards that were kept and can be answered now (R454). -/
def State.answerKept (s : State) : State :=
  if s.fab.recov then s
  else
    let ready := s.fab.kept.filter fun x => !s.early x.1 x.2
    if ready = [] then s
    else forEach ready { s with fab := { s.fab with kept := s.fab.kept.filter fun x => s.early x.1 x.2 } } fun x s =>
      s.answerFar x.1 x.2

/-- FWD (R391): the owner answers; in recovery the fabric agent answers a forward of another package with HOLD (R454). -/
def execFwd (line : Nat) (named : Named) (s : State) : Outcome :=
  let home := line / 2 ^ 44
  .next (if home = s.fab.pid.toNat then s.answerHere (maskWords (line % 2 ^ 44) named.mask)
    else if s.fenced home then s
    else s.fwdFar line named)

/-! ### Answers -/

/-- Data of a word of this package from its owner: the word is V. The read that the owner has answered as well is over (R391). -/
def State.putData (s : State) (h : Held) (w : Nat) (v : Word) : State :=
  let s := (({ s with mem := msets w (natBytes 4 v.toNat) s.mem }.healWord w).makeV w)
  match h.asks, s.queueOf w with
  | some (pkg, req), .message (.read o w' n) :: _ =>
    if h.word = w ∧ w' = w ∧ o.pkg = pkg ∧ n = req then s.leaveQueues (.message (.read o w' n)) else s
  | _, _ => s

/-- An owner's answer to a forward of the line: the words that it holds closed are V, and one that it holds open is where the
device recalls it; an answer that comes after the deadline, or from another package than the forward went to, is discarded
(R391, R451, R453, R480). -/
def State.takeData (s : State) (sender w : Nat) (v : Word) (forwards : List Held) : State :=
  match forwards.find? fun h => decide (h.word / 64 = w / 64) && decide (h.owner.pkg = sender) with
  | none => s
  | some h => match s.wordSt w with
    | some (.closed o _ _ _) => if o = h.owner then s.putData h w v else s
    | some (.open_ o _ _) => if o = h.owner ∧ h.word = w ∧ h.kind = .recall then s.putData h w v else s
    | _ => s

/-- The entries whose registrations an answer has brought drain at once. -/
def State.drainGranted (s : State) (req : Nat) : State :=
  forEach (s.fab.requests.filter fun r => decide (r.id = req)) s fun r s => match r.for_ with
    | .entry agent seq => s.drainEntry agent seq
    | _ => s

/-- DATA (R391, R448): an owner's answer to a forward, or a home slice's, or an owner's, to a request. A message of a fenced
package is discarded (R456). -/
def execData (answer : Answer) (s : State) : Outcome :=
  let here := answer.words.filter fun x => decide (x.1 / 2 ^ 44 = s.fab.pid.toNat)
  let there := answer.words.filter fun x => decide (x.1 / 2 ^ 44 ≠ s.fab.pid.toNat)
  let live := s.held.filter fun h => decide (s.time.toNat ≤ h.deadline)
  .next (if s.fenced answer.sender then s
    else if here = [] then (s.takeAnswer answer.req there answer.states).drainGranted answer.req
    else forEach here s fun x s => s.takeData answer.sender (x.1 % 2 ^ 44 / 4 * 4) x.2 live)

/-- CLOSE (R389, R453): Ro to Rc; of any other word the message is discarded. It is acknowledged (R450). -/
def execClose (o : Sender) (line mask : Nat) (s : State) : Outcome :=
  let own := ownerOfBits o.owner
  .next (if s.shutMessage own then s
    else
      let ws := maskWords (line % 2 ^ 44) mask
      (forEach ws s fun w s => match s.wordSt w with
        | some (.open_ o' a r) => if o' = own then { s with words := tset w (.closed o' a r false) s.words } else s
        | _ => s).replyTo own .data o.req (ws.headD 0) [])

/-- WBACK (R388, R389, R453): the word is V with its owner's data, which for an owner of this package stands in `mem`: its L1
evicts a line for want of room alone (R441). -/
def execWback (o : Nat) (words : List (Nat × Word)) (s : State) : Outcome :=
  let own := ownerOfBits o
  let back (w : Nat) (v : Word) (s : State) : State :=
    let s := if s.localOwner own then s.dropL1 own.agent w
      else { s with mem := msets w (natBytes 4 v.toNat) s.mem }.healWord w
    s.makeV w
  .next (if s.shutMessage own || (s.localOwner own && !s.l1Full own.agent && decide (own.agent < 512)) then s
    else forEach words s fun x s =>
      let w := x.1 % 2 ^ 44 / 4 * 4
      if (s.wordSt w).any fun y => decide (y.owner? = some own) then back w x.2 s else s)

/-- An error reply as the cause that the requester takes (R149, R404). -/
def errCause (pa : Nat) (cause : BitVec 8) (aux : BitVec 24) : MemCause :=
  if cause = 0x09 then causePoison
  else if cause = 0x08 then { rank := 7, cause := 0x08, aux := aux, word := some (pa / 4 * 4 % 4096) }
  else causeLost

/-- ERR (R451, R452): the request completes with an error; its access takes the cause: a race that the home slice found, a
poisoned word's data, or 0x0A. -/
def execErr (req : Nat) (reply : ErrorReply) (s : State) : Outcome :=
  .next (s.failRequests (fun r => decide (r.id = req)) (errCause reply.pa reply.cause reply.aux))

/-! ### HOLD and the timeouts -/

/-- The hold limit in ac (R455, R472). -/
def State.holdLimit (s : State) : Nat := 1000 * usAc (Nat.max 1 s.fab.holdlim.toNat)

/-- HOLD (R455, R473), naming the package that is in recovery. At the home slice the first one moves the deadline of each
forward of the line to that package, and goes on to the requesters of other packages that wait behind it. At the sender the first
one moves the deadline of each request for the word; one that the home slice passed on gives the home slice's own time as
well. -/
def execHold (pa recovering : Nat) (s : State) : Outcome :=
  let line := pa / 64 * 64
  let now := s.time.toNat
  let here := decide (pa / 2 ^ 44 = s.fab.pid.toNat)
  .next (if s.fenced (if here then recovering else pa / 2 ^ 44) then s
    else if here then
      let due (h : Held) : Bool :=
        !h.extended && decide (s.fullPa h.word / 64 * 64 = line) && decide (h.owner.pkg = recovering)
      let first := s.held.filter due
      let move (h : Held) : Held := if due h then { h with deadline := now + s.holdLimit, extended := true } else h
      let s := { s with held := s.held.map move }
      forEach first s fun h s => forEach (s.queueOf h.word) s fun r s => match r with
        | .message m => s.sendHold m.asks.1 m.asks.2 h.word recovering
        | _ => s
    else
      let home := pa / 2 ^ 44
      let d := now + s.holdLimit + (if home = recovering then 0 else s.fwdLimit)
      let move (r : Request) : Request :=
        if r.words.contains (pa / 4 * 4) && !r.extended then { r with deadline := d, extended := true } else r
      { s with fab := { s.fab with requests := s.fab.requests.map move } })

/-- FORWARD_TIMEOUT (R451): the word of a forward whose deadline has come is lost, and every requester that waits is
answered with ERR; a requester of this package finds the word lost when its turn comes. -/
def execForwardTimeout (word : Nat) (s : State) : Outcome :=
  .next (match s.held.find? fun h => decide (h.word = word) with
    | none => s
    | some h => if s.time.toNat < h.deadline then s else s.expire word h.owner)

/-- REQUEST_TIMEOUT (R452). -/
def execRequestTimeout (id : Nat) (s : State) : Outcome :=
  .next (s.failRequests (fun r => decide (r.id = id) && decide (r.deadline ≤ s.time.toNat)) causeLost)

end Sys2Proof.Machine
end

