-- ==== Sys2Proof/Machine/Regroup.lean ====
section
/-! DEFINITION. REFORM, RGN and VIEW, the tidepools with their draws, and the live contexts of a core with their rotation
(08_core_execution.md R194-R204, 09_core_instructions.md R244-R247, 01_thread_state.md R17, R18, R20, R33). -/
namespace Sys2Proof.Machine

/-! ### Live contexts (R185, R194-R197) -/

/-- Groups of a core that hold a live context: those of a pre-empted team hold none. -/
def State.liveGroups (s : State) (core : Nat) : List ((Nat × Nat) × Group) :=
  s.groups.filter fun x => decide (x.2.core = core) && x.2.live && !x.2.ended && (s.team x.1.1).resident

/-- A core has a free live context. -/
def State.contextFree (s : State) (core : Nat) : Bool := decide ((s.liveGroups core).length < 32)

/-- The first quad of the range that a group takes when it becomes live (notes/assumptions/19.md). -/
def quadRange (gid width : Nat) : Nat := gid * (width / 4) % 16

/-- The context has a next word: it is not idle, has running lanes and is parked at nothing (R194). -/
def Ctx.hasNext (c : Ctx) : Bool := !c.idle && decide (c.m ≠ 0) && c.wait.isNone

/-- The context of a party has a next word, and no other gang of its group holds the group back (R170, R175, R194, R396). -/
def State.wordNext (s : State) (p : Party) : Bool := (s.ctx p).hasNext && !s.groupHeld p

/-- Some quad of a group has a next word: the group is Ready, or Standby while it holds no live context (R194). -/
def State.groupReady (s : State) (tk gid : Nat) : Bool :=
  (s.group tk gid).faulted.isNone && (s.group tk gid).quads.any fun q => s.wordNext (.gang tk gid q)

/-- The group stands at an instruction boundary (R62). -/
def State.atBoundary (s : State) (tk gid : Nat) : Bool :=
  (s.group tk gid).quads.all fun q => (s.ctx (.gang tk gid q)).atBoundary

/-- A group leaves its live context: a Ready one stands in the standby order from now on; the helpers on its lanes stop
(R196, R197, R210). -/
def State.leaveContext (s : State) (tk gid : Nat) : State :=
  let s := s.releaseOn tk gid
  let ready := s.groupReady tk gid
  s.onGroup tk gid fun g => { g with live := false, standby := ready, since := s.time.toNat }

/-- A group takes a live context. -/
def State.takeContext (s : State) (tk gid : Nat) : State :=
  s.onGroup tk gid fun g =>
    { g with live := true, standby := false, quad0 := quadRange gid g.width, since := s.time.toNat }

/-- The standby groups of a core: neither parked nor faulted, and without a live context. -/
def State.standby (s : State) (core : Nat) : List ((Nat × Nat) × Group) :=
  s.groups.filter fun x => decide (x.2.core = core) && !x.2.live && !x.2.ended && x.2.standby && x.2.faulted.isNone
    && (s.team x.1.1).resident

/-- The standby group of a core that has waited longest. -/
def State.firstStandby (s : State) (core : Nat) : Option ((Nat × Nat) × Group) :=
  leastBy (fun (x : (Nat × Nat) × Group) => x.2.since) (s.standby core)

/-- STANDBY_ROTATION (R197): every 4096 ac while standby groups wait and no live context is free, the Ready group longest
live makes room for the standby group that has waited longest. -/
def execStandbyRotation (core : Nat) (s : State) : Outcome :=
  let out := leastBy (fun (x : (Nat × Nat) × Group) => x.2.since) ((s.liveGroups core).filter fun x =>
    s.groupReady x.1.1 x.1.2 && s.atBoundary x.1.1 x.1.2)
  .next (match out, s.firstStandby core with
    | some o, some i =>
      if s.contextFree core ∨ s.time.toNat < Nat.max (s.core core).rotated i.2.since + 4096 then s
      else ((s.leaveContext o.1.1 o.1.2).takeContext i.1.1 i.1.2).onCore core fun c => { c with rotated := s.time.toNat }
    | _, _ => s)

/-- LIVE_CONTEXT_GRANT (R197). -/
def execLiveContextGrant (core : Nat) (s : State) : Outcome :=
  .next (match s.firstStandby core with
    | some i => if s.contextFree core then s.takeContext i.1.1 i.1.2 else s
    | none => s)

/-! ### REFORM (R200, R201, R245) -/

/-- The first of a core's 8 entries in a team's table: each core of a pair has its own (R309). -/
def Team.poolBase (t : Team) (core : Nat) : Nat := 8 * (core - t.core)

/-- The entry that a REFORM files into: the one of its key, else a free one. -/
def Team.poolFor (t : Team) (core : Nat) (key : VAddr) : Option Nat :=
  let es := (upto 8).map (t.poolBase core + ·)
  match es.find? fun e => (match tget e t.pools with | some p => decide (p.key = key) && decide (p.threads ≠ []) | none => false) with
  | some e => some e
  | none => es.find? fun e => match tget e t.pools with | some p => decide (p.threads = []) | none => true


/-- A group that keeps no live thread: its queue copies are discarded, and QD tells its threads of entries (R33). -/
def State.discardQueues (s : State) (tk gid : Nat) (act : List Lane) : State :=
  let g := s.group tk gid
  if (upto g.width).any fun i => (s.laneThread tk gid i).isSome then s
  else
    let s := if g.queues.any fun q => decide (q.2 ≠ []) then
        forEach act s fun l s => s.onThread l.ref fun t => { t with xstat := t.xstat ||| xstatQD }
      else s
    (s.onGroup tk gid fun g => { g with queues := [] }).onTeam tk (Team.dropLatch gid)

/-- REFORM: once every older instruction of the group has written its destinations and the helpers on its lanes have
stopped, the active threads are filed together (R210, R245). -/
def State.reformOp (s : State) (f : Form) (limit : List Lane → State → Nat) : Outcome :=
  s.issue f fun act s =>
    let open_ := act.filter fun l => (s.recruitOf l).isSome
    if open_ ≠ [] then s.raiseCause open_ 0x10
    else if s.olderWrites s.cur then s.parkRetry (dest := false)
    else match s.cur with
      | .gang tk gid _ =>
        let s := s.releaseOn tk gid
        if s.helpersOn tk gid ≠ [] then s.parkRetry (dest := false)
        else
        let core := (s.group tk gid).core
        let key := s.cctx.fetchPc + 4
        match (s.team tk).poolFor core key with
        | none => s.parkRetry (dest := false)
        | some e => s.endRegion act fun s =>
          let lim := limit act s
          let now := s.time.toNat
          let tids := act.map fun l => ((s.thread l.ref).tid, now)
          let s := s.onTeam tk (Team.dropLatch gid)
          let s := s.control f act id fun _ v a => { v with m := v.m &&& ~~~a, stack := v.stack.map (Entry.without a) }
          let s := s.onTeam tk fun t =>
            let new : Tidepool := ⟨core, key, lim, [], false⟩
            let old := match tget e t.pools with
              | some p => if p.threads = [] then new else p
              | none => new
            { t with pools := tset e { old with limit := Nat.min old.limit lim, threads := old.threads ++ tids } t.pools }
          let s := forEach act s fun l s => s.onThread l.ref fun t => { t with gid := noGid, lane := 0 }
          s.discardQueues tk gid act
      | _ => s

/-- The form of major 0x32 (R234, R244). -/
def formRegroup (srcs : List Operand) : Form := { service := false, helperBad := true, pfxG := true, srcs := srcs }

/-- REFORM. -/
def execReform (s : State) : Outcome := s.reformOp (formRegroup []) fun _ _ => 64

/-- REFORM with an age limit: of the lowest-numbered active lane. -/
def execReformAge (a : Src) (s : State) : Outcome :=
  let f := formRegroup [r32 a]
  s.reformOp f fun act s => match act with
    | l :: _ => Nat.min (((s.reads f l).getD 0 0).toNat % 2 ^ 32) (2 ^ 24 - 1)
    | [] => 64

/-! ### Draws (R202, R203) -/

/-- Threads of an entry in the order in which they are drawn: filed earliest, then ascending tid. -/
def Tidepool.order (p : Tidepool) : List (Nat × Nat) := sortBy (·.2) (sortBy (·.1) p.threads)

/-- TIDEPOOL_AGE_LIMIT: the oldest thread of an entry has waited its limit. -/
def execTidepoolAgeLimit (tk e : Nat) (s : State) : Outcome :=
  .next (match tget e (s.team tk).pools with
    | some p => match p.order with
      | x :: _ => if (s.team tk).resident ∧ x.2 + p.limit ≤ s.time.toNat then
          s.onTeam tk fun t => { t with pools := tset e { p with due := true } t.pools }
        else s
      | [] => s
    | none => s)

/-- The lowest gid that no group of a team holds. -/
def State.freeGid (s : State) (tk : Nat) : Option Nat := (upto 256).find? fun g => (s.group tk g).ended

/-- The parked or faulted live group of a team on a core that has been so longest (R196). -/
def State.longestParked (s : State) (tk core : Nat) : Option (Nat × Nat) :=
  (leastBy (fun (x : (Nat × Nat) × Group) => x.2.parkedAt) ((s.liveGroups core).filter fun x =>
    decide (x.1.1 = tk) && !s.groupReady tk x.1.2)).map (·.1)

/-- The causes held for threads that leave a tidepool go with the group that they form (R181). -/
def State.poolCauses (s : State) (tk gid : Nat) (tids : List Nat) : State :=
  let ds := (s.team tk).poolDeferred
  let mine (r : ThreadRef) : Bool := tids.any fun tid => decide (r = .compute tk tid)
  let part (own : Bool) : List Deferred := ds.filterMap fun d =>
    let rs := d.refs.filter fun r => mine r == own
    if rs = [] then none else some { d with refs := rs }
  if ds = [] then s
  else (s.onTeam tk fun t => { t with poolDeferred := part false }).onGroup tk gid fun g =>
    { g with deferred := g.deferred ++ part true }

/-- A fresh group with threads in lanes 0 to n - 1. -/
def State.formGroup (s : State) (tk gid core : Nat) (tids : List Nat) (pc : VAddr) : State :=
  let w := (s.team tk).launch.w
  let new : Group :=
    { Group.absent with core := core, width := w, ended := false, standby := true, since := s.time.toNat }
  let s := { s with groups := tset (tk, gid) new s.groups }.onTeam tk (Team.dropLatch gid)
  let s := (tids.foldl (fun (acc : State × Nat) tid =>
    (acc.1.onThread (.compute tk tid) fun t => { t with lane := acc.2, gid := gid }, acc.2 + 1)) (s, 0)).1.poolCauses tk gid
      tids
  let n := tids.length
  forEach (upto (w / 4)) s fun q s =>
    let m : BitVec 4 := BitVec.ofNat 4 (2 ^ Nat.min 4 (n - 4 * q) - 1)
    s.setCtx (.gang tk gid q) { Ctx.fresh pc m with idle := decide (m = 0) }

/-- TIDEPOOL_DRAW (R196, R197, R202, R203): the new group takes a free live context unless standby groups wait for it;
where none is free, that of the group of its team which has been parked or faulted longest. -/
def execTidepoolDraw (tk e : Nat) (s : State) : Outcome :=
  .next (match tget e (s.team tk).pools, s.freeGid tk with
    | some p, some gid =>
      let w := (s.team tk).launch.w
      if !(s.team tk).resident || decide (p.threads = []) || !(p.due || decide (w ≤ p.threads.length)) then s
      else
        let early := (s.firstStandby p.core).isSome
        let drawn := p.order.take w
        let s := s.onTeam tk fun t =>
          { t with pools := tset e { p with threads := p.order.drop w, due := false } t.pools }
        let s := s.formGroup tk gid p.core (sortBy id (drawn.map (·.1))) p.key
        if s.contextFree p.core then (if early then s else s.takeContext tk gid)
        else match s.longestParked tk p.core with
          | some o => (s.leaveContext o.1 o.2).takeContext tk gid
          | none => s
    | _, _ => s)

/-! ### RGN and VIEW -/

/-- RGN (R24, R246): the region in force ends; a window base outside R20's range traps. -/
def execRgn (w : BitVec 9) (_ h : BitVec 5) (s : State) : Outcome :=
  let f : Form := { formRegroup [] with badEnc := decide (28 ≤ h.toNat) }
  s.issue f fun act s =>
    let words := match s.teamOf s.cur with | some tk => (s.team tk).launch.s / 4 | none => 0
    if w.toNat < 4 ∨ words < w.toNat + 28 then s.raiseCause act 0x17
    else s.endRegion act fun s =>
      (forEach act s fun l s => s.onThread l.ref fun t => { t with wb := w }).finish f act

/-- KIND, FMT, BASE, STRIDE, COLS, ROWS of a view (R17). -/
structure ViewFields where
  kind : Nat
  fmt : Nat
  base : Nat
  stride : Nat
  cols : Nat
  rows : Nat
  deriving DecidableEq, Repr

/-- The fields of a view register. -/
def viewFields (v : DWord) : ViewFields :=
  let n := v.toNat
  ⟨bits n 63 61, bits n 60 57, bits n 49 41, bits n 40 32, bits n 15 8, bits n 7 0⟩

/-- Half bytes of an element of a view format (R98). -/
def halfBytes (fmt : Nat) : Nat :=
  if fmt = 14 then 1
  else if fmt = 0 ∨ fmt = 1 ∨ fmt = 9 ∨ fmt = 10 then 2
  else if fmt = 2 ∨ fmt = 3 ∨ fmt = 6 then 4
  else if fmt = 4 ∨ fmt = 7 then 8
  else 16

/-- Words of a row. -/
def ViewFields.rowWords (v : ViewFields) : Nat := (v.cols * halfBytes v.fmt + 7) / 8

/-- The first word past a view (R18). -/
def ViewFields.extent (v : ViewFields) : Nat := v.base + (v.rows - 1) * v.stride + v.rowWords

/-- A value that VIEW refuses (R18). -/
def viewBad (words : Nat) (x : DWord) : Bool :=
  let v := viewFields x
  if v.kind = 0 then false
  else decide (4 ≤ v.kind) || decide (v.fmt = 11 ∨ v.fmt = 12 ∨ v.fmt = 13 ∨ v.fmt = 15)
    || decide (v.base < 4) || decide (words < v.extent) || decide (v.rows = 0 ∨ v.cols = 0)
    || (decide (1 < v.rows) && decide (v.stride < v.rowWords))

/-- VIEW (R247). -/
def execView (n : BitVec 3) (a : Src) (s : State) : Outcome :=
  let f := formRegroup [r64 a]
  s.issue f fun act s =>
    match act, s.teamOf s.cur with
    | l :: _, some tk =>
      let v := (s.reads f l).getD 0 0
      if viewBad ((s.team tk).launch.s / 4) v then s.raiseCause act 0x17
      else (s.onTeam tk fun t => { t with views := tset n.toNat (v) t.views }).finish f act
    | _, _ => s

end Sys2Proof.Machine
end

