-- ==== Sys2Proof/Machine/Matrix.lean ====
section
/-! DEFINITION. Major 0x3E: the headland's uniform queues and the matrix engine, and the steps by which the engine
performs its queue (10_headland_matrix.md R274-R298, 04_number_formats.md R105, R106). -/
namespace Sys2Proof.Machine

/-! ### QPUSH (R275) -/

/-- The form of major 0x3E (R291). -/
def formMx (srcs : List Operand) : Form :=
  { compute := false, headland := true, service := false, pfxG := true, srcs := srcs }

/-- Entries that a group's copy of a queue holds (R33). -/
def queueMax : Nat := 8

/-- The groups of a team: those that hold a gid. -/
def State.teamGids (s : State) (tk : Nat) : List Nat :=
  (s.groups.filter fun x => decide (x.1.1 = tk) && !x.2.ended).map (·.1.2)

/-- Entries added to a queue copy. -/
def Group.push (g : Group) (n : Nat) (ws : List Word) : Group := { g with queues := tset n (tgetD n [] g.queues ++ ws) g.queues }

/-- QPUSH. -/
def execQpush (w : Bool) (n : BitVec 2) (a : Src) (s : State) : Outcome :=
  let f := formMx [⟨a, w, false⟩]
  s.issue f fun act s =>
    let tk := s.myTeam
    let v := match act with | l :: _ => (s.reads f l).getD 0 0 | [] => 0
    let ws := chanWords w v
    let gids := s.teamGids tk
    if gids.any fun g => decide (queueMax < (tgetD n.toNat [] (s.group tk g).queues).length + ws.length) then s.parkRetry (dest := false)
    else (forEach gids s fun g s => s.onGroup tk g fun x => x.push n.toNat ws).finish f act

/-! ### The configuration (R277-R279) -/

/-- The fields of MXC (R278). -/
structure MxCfg where
  mode : Nat
  bk8 : Bool
  aview : Nat
  cview : Nat
  n : Nat
  steps : Nat
  deriving DecidableEq, Repr

/-- The fields of MXC. -/
def mxFields (c : DWord) : MxCfg :=
  let x := c.toNat
  ⟨bits x 63 61, x.testBit 60, bits x 59 57, bits x 56 54, 8 * 2 ^ bits x 53 52, bits x 51 46 + 1⟩

/-- Values of k in an accumulation step (R277). -/
def kstep (mode : Nat) : Nat := if mode = 0 then 1 else if mode = 1 then 2 else if mode = 2 then 8 else if mode = 3 then 32 else 64

/-- K of an operation. -/
def MxCfg.k (c : MxCfg) : Nat := c.steps * kstep c.mode

/-- Steps that a mode admits (R279). -/
def maxSteps (mode : Nat) : Nat := if mode ≤ 1 then 64 else if mode = 2 then 32 else if mode = 3 then 16 else 8

/-- A value that MX.CFG rejects (R279). -/
def mxcBad (v : DWord) : Bool :=
  let c := mxFields v
  decide (4 < c.mode) || (c.bk8 && decide (c.mode ≠ 3)) || decide (c.aview = c.cview) || decide (bits v.toNat 45 0 ≠ 0)
    || decide (maxSteps c.mode < c.steps)

/-- The state with a team's matrix engine updated. -/
def State.onMx (s : State) (tk : Nat) (f : Mx → Mx) : State := s.onTeam tk fun t => { t with mx := f t.mx }

/-- The engine after an accepted MX.CFG; what older operations still read stays with them. -/
def Mx.configure (m : Mx) (v : DWord) : Mx :=
  let empty (x : MxSlot) : MxSlot := { issued := false, b := if m.queue = [] then [] else x.b, bad := x.bad }
  { m with mxc := v, slot0 := empty m.slot0, slot1 := empty m.slot1, latch := none
           latchA := if m.queue = [] then [] else m.latchA }

/-- MX.CFG (R293). -/
def execMxCfg (a : Src) (s : State) : Outcome :=
  let f := formMx [r64 a]
  s.issue f fun act s =>
    let v := match act with | l :: _ => (s.reads f l).getD 0 0 | [] => 0
    if mxcBad v then s.raiseCause act 0x15
    else (s.onMx s.myTeam fun m => m.configure v).finish f act

/-! ### Views (R280, R282, R292) -/

/-- Elements of a view. -/
def ViewFields.elems (v : ViewFields) : Nat := v.rows * v.cols

/-- FMT that no used view holds (R292). -/
def badViewFmt (f : Nat) : Bool := decide (f = 11 ∨ f = 12 ∨ f = 13 ∨ f = 15)

/-- A used view whose KIND or FMT gives cause 0x17. -/
def viewMissing (kinds : List Nat) (v : ViewFields) : Bool := !kinds.contains v.kind || badViewFmt v.fmt

/-- FMT of A that a mode needs (R277). -/
def aFmtOk (mode fmt : Nat) : Bool :=
  if mode = 0 then fmt = 8 else if mode = 1 then fmt = 7 else if mode = 2 then fmt = 6 else fmt = 9 ∨ fmt = 10

/-- FMT of the accumulators (R282). -/
def cFmt (mode : Nat) : Nat := if mode = 0 then 8 else 7

/-- The accumulators' format. -/
def accFormat (mode : Nat) : Format := if mode = 0 then fmt64 else fmt32

/-- A's view does not serve the mode, or is too small (R292). -/
def aViewBad (c : MxCfg) (v : ViewFields) : Bool := !aFmtOk c.mode v.fmt || decide (v.elems < c.k)

/-- FMT of an output view (R298). -/
def outFmtOk (mode fmt : Nat) : Bool := fmt = 6 ∨ fmt = 7 ∨ (fmt = 8 ∧ mode = 0) ∨ fmt = 9 ∨ fmt = 10

/-- First word and byte in it of element e of a view. -/
def ViewFields.place (v : ViewFields) (e : Nat) : Nat × Nat :=
  let half := halfBytes v.fmt
  let byte := e % v.cols * half / 2
  (v.base + e / v.cols * v.stride + byte / 4, byte % 4)

/-- Bytes of an element of a view. -/
def ViewFields.bytes (v : ViewFields) : Nat := halfBytes v.fmt / 2

/-- The words that element e covers. -/
def ViewFields.wordsOf (v : ViewFields) (e : Nat) : List Nat :=
  let w := (v.place e).1
  if v.bytes = 8 then [w, w + 1] else [w]

/-- Element e of a view in a thread's register space. -/
def Thread.elem (t : Thread) (v : ViewFields) (e : Nat) : Nat :=
  let p := v.place e
  if v.bytes = 8 then (t.word p.1).toNat + (t.word (p.1 + 1)).toNat * 2 ^ 32
  else (t.word p.1).toNat / 2 ^ (8 * p.2) % 2 ^ (8 * v.bytes)

/-- Element e of a view written. A write of part of a word that holds uncorrectable data makes the whole word sound (DESIGN
CHOICE, notes/assumptions/108.md). -/
def Thread.setElem (t : Thread) (v : ViewFields) (e x : Nat) : Thread :=
  let p := v.place e
  if v.bytes = 8 then (t.setWord p.1 (BitVec.ofNat 32 x)).setWord (p.1 + 1) (BitVec.ofNat 32 (x / 2 ^ 32))
  else
    let old := (t.word p.1).toNat
    let lo := old % 2 ^ (8 * p.2)
    let hi := old / 2 ^ (8 * (p.2 + v.bytes))
    t.setWord p.1 (BitVec.ofNat 32 (lo + x % 2 ^ (8 * v.bytes) * 2 ^ (8 * p.2) + hi * 2 ^ (8 * (p.2 + v.bytes))))

/-! ### Issue (R284, R291, R292) -/

/-- The fields of the operation word. -/
structure OpWord where
  bad : Bool
  cb : Nat
  gid : Nat
  deriving DecidableEq, Repr

/-- The operation word (R291). -/
def opWord (v : DWord) : OpWord := ⟨decide (bits v.toNat 63 16 ≠ 0), bits v.toNat 15 8, bits v.toNat 7 0⟩

/-- The rows of a group: the threads in its lanes, by lane and tid (R295). -/
def State.mxRows (s : State) (tk gid : Nat) : List (Nat × Nat) :=
  (upto (s.group tk gid).width).filterMap fun i => match s.laneThread tk gid i with
    | some (.compute _ tid) => some (i, tid)
    | _ => none

/-- A group of a team stands on the higher core of a pair. -/
def State.onHigher (s : State) (tk gid : Nat) : Bool := decide ((s.group tk gid).core ≠ (s.team tk).core)

/-- The core whose engine performs an operation: that of the group that it names, the lower one where it names none (R308). -/
def Team.mxCore (t : Team) (high : Bool) : Nat := if high then t.cores.getLastD t.core else t.core

/-- A view register of a team. -/
def Team.view (t : Team) (n : Nat) : DWord := tgetD n 0 t.views

/-- Operations that the engine queue holds. -/
def mxMax : Nat := 16

/-- An operation enters the engine queue; the headland parks while it is full. -/
def State.mxEnqueue (s : State) (tk : Nat) (f : Form) (act : List Lane) (g : Mx → Mx) : State :=
  if mxMax ≤ (s.team tk).mx.queue.length then s.parkRetry (dest := false) else (s.onMx tk g).finish f act

/-- The checks of R292 on a used accumulator view, an operation word and its column range. -/
def State.accBad (s : State) (tk : Nat) (c : MxCfg) (v : ViewFields) (w : OpWord) : Bool :=
  decide (v.fmt ≠ cFmt c.mode) || w.bad || !(s.teamGids tk).contains w.gid || decide (v.elems < w.cb + c.n)

/-! ### MX.LDB (R281, R294) -/

/-- Bytes of an element of B, outside CB4. -/
def bSize (mode : Nat) : Nat := if mode = 0 then 8 else if mode = 1 then 4 else if mode = 2 then 2 else 1

/-- The scratchpad ranges of B: each array's offset and size. -/
def bRanges (c : MxCfg) (off soff poff : Nat) : List (Nat × Nat) :=
  if c.mode = 4 then
    let blocks := c.k * c.n / 32
    [(off, 16 * blocks), (soff, blocks), (poff, 4 * ((blocks + 127) / 128))]
  else [(off, c.k * c.n * bSize c.mode)]

/-- The slot of an operation. -/
def Mx.slot (m : Mx) (one : Bool) : MxSlot := if one then m.slot1 else m.slot0
/-- The slot of an operation changed. -/
def Mx.onSlot (m : Mx) (one : Bool) (f : MxSlot → MxSlot) : Mx :=
  if one then { m with slot1 := f m.slot1 } else { m with slot0 := f m.slot0 }

/-- MX.LDB: b is a source in CB4 alone; before MXC is known it is not looked at (R292). -/
def execMxLdb (w : Bool) (a b : Src) (s : State) : Outcome :=
  let f := formMx (if (mxFields (s.team s.myTeam).mx.mxc).mode = 4 then [r64 a, r64 b] else [r64 a])
  s.issue f fun act s =>
    let tk := s.myTeam
    let t := s.team tk
    let vals := match act with | l :: _ => s.reads f l | [] => []
    let c := mxFields t.mx.mxc
    let off := (vals.getD 0 0).toNat % 2 ^ 32
    let cb4 := decide (c.mode = 4)
    let soff := if cb4 then (vals.getD 1 0).toNat % 2 ^ 32 else 0
    let poff := if cb4 then (vals.getD 1 0).toNat / 2 ^ 32 else 0
    if t.mx.mxc = 0 then s.raiseCause act 0x15
    else if !cb4 && decide (b ≠ ⟨false, false, 0⟩) then s.raiseCause act 0x01
    else if !cb4 && decide (off % bSize c.mode ≠ 0) then s.raise { cause := 0x04, lanes := act, addr := off }
    else if cb4 && decide (poff % 4 ≠ 0) then s.raise { cause := 0x04, lanes := act, addr := poff }
    else match (bRanges c off soff poff).find? fun x => decide (t.launch.z < x.1 + x.2) with
      | some x => s.raise { cause := 0x06, lanes := act, addr := x.1 }
      | none => s.mxEnqueue tk f act fun m =>
          { m.onSlot w fun x => { x with issued := true } with queue := m.queue ++ [.ldb m.mxc w off soff poff] }

/-- An exact value as an f64 pattern, a signalling NaN as one. -/
def wide64 (x : FNum) : Nat :=
  match x with
  | .nan true => fmt64.infBits false + 1
  | _ => (fmt64.ofNum .rn x).bits

/-- Element (k, n) of B read from scratchpad, as an exact f64 pattern (R281). -/
def Team.bElem (t : Team) (c : MxCfg) (off soff poff k n : Nat) : Nat :=
  let i := n * c.k + k
  if c.mode = 4 then
    let b := i / 32
    let j := i % 32
    let code := t.padRead (off + 16 * b + j / 2) 1 / 16 ^ (j % 2) % 16
    let bs := blockScale (t.padRead (poff + 4 * (b / 128)) 4) (t.padRead (soff + b) 1)
    wide64 (fmt32.decode (cb4Element fmt32 .rn code bs.bits).bits)
  else
    let x := t.padRead (off + i * bSize c.mode) (bSize c.mode)
    if c.mode = 0 then x
    else if c.mode = 1 then wide64 (fmt32.decode x)
    else if c.mode = 2 then wide64 (fmt16.decode x)
    else wide64 ((if c.bk8 then fk8b else fk8a).decode x)

/-- The engine of a team can work: the team is resident, has not failed, and does not go back to its checkpoint. -/
def Team.mxRuns (t : Team) : Bool := t.resident && t.failed.isNone && !t.rolling

/-! ### The engine's choice (R284, R285) -/

/-- An MX.LDB that the engine may perform. -/
structure LdbJob where
  cfg : DWord
  one : Bool
  off : Nat
  soff : Nat
  poff : Nat
  /-- the queue without it -/
  rest : List MxOp
  deriving DecidableEq, Repr

/-- The MX.LDB that may begin: the oldest operation, or the one behind an MX.MMA that reads the other slot (R284). -/
def ldbJob : List MxOp → Option LdbJob
  | .ldb cfg one off soff poff :: rest => some ⟨cfg, one, off, soff, poff, rest⟩
  | .mma x :: .ldb cfg one off soff poff :: rest =>
    if x.slot1 = one then none else some ⟨cfg, one, off, soff, poff, .mma x :: rest⟩
  | _ => none

/-- The MX.MMA that may take a step, with the queue once it has become another, or is done: the oldest operation, or the
one behind an MX.LDB into the other slot (R284). -/
def mmaJob : List MxOp → Option (MxMma × (Option MxMma → List MxOp))
  | .mma x :: rest => some (x, fun y => match y with | some y => .mma y :: rest | none => rest)
  | .ldb cfg one off soff poff :: .mma x :: rest =>
    if x.slot1 = one then none
    else some (x, fun y => .ldb cfg one off soff poff :: match y with | some y => .mma y :: rest | none => rest)
  | _ => none

/-- The scratchpad lines that an MX.LDB reads. -/
def LdbJob.lines (j : LdbJob) : List Nat := (bRanges (mxFields j.cfg) j.off j.soff j.poff).flatMap fun x => linesOf x.1 x.2

/-- The headland waits in MX.ZSK or MX.DRAIN for an empty queue, which stands; whether its work is the higher core's. -/
def State.mxWaits (s : State) (tk : Nat) : Option Bool :=
  if (s.team tk).mx.queue ≠ [] then none
  else match (s.ctx (.headland tk)).wait with
    | some (.zsk _ _) => some false
    | some (.drain conv) => some (match conv with | some x => x.high | none => false)
    | _ => none

/-- The engine of the lower or of the higher core of a team has work of it that is ready. -/
def State.mxReady (s : State) (tk : Nat) (high : Bool) : Bool :=
  let t := s.team tk
  t.mxRuns && ((match mmaJob t.mx.queue with | some (x, _) => decide (x.high = high) | none => false)
    || (match ldbJob t.mx.queue with | some j => !high && j.lines.all t.present | none => false)
    || (match t.mx.queue with | .zero _ _ _ _ h :: _ => decide (h = high) | _ => false)
    || decide (s.mxWaits tk = some high))

/-- The engine of a core has work of a team that is ready. -/
def State.mxReadyOn (s : State) (core tk : Nat) : Bool :=
  let t := s.team tk
  (decide (t.mxCore false = core) && s.mxReady tk false)
    || (decide (t.mxCore true = core ∧ t.mxCore true ≠ t.core) && s.mxReady tk true)

/-- The engine of a team's lower or higher core takes the team next: of the teams whose work is ready there it has the highest
class, and among equals its turn comes first after the team that took the last step (R285, R308). -/
def State.mxTurn (s : State) (tk : Nat) (high : Bool) : Bool :=
  let t := s.team tk
  let core := t.mxCore high
  let last := (s.core core).mxLast
  let key (k : Nat) (x : Team) : Nat := (3 - x.launch.cls) * 2 ^ 64 + (if last < k then 0 else 2 ^ 63) + k
  s.mxReady tk high && s.teams.all fun x =>
    decide (x.1 = tk) || !s.mxReadyOn core x.1 || decide (key tk t ≤ key x.1 x.2)

/-- The engine has taken a step of a team. -/
def State.mxTook (s : State) (tk : Nat) (high : Bool) : State :=
  s.onCore ((s.team tk).mxCore high) fun c => { c with mxLast := tk }

/-- The engine consumes an uncorrectable error: the team goes back to its checkpoint, or fails (R288). -/
def State.engineError (s : State) (tk : Nat) : State :=
  if (s.team tk).launch.grd ≠ 0 then s.consumePoison tk else s.failTeam tk 0x09

/-- MX_LDB_READ (R294). -/
def execMxLdbRead (tk : Nat) (s : State) : Outcome :=
  let t := s.team tk
  .next (match ldbJob t.mx.queue with
    | some j =>
      let c := mxFields j.cfg
      if !s.mxTurn tk false || !j.lines.all t.present then s
      else if (bRanges c j.off j.soff j.poff).any fun x => t.badRange x.1 x.2 then s.engineError tk
      else
        let b := (upto c.n).flatMap fun n => (upto c.k).map fun k => t.bElem c j.off j.soff j.poff k n
        (s.onMx tk fun m => { m.onSlot j.one fun x => { x with b := b, bad := false } with queue := j.rest }).mxTook tk false
    | none => s)

/-! ### MX.MMA (R295) -/

/-- MX.MMA. -/
def execMxMma (r w : Bool) (a : Src) (s : State) : Outcome :=
  let f : Form := { formMx [r64 a] with rm := true }
  let rm := rmOf s.cctx.run
  s.issue f fun act s =>
    let tk := s.myTeam
    let t := s.team tk
    let o := opWord (match act with | l :: _ => (s.reads f l).getD 0 0 | [] => 0)
    let c := mxFields t.mx.mxc
    let av := viewFields (t.view c.aview)
    let cv := viewFields (t.view c.cview)
    if t.mx.mxc = 0 then s.raiseCause act 0x15
    else if (!r && viewMissing [2] av) || viewMissing [3] cv then s.raiseCause act 0x17
    else if (!r && aViewBad c av) || s.accBad tk c cv o || (r && decide (t.mx.latch ≠ some o.gid)) || !(t.mx.slot w).issued then
      s.raiseCause act 0x15
    else s.mxEnqueue tk f act fun m =>
      { m with
        latch := if r then m.latch else some o.gid
        queue := m.queue ++ [.mma ⟨m.mxc, t.view c.aview, t.view c.cview, s.mxRows tk o.gid, o.gid, w, r, o.cb, rm, 0, [],
          s.onHigher tk o.gid⟩] }

/-- A of a row as exact f64 patterns (R280). -/
def Thread.rowA (t : Thread) (c : MxCfg) (v : ViewFields) : List Nat :=
  (upto c.k).map fun k =>
    let x := t.elem v k
    if v.fmt = 8 then x
    else wide64 (if v.fmt = 7 then fmt32.decode x else if v.fmt = 6 then fmt16.decode x
      else (if v.fmt = 10 then fk8b else fk8a).decode x)

/-- A pattern that is a zero. -/
def zero64 (x : Nat) : Bool := decide (x % 2 ^ 63 = 0)
/-- A pattern that is finite. -/
def finite64 (x : Nat) : Bool := decide (x / 2 ^ 52 % 2 ^ 11 ≠ 2047)

/-- The k of a step. -/
def stepKs (c : MxCfg) (step : Nat) : List Nat := (upto (kstep c.mode)).map fun i => step * kstep c.mode + i

/-- A half of a row's step is skipped (R289). -/
def skipped (c : MxCfg) (a b : List Nat) (ks : List Nat) : Bool :=
  ks.all (fun k => zero64 (a.getD k 0)) && (upto c.n).all fun n => ks.all fun k => finite64 (b.getD (n * c.k + k) 0)

/-- Halves skipped in a row's step. -/
def skips (c : MxCfg) (a b : List Nat) (step : Nat) : Nat :=
  let ks := stepKs c step
  let h := ks.length / 2
  (if skipped c a b (ks.take h) then 1 else 0) + (if skipped c a b (ks.drop h) then 1 else 0)

/-- Flags that the engine raises, before any MX.DRAIN. -/
def addFlags (flags : FFlags) : List MxFlag → List MxFlag
  | [] => if flags = 0 then [] else [⟨flags, false, []⟩]
  | x :: xs => if x.drained then x :: addFlags flags xs else { x with flags := x.flags ||| flags } :: xs

/-- The engine writes elements of a row and raises flags in its thread: nothing in a thread that has exited. A flag that
is enabled there becomes pending (R298). -/
def State.mxWrite (s : State) (tk tid : Nat) (v : ViewFields) (outs : List (Nat × FRes)) : State :=
  let r := ThreadRef.compute tk tid
  let t := s.thread r
  if !t.live then s
  else
    let flags := outs.foldl (fun (m : FFlags) x => m ||| x.2.flags) 0
    let s := s.onThread r fun t =>
      { outs.foldl (fun t x => t.setElem v x.1 x.2.bits) t with
        fflags := t.fflags ||| flags, mxFlags := addFlags flags t.mxFlags }
    if trapsOn t.fmask flags then s.onMx tk fun m => { m with pending := true } else s

/-- One accumulation step of one row (R105, R295): it reads and writes its accumulators at once, so that of R290's outcomes
the engine's result from the old value over a thread's write does not arise (DESIGN CHOICE, notes/assumptions/134.md). -/
def State.mxRowStep (s : State) (tk : Nat) (m : MxMma) (b : List Nat) (row : Nat × Nat) : State :=
  let c := mxFields m.cfg
  let v := viewFields m.cview
  let a := tgetD row.1 [] m.a
  let ks := stepKs c m.step
  let f := accFormat c.mode
  let t := s.thread (.compute tk row.2)
  let one (n : Nat) : Nat × FRes :=
    (m.cb + n, f.mxStep m.rm (t.elem v (m.cb + n))
      (ks.map fun k => (fmt64.decode (a.getD k 0), fmt64.decode (b.getD (n * c.k + k) 0))))
  s.mxWrite tk row.2 v ((upto c.n).map one)

/-- The counters after a step (R289): F64 and F32 add nothing. -/
def Mx.count (m : Mx) (c : MxCfg) (x : MxMma) (b : List Nat) : Mx :=
  if c.mode ≤ 1 then m
  else
    let n := x.rows.foldl (fun n r => n + skips c (tgetD r.1 [] x.a) b x.step) 0
    { m with halves := m.halves + BitVec.ofNat 32 (2 * x.rows.length), skipped := m.skipped + BitVec.ofNat 32 n }

/-- A of the operation: latched, or read from each row before the first step. -/
def State.mxOperandA (s : State) (tk : Nat) (m : MxMma) : List (Nat × List Nat) :=
  if m.step ≠ 0 then m.a
  else if m.reuse then (s.team tk).mx.latchA
  else m.rows.map fun r => (r.1, (s.thread (.compute tk r.2)).rowA (mxFields m.cfg) (viewFields m.aview))

/-- Elements of a view of a thread hold uncorrectable data. -/
def Thread.badElems (t : Thread) (v : ViewFields) (es : List Nat) : Bool :=
  es.any fun e => (v.wordsOf e).any fun w => t.bad.contains w

/-- A step would consume uncorrectable data: of A when it reads A, of its slot, of its accumulators (R288). -/
def State.stepError (s : State) (tk : Nat) (x : MxMma) : Bool :=
  let c := mxFields x.cfg
  let live := (x.rows.map fun r => s.thread (.compute tk r.2)).filter (·.live)
  ((s.team tk).mx.slot x.slot1).bad
    || (decide (x.step = 0) && !x.reuse && live.any fun t => t.badElems (viewFields x.aview) (upto c.k))
    || live.any fun t => t.badElems (viewFields x.cview) ((upto c.n).map (x.cb + ·))

/-- MX_STEP (R285, R295): one accumulation step of the operation that may take one. -/
def execMxStep (tk : Nat) (s : State) : Outcome :=
  let t := s.team tk
  .next (match mmaJob t.mx.queue with
    | some (x, put) =>
      if !s.mxTurn tk x.high then s
      else if s.stepError tk x then s.engineError tk
      else
        let c := mxFields x.cfg
        let x := { x with a := s.mxOperandA tk x }
        let b := (t.mx.slot x.slot1).b
        let s := forEach x.rows s fun r s => s.mxRowStep tk x b r
        (s.onMx tk fun m =>
          let m := m.count c x b
          { m with
            latchA := if x.reuse then m.latchA else x.a
            queue := put (if x.step + 1 < c.steps then some { x with step := x.step + 1 } else none) }).mxTook tk x.high
    | none => s)

/-! ### MX.ZERO (R296) -/

/-- MX.ZERO. -/
def execMxZero (a : Src) (s : State) : Outcome :=
  let f := formMx [r64 a]
  s.issue f fun act s =>
    let tk := s.myTeam
    let t := s.team tk
    let o := opWord (match act with | l :: _ => (s.reads f l).getD 0 0 | [] => 0)
    let c := mxFields t.mx.mxc
    let cv := viewFields (t.view c.cview)
    if t.mx.mxc = 0 then s.raiseCause act 0x15
    else if viewMissing [3] cv then s.raiseCause act 0x17
    else if s.accBad tk c cv o then s.raiseCause act 0x15
    else s.mxEnqueue tk f act fun m =>
      { m with queue := m.queue ++ [.zero m.mxc (t.view c.cview) (s.mxRows tk o.gid) o.cb (s.onHigher tk o.gid)] }

/-- MX_ZERO_PERFORM (R296). -/
def execMxZeroPerform (tk : Nat) (s : State) : Outcome :=
  let t := s.team tk
  .next (match t.mx.queue with
    | .zero cfg cview rows cb high :: rest =>
      if !s.mxTurn tk high then s
      else
        let outs := (upto (mxFields cfg).n).map fun n => (cb + n, (⟨0, 0⟩ : FRes))
        ((forEach rows s fun r s => s.mxWrite tk r.2 (viewFields cview) outs).onMx tk fun m => { m with queue := rest }).mxTook tk high
    | _ => s)

/-! ### MX.ZSK (R297) -/

/-- The counters written to hd. -/
def State.zskDone (s : State) (tk : Nat) (d : Dest) (clr : Bool) : State :=
  let m := (s.team tk).mx
  let s := s.onThread (.headland tk) (setSlot64 (.headland tk) d.ix.toNat (m.halves ++ m.skipped))
  (if clr then s.onMx tk fun m => { m with halves := 0, skipped := 0 } else s).retire

/-- MX.ZSK. -/
def execMxZsk (d : Dest) (c : Bool) (s : State) : Outcome :=
  let f : Form := { formMx [] with dest := some (d, true) }
  s.issue f fun act s =>
    let tk := s.myTeam
    let m := (s.team tk).mx
    if m.mxc = 0 then s.raiseCause act 0x15
    else if m.queue = [] then s.zskDone tk d c
    else s.park (.zsk d c)

/-- MX_ZSK_READ (R297). -/
def execMxZskRead (tk : Nat) (s : State) : Outcome :=
  .next (match (s.ctx (.headland tk)).wait, (s.team tk).mx.queue with
    | some (.zsk d c), [] => if s.mxTurn tk false then ({ s with cur := .headland tk }.zskDone tk d c).mxTook tk false else s
    | _, _ => s)

/-! ### MX.DRAIN (R298) -/

/-- An accumulator element converted into an output format (R94, R101). -/
def outConvert (fmt : Nat) (rm : RM) (x : FNum) : FRes :=
  if fmt = 6 then fmt16.ofNum rm x
  else if fmt = 7 then fmt32.ofNum rm x
  else if fmt = 8 then fmt64.ofNum rm x
  else (if fmt = 10 then fk8b else fk8a).ofNum rm x

/-- The conversion of one row: every accumulator element is read before an output element is written. -/
def State.convertRow (s : State) (tk : Nat) (x : MxConv) (row : Nat × Nat) : State :=
  let c := mxFields x.cfg
  let cv := viewFields x.cview
  let ov := viewFields x.oview
  let t := s.thread (.compute tk row.2)
  s.mxWrite tk row.2 ov ((upto c.n).map fun n =>
    (x.cb + n, outConvert ov.fmt x.rm ((accFormat c.mode).decode (t.elem cv (x.cb + n)))))

/-- A conversion would consume uncorrectable data in its accumulators (R288). -/
def State.convError (s : State) (tk : Nat) (x : MxConv) : Bool :=
  x.rows.any fun r =>
    let t := s.thread (.compute tk r.2)
    t.live && t.badElems (viewFields x.cview) ((upto (mxFields x.cfg).n).map (x.cb + ·))

/-- The drain done: the conversion, hp1, the pending flag cleared. One that would consume uncorrectable data has no effect, so
that the headland stands before its hint run (R62, R288). -/
def State.drainDone (s : State) (tk : Nat) (conv : Option MxConv) : State :=
  if (match conv with | some x => s.convError tk x | none => false) then
    (s.onGang s.cur fun c => { c with run := HintRun.empty, wait := none }).engineError tk
  else
  let s := match conv with
    | some x => forEach x.rows s fun r s => s.convertRow tk x r
    | none => s
  let p := (s.team tk).mx.pending
  let s := s.onThread (.headland tk) fun t => t.setPred 1 p
  ((s.onMx tk fun m => { m with pending := false }).drainFlags tk).retire

/-- The headland goes on at once where the queue is empty and the engine has no conversion to perform, or takes it at once; else
it waits. -/
def State.startDrain (s : State) (tk : Nat) (conv : Option MxConv) (pop : State → State) : State :=
  let waits := (pop s).park (.drain conv)
  if (s.team tk).mx.queue ≠ [] then waits
  else match conv with
    | none => (pop s).drainDone tk none
    | some x => if waits.mxTurn tk x.high then ((pop s).drainDone tk conv).mxTook tk x.high else waits

/-- MX.DRAIN without a conversion. -/
def execMxDrain (s : State) : Outcome :=
  let f : Form := { formMx [] with rm := true }
  s.issue f fun _ s => s.startDrain s.myTeam none id

/-- The output elements share a register-space word with the accumulators and differ in FMT. -/
def convClash (c : MxCfg) (cv ov : ViewFields) (cb : Nat) : Bool :=
  let words (v : ViewFields) : List Nat := (upto c.n).flatMap fun n => v.wordsOf (cb + n)
  decide (cv.fmt ≠ ov.fmt) && (words ov).any fun w => (words cv).contains w

/-- MX.DRAIN with a conversion. -/
def execMxDrainConv (n : BitVec 3) (a : Src) (s : State) : Outcome :=
  let f : Form := { formMx [r64 a] with rm := true }
  let rm := rmOf s.cctx.run
  s.issue f fun act s =>
    let tk := s.myTeam
    let t := s.team tk
    let o := opWord (match act with | l :: _ => (s.reads f l).getD 0 0 | [] => 0)
    let c := mxFields t.mx.mxc
    let cv := viewFields (t.view c.cview)
    let ov := viewFields (t.view n.toNat)
    if t.mx.mxc = 0 then s.raiseCause act 0x15
    else if viewMissing [3] cv || viewMissing [1, 2] ov then s.raiseCause act 0x17
    else if s.accBad tk c cv o || !outFmtOk c.mode ov.fmt || decide (ov.elems < o.cb + c.n) || convClash c cv ov o.cb then
      s.raiseCause act 0x15
    else s.startDrain tk (some ⟨t.mx.mxc, t.view c.cview, t.view n.toNat, s.mxRows tk o.gid, o.cb, rm, s.onHigher tk o.gid⟩) fun s =>
      s.popAll (streamOf s.cur) act (f.srcs.flatMap Operand.pops)

/-- MX_DRAIN_COMPLETE (R298). -/
def execMxDrainComplete (tk : Nat) (s : State) : Outcome :=
  .next (match (s.ctx (.headland tk)).wait, (s.team tk).mx.queue with
    | some (.drain conv), [] =>
      let high := match conv with | some x => x.high | none => false
      if s.mxTurn tk high then ({ s with cur := .headland tk }.drainDone tk conv).mxTook tk high else s
    | _, _ => s)

end Sys2Proof.Machine
end

