-- ==== Sys2Proof/Machine/Launch.lean ====
section
/-! DEFINITION. The distributor: notify kicks, launch records taken and rejected, teams placed, pre-empted, restored and
completed, and the two registers that the service firmware answers through (08_core_execution.md R194-R198, R213,
12_cluster.md R306, R315, R344, 16_package_operation.md R418-R433). -/
namespace Sys2Proof.Machine

/-! ### Records -/

/-- A record replaced by what it becomes. -/
def State.setRecord (s : State) (r new : Record) : State :=
  let swap (x : Record) : Record := if x.id = r.id ∧ x.queue = r.queue ∧ x.index = r.index then new else x
  { s with pkg := { s.pkg with records := s.pkg.records.map swap } }

/-- The completion record's 32 bytes (R422). -/
def Record.crecBits (r : Record) (rej : Nat) : Nat :=
  r.state + rej * 2 ^ 4 + r.cause.toNat * 2 ^ 32 + r.nfail * 2 ^ 128 + r.ndone * 2 ^ 192

/-- The completion record written as a device write; one that is not mapped is not written. -/
def State.writeCrec (s : State) (r : Record) (rej : Nat) : State :=
  match s.devTranslate r.asn (recBits r.bits 511 448 % 2 ^ 60) with
  | some a => (s.devWalked r.asn (recBits r.bits 511 448 % 2 ^ 60)).devWriteNat a 32 (r.crecBits rej)
  | none => s

/-- CREC has no place: misaligned or non-canonical. -/
def crecBad (x : BitVec 512) : Bool := decide (recBits x 511 448 % 32 ≠ 0) || decide (2 ^ 60 ≤ recBits x 511 448)

/-- An entry point that is misaligned or non-canonical. -/
def entryBad (a : Nat) : Bool := decide (a % 4 ≠ 0) || decide (2 ^ 60 ≤ a)

/-- The case of REJ 2 that the record alone shows. -/
def recMalformed (x : BitVec 512) : Bool :=
  let d := recDims x
  decide (recBits x 270 268 ≠ 0) || decide (recBits x 192 192 ≠ 0) || decide (recBits x 121 0 ≠ 0)
    || decide (recBits x 125 124 = 3) || decide (d.1 = 0 ∨ d.2.1 = 0 ∨ d.2.2 = 0)
    || entryBad (recBits x 383 320) || entryBad (recBits x 447 384) || crecBad x

/-- The launch of team i of a record. -/
def launchOf (x : BitVec 512) (asn queue index rec_ i : Nat) : Launch :=
  let c := teamCoords (recDims x) i
  { asn := asn, cls := recBits x 127 126, grd := recBits x 125 124, t := recBits x 159 149 + 1
    w := 8 * 2 ^ recBits x 148 147, s := 256 * (recBits x 146 144 + 1), z := 64 * recBits x 142 128
    tx := c.1, ty := c.2.1, tz := c.2.2, crec := recBits x 511 448
    kentry := BitVec.ofNat 60 (recBits x 383 320), hentry := BitVec.ofNat 60 (recBits x 447 384)
    rfm := decide (recBits x 122 122 = 1), l1big := decide (recBits x 143 143 = 1), queue := queue, index := index
    rec_ := rec_ }

/-! ### Room on a core (R198, R213, R306) -/

/-- The core is enabled and placement may use it (R359, R381, R437). -/
def State.coreUsable (s : State) (a : Nat) : Bool :=
  let d := s.die (dieOfAgent a)
  let c := a % 64 / 4
  decide (a < 512) && d.clen.getLsbD c && !d.clout.getLsbD c && Config.cen.getLsbD (a % 4) && !d.fatal && !d.containing
    && !(s.core a).out && !s.pkg.coolantFailed

/-- A team spans a core pair. -/
def Launch.paired (l : Launch) : Bool := decide (1024 < l.t)

/-- Threads of a team on the lower (0) or the higher (1) core that it uses. -/
def Launch.threadsOn (l : Launch) (i : Nat) : Nat := if l.paired then (if i = 0 then 1024 else l.t - 1024) else l.t

/-- Scratchpad bytes of a team on one core. -/
def Launch.padOn (l : Launch) : Nat := if l.paired then l.z / 2 else l.z

/-- Groups of a team on one core. -/
def Launch.groupsOn (l : Launch) (i : Nat) : Nat := (l.threadsOn i + l.w - 1) / l.w

/-- L1 of a team's core in bytes. -/
def Launch.l1Bytes (l : Launch) : Nat := (if l.l1big then 640 else 320) * 1024

/-- The teams resident on a core, but for some. -/
def State.teamsOn (s : State) (a : Nat) (less : List Nat) : List (Nat × Team) :=
  s.teams.filter fun x => x.2.resident && x.2.cores.contains a && !less.contains x.1

/-- A sum over the teams of a core. -/
def sumTeams (a : Nat) (ts : List (Nat × Team)) (f : Launch → Nat → Nat) : Nat :=
  ts.foldl (fun n x => n + f x.2.launch (a - x.2.core)) 0

/-- Live contexts that the groups of resident teams hold on a core. The contexts that an earlier team with RFM reserved and
does not use are not counted: whether they stay reserved the spec does not say (DESIGN CHOICE, notes/assumptions/111.md). -/
def State.contextsHeld (s : State) (a : Nat) (less : List Nat) : Nat :=
  (s.groups.filter fun x => decide (x.2.core = a) && x.2.live && !x.2.ended && (s.team x.1.1).resident
    && !less.contains x.1.1).length

/-- Bytes that a core's local array holds for L1 and scratchpad (R213). -/
def arrayBytes (guarded : Bool) : Nat :=
  (if Config.storeDie then 2048 else 1024) * 1024 - (if !Config.storeDie && guarded then 128 * 1024 else 0)

/-- The share i of a team fits a core once some teams have left it. -/
def State.fitsCore (s : State) (l : Launch) (a i : Nat) (less : List Nat) : Bool :=
  let ts := s.teamsOn a less
  let n := l.threadsOn i
  s.coreUsable a
    && decide (ts.length < 16)
    && decide (sumTeams a ts Launch.threadsOn + n ≤ 2048)
    && decide (sumTeams a ts (fun x j => x.threadsOn j * x.s) + n * l.s ≤ 512 * 1024)
    && decide (s.contextsHeld a less + l.groupsOn i + (if l.rfm then 4 else 0) ≤ 32)
    && ts.all (fun x => decide (x.2.launch.l1big = l.l1big))
    && decide (l.l1Bytes + sumTeams a ts (fun x _ => x.padOn) + l.padOn
        ≤ arrayBytes (decide (l.grd ≠ 0) || ts.any fun x => decide (x.2.launch.grd ≠ 0)))

/-- A team fits a core, or the pair whose lower core it is. -/
def State.fits (s : State) (l : Launch) (core : Nat) (less : List Nat) : Bool :=
  if l.paired then decide (core % 2 = 0) && s.fitsCore l core 0 less && s.fitsCore l (core + 1) 1 less
  else s.fitsCore l core 0 less

/-- The cores of a package by agent number. -/
def allCores : List Nat := upto 512

/-- A package with nothing resident and nothing in the way of a placement for a time, for the test of REJ 3. -/
def State.emptied (s : State) : State :=
  { s with
    teams := [], groups := [], pkg := { s.pkg with coolantFailed := false }
    dies := tmap (fun _ d => { d with containing := false }) s.dies }

/-- REJ of a record that is not rejected for its dependence; 0 accepts it (R421). -/
def State.rejCode (s : State) (x : BitVec 512) (l : Launch) : Nat :=
  let ver := recBits x 287 272
  if ver < Config.lvMin.toNat ∨ Config.lvMax.toNat < ver then 1
  else if recMalformed x || s.bm then 2
  else if !(allCores.any fun a => s.emptied.fits l a []) then 3
  else if 1024 < l.t ∧ l.z % 128 ≠ 0 then 4
  else 0

/-! ### NOTIFY_KICK and LAUNCH_RECORD_TAKE -/

/-- NOTIFY_KICK (R419): a kick from a party of an address space, or from a service thread. -/
def execNotifyKick (q asn : Nat) (service : Bool) (s : State) : Outcome := .next (s.kick q asn service)

/-- The oldest record of a queue with teams still to be placed. -/
def State.openRecord (s : State) (q : Nat) : Option Record :=
  s.pkg.records.find? fun r => decide (r.queue = q) && decide (r.state = 1) && decide (r.next < recTeams r.bits)

/-- The state in which the record of a dependence ended; nothing while it has not: for ever, where a record depends on itself or
on a later one of its queue (R423). -/
def State.dependence (s : State) (q head waitq waitseq : Nat) : Option Nat :=
  let first := match tget waitq s.pkg.queues with | some lq => lq.first | none => 0
  let is (r : Record) : Bool := decide (r.queue = waitq) && decide (r.index % 2 ^ 32 = waitseq) && decide (first ≤ r.id)
  if waitq = q ∧ (waitseq + 2 ^ 32 - head % 2 ^ 32) % 2 ^ 32 < 2 ^ 31 then none
  else match s.pkg.records.reverse.find? is with
    | some r => if r.state = 1 then none else some r.state
    | none => none

/-- Words that the device is to read at their home slices: another package's copy, and a host's, come back first; an owner of
this package gives its line up as for any read (R391, R423). -/
def State.devFetch (s : State) (a n : Nat) : State × Bool :=
  let ws := wordsOf a n
  let bring (w : Nat) (s : State) : State := match s.wordSt w with
    | some (.closed o _ _ _) => if s.localOwner o then s.giveLine o w else s.forward w o .forward
    | _ => s
  let s := forEach ws s bring
  (s, !ws.any fun w => s.contained w || s.heldWord w)

/-- A record taken from its ring: HEAD advanced, then started or rejected. -/
def State.takeRecord (s : State) (q : Nat) (lq : LatchedQueue) (ring head : Nat) (x : BitVec 512) (depFailed : Bool) : State :=
  let s := s.devWriteNat (ring + 8) 8 (head + 1)
  let code := s.rejCode x (launchOf x lq.asn q head s.nextId 0)
  let rej := if code ≠ 0 then code else if depFailed then 5 else 0
  let kicked := lq.kickedAt s.time.toNat head
  let r : Record := ⟨s.nextId, q, head, lq.asn, x, 0, 0, 0, 0, if rej = 0 then 1 else 4, kicked⟩
  let s := { s with nextId := s.nextId + 1, pkg := { s.pkg with records := s.pkg.records ++ [r] } }
  if rej ≠ 0 ∧ crecBad x = true then s.notice none 0 q 9 0 else s.writeCrec r rej

/-- LAUNCH_RECORD_TAKE (R421-R423). -/
def execLaunchRecordTake (q : Nat) (s : State) : Outcome :=
  .next (match tget q s.pkg.queues with
    | none => s
    | some lq =>
      let e := lq.entry
      match s.ringEnds e, s.devTranslate e.asn e.base with
      | some (tail, head), some ring =>
        if tail ≤ head ∨ (s.openRecord q).isSome = true then s
        else match s.devTranslate e.asn (e.slot head) with
          | none => s
          | some a =>
            let r := ((s.devWalked e.asn e.base).devWalked e.asn (e.slot head)).devFetch a 64
            let s := r.1
            let x := BitVec.ofNat 512 (s.devRead a 64)
            if !r.2 then s
            else if recBits x 271 271 = 0 then s.takeRecord q lq ring head x false
            else match s.dependence q head (recBits x 267 256) (recBits x 255 224) with
              | none => s
              | some st => s.takeRecord q lq ring head x (decide (st ≠ 2))
      | _, _ => s)

/-! ### The words of an owner (R388) -/

/-- Every word registered to some owners is written back: here it is V, at another package's home the registration goes.
Their cores drop their copies. -/
def State.writeBackAll (s : State) (mine : Owner → Bool) (cores : List Nat) : State :=
  let s := forEach (s.words.filter fun x => x.2.owner?.any mine) s fun x s =>
    forEach cores (s.makeV x.1) fun c s => s.dropL1 c x.1
  forEach (s.guestRegs.filter fun x => mine x.2.owner) s fun x s =>
    (forEach cores s fun c s => s.dropL1 c (farKey x.1)).backGuest x.1

/-! ### Context areas (R426) -/

/-- CTXSZ. -/
def ctxSize (l : Launch) : Nat :=
  (0xB000 + l.t * (l.s + 512) + 2 * l.z + 0x40000 + (if l.grd = 0 then 0 else l.t * 64 + 0x10000) + 0xFFFF) / 0x10000 * 0x10000

/-- The lowest free area of the pool. -/
def State.poolRoom (s : State) (size : Nat) : Option Nat :=
  let base := s.pkg.pctxb.toNat * 2 ^ 12
  let top := base + s.pkg.pctxl.toNat
  let used := s.teams.filterMap fun x => if x.2.ended then none else some (x.2.ctxBase, x.2.ctxBase + x.2.ctxSize)
  let starts := (base + 0xFFFF) / 0x10000 * 0x10000 :: used.map (·.2)
  leastBy id (starts.filter fun a => decide (base ≤ a) && decide (a + size ≤ top)
    && used.all fun u => decide (a + size ≤ u.1) || decide (u.2 ≤ a))

/-- The control words of a fresh area: identity, EBBC, CREC, coordinates, CTXSZ, zeros. -/
def State.writeControl (s : State) (t : Team) : State :=
  let a := t.ctxBase % 2 ^ 44
  let l := t.launch
  let s := s.devWriteNat a 8 (l.asn % 2 ^ 12 + l.cls % 4 * 2 ^ 12 + l.grd % 4 * 2 ^ 14)
  let s := s.devWriteNat (a + 8) 8 (t.allow + b2n t.pol * 2 ^ 32)
  let s := s.devWriteNat (a + 0x10) 8 l.crec
  let s := s.devWriteNat (a + 0x18) 8 (l.tx % 2 ^ 31 + l.ty % 2 ^ 16 * 2 ^ 32 + l.tz % 2 ^ 16 * 2 ^ 48)
  let s := s.devWriteNat (a + 0x20) 8 t.ctxSize
  let s := s.devWriteNat (a + 0x28) 24 0
  let s := s.devWriteNat (a + 0x60) 32 0
  s.devWriteNat (a + 0xA110) 0xEF0 0

/-! ### TEAM_PLACE (R423, R344) -/

/-- The record whose team comes next: of the highest class, kicked earliest, of the lowest queue. -/
def State.nextRecord (s : State) : Option Record :=
  let heads := (s.pkg.records.filterMap fun r => s.openRecord r.queue).eraseDups
  leastBy (fun (r : Record) => (3 - recBits r.bits 127 126) * 2 ^ 128 + r.kicked * 2 ^ 32 + r.queue) heads

/-- A slot of a core that no resident team there has (R385). -/
def State.freeSlot (s : State) (core : Nat) : Nat :=
  ((upto 16).find? fun n => !(s.teamsOn core []).any fun x => decide (x.2.slotOn core = n)).getD 0

/-- A team at other cores, in a free slot of each. -/
def State.seated (s : State) (t : Team) (core : Nat) : Team :=
  { t with core := core, slot := s.freeSlot core, slot2 := if t.paired then s.freeSlot (core + 1) else 0 }

/-- The cores that a launch uses from a lower core on. -/
def Launch.cores (l : Launch) (core : Nat) : List Nat := if l.paired then [core, core + 1] else [core]

/-- The core of a thread of a team placed on a core. -/
def Launch.coreOf (l : Launch) (core tid : Nat) : Nat := if l.paired ∧ 1024 ≤ tid then core + 1 else core

/-- The threads, groups and contexts of a team at its start (R13, R202, R271). -/
def State.startTeam (s : State) (tk : Nat) (l : Launch) (core : Nat) : State :=
  let s := forEach (upto l.t) s fun tid s =>
    s.setThread (.compute tk tid) { Thread.fresh with tid := tid, gid := tid / l.w, lane := tid % l.w }
  let s := forEach (upto ((l.t + l.w - 1) / l.w)) s fun gid s =>
    let n := Nat.min l.w (l.t - gid * l.w)
    let g : Group :=
      { Group.absent with
        core := l.coreOf core (gid * l.w)
        width := l.w
        quad0 := quadRange gid l.w
        live := true
        ended := false
        since := s.time.toNat }
    let s := { s with groups := tset (tk, gid) g s.groups }
    forEach (upto (l.w / 4)) s fun q s =>
      let m : BitVec 4 := BitVec.ofNat 4 (2 ^ Nat.min 4 (n - 4 * q) - 1)
      s.setCtx (.gang tk gid q) { Ctx.fresh l.kentry m with idle := decide (m = 0) }
  if l.hentry = 0 then s
  else (s.setThread (.headland tk) Thread.fresh).setCtx (.headland tk) (Ctx.fresh l.hentry 1)

/-- The work lists of an address space latched with its first team (R427). -/
def State.latchWork (s : State) (asn : Nat) : State :=
  let busy := s.teams.any (fun x => x.2.resident && decide (x.2.launch.asn = asn))
    || (match tget asn s.pkg.work with | some w => w.lists.any fun x => !x.2.isEmpty | none => false)
  if busy then s else { s with pkg := { s.pkg with work := tset asn (s.workEntry asn) s.pkg.work } }

/-- One copy of a team placed on a core with a context area. -/
def State.newTeam (s : State) (l : Launch) (core base : Nat) (allow : Nat) (pol : Bool) (role : PairRole) : State :=
  let tk := s.nextId
  let t := s.seated { Team.fresh l core with paired := l.paired } core
  let s := (s.latchWork l.asn).writeBackAll (s.owns t) t.cores
  let t : Team :=
    { t with
      ctxBase := base, ctxSize := ctxSize l, allow := allow, pol := pol
      regions := s.latchRegions l.asn, pair := role, placedAt := s.time.toNat }
  let kib := if l.l1big then 640 else 320
  let s := { s with nextId := tk + 1, teams := tset tk t s.teams
                    l1size := (l.cores core).foldl (fun z c => tset c kib z) s.l1size }
  let s := (s.writeControl t).startTeam tk l core
  if l.grd = 0 then s else s.newInterval tk

/-- The core of the shadow copy: on another cluster than the primary's, on another die when one has room. -/
def State.shadowCore (s : State) (l : Launch) (core : Nat) : Option Nat :=
  let ok (a : Nat) : Bool := s.fits l a []
  match allCores.find? fun a => decide (dieOfAgent a ≠ dieOfAgent core) && ok a with
  | some a => some a
  | none => allCores.find? fun a => decide (a / 4 ≠ core / 4) && ok a

/-- A pre-empted team of a class waits to be restored (R424). -/
def State.savedOfClass (s : State) (cls : Nat) : Bool :=
  s.teams.any fun x => x.2.preempted && !x.2.ended && decide (x.2.launch.cls = cls)

/-- The next team of a record placed on a core, a guard level 2 team with its shadow. -/
def State.placeNext (s : State) (r : Record) (core : Nat) : State :=
  let l := launchOf r.bits r.asn r.queue r.index r.id r.next
  let allow := recBits r.bits 319 288
  let pol := decide (recBits r.bits 123 123 = 1)
  let size := ctxSize l
  if !s.fits l core [] || s.savedOfClass l.cls then s
  else match s.poolRoom size with
    | none => s
    | some base =>
      let started (s : State) : State := s.setRecord r { r with next := r.next + 1 }
      let tk := s.nextId
      if l.grd ≠ 2 then started (s.newTeam l core base allow pol .none)
      else match s.shadowCore l core with
        | none => s
        | some other =>
          let one := s.newTeam l core base allow pol (.primary (tk + 1))
          match one.poolRoom size with
          | none => s
          | some base' => started (one.newTeam l other base' allow pol (.shadow tk))

/-- TEAM_PLACE. -/
def execTeamPlace (q core : Nat) (s : State) : Outcome :=
  .next (match s.nextRecord with
    | some r => if r.queue = q then s.placeNext r core else s
    | none => s)

/-! ### TEAM_PREEMPT and TEAM_RESTORE (R424) -/

/-- A team has entries that drain. -/
def State.teamDraining (s : State) (tk : Nat) : Bool := s.coreMem.any fun x => x.2.ebb.any fun e => e.ofTeam tk && !e.held

/-- The word at which the region write-back of a group meets uncorrectable data, with the lanes that do: the words below it
are written (R24, R159). -/
def State.saveStop (s : State) (tk gid : Nat) : Option (Nat × List Lane) :=
  let g := s.group tk gid
  if g.ended || g.faulted.isSome then none
  else s.writeBackStop ((upto g.width).filterMap fun i => (s.laneThread tk gid i).map fun r => (⟨i, r⟩ : Lane)) (g.saved.getD 0)

/-- The group of a team whose region write-back meets uncorrectable data next. -/
def State.saveFault (s : State) (tk : Nat) : Option (Nat × Nat × List Lane) :=
  (s.groups.filter fun x => decide (x.1.1 = tk)).findSome? fun x => (s.saveStop tk x.1.2).map fun y => (x.1.2, y)

/-- The fault of a region write-back at a context save: the group takes cause 0x09 with the words completed as COUNT, keeps
what its gangs wait for, and the save is not done; at guard level 1 or 2 the team rolls back instead (R183, R232,
notes/assumptions/108.md). The record's PC is that of the gang of its lowest lane. -/
def State.raiseSave (s : State) (tk gid count : Nat) (ls : List Lane) : State :=
  if (s.team tk).launch.grd ≠ 0 then s.consumePoison tk
  else
    let p : Party := .gang tk gid (match ls with | l :: _ => l.ix / 4 | [] => 0)
    (s.groupTrap tk gid [] { cause := 0x09, lanes := ls, count := count } (s.ctx p).pc (laneMask ls)).onGroup
      tk gid fun g => { g with faulted := some (gangQuads (s.gang p)), saved := some count }

/-- A team saved in its context area: its regions written back, its helpers released, its words written back. A region
write-back that meets a fault stops the save (R24, R183). -/
def State.saveTeam (s : State) (tk : Nat) : State :=
  match s.saveFault tk with
  | some (gid, n, ls) => s.raiseSave tk gid n ls
  | none =>
  let t := s.team tk
  let s := { s with
    groups := tmap (fun k g => if k.1 = tk then { g with saved := none } else g) s.groups
    threads := tmap (fun r t => if refOfTeam tk r then { t with dirty := [] } else t) s.threads }
  let s := ((s.releaseHelpers tk).helpersAway tk).writeBackAll (s.owns t) t.cores
  let at_ := t.ctxBase % 2 ^ 44 + 0xB000
  let s := s.rawWrite at_ ((upto (t.ctxSize - 0xB000)).map (Config.savedByte s.nonce))
  { s with nonce := s.nonce + 1 }.onTeam tk fun t => { t with preempted := true, savedAt := s.time.toNat }

/-- An engine of a team has asked another package's home for a registration or an atomic. -/
def State.engineAsks (s : State) (tk : Nat) : Bool :=
  s.fab.requests.any fun r => decide (r.kind ≠ .close) && decide (r.kind ≠ .read)
    && (upto 4).any fun q => decide (r.for_ = .party (engParty tk q))

/-- The team may be saved now: at instruction boundaries, its Ready entries drained, its engines' writes not half done. -/
def State.savable (s : State) (tk : Nat) : Bool :=
  (s.team tk).resident && (s.team tk).failed.isNone && s.teamAtBoundary tk && !s.teamDraining tk && !s.engineAsks tk

/-- The teams below a class on the cores that a launch would use, in the order in which they are pre-empted: the lowest class,
in it the one placed last (R424). -/
def State.victims (s : State) (l : Launch) (core : Nat) : List Nat :=
  let ts := s.teams.filter fun x => x.2.resident && decide (x.2.launch.cls < l.cls)
    && x.2.cores.any fun c => (l.cores core).contains c
  (sortBy (fun (x : Nat × Team) => x.2.launch.cls * 2 ^ 128 + (2 ^ 64 - 1 - x.2.placedAt) * 2 ^ 64 + (2 ^ 64 - 1 - x.1)) ts).map (·.1)

/-- The fewest victims, in order, after which a launch fits a core. -/
def State.victimsNeeded (s : State) (l : Launch) (core : Nat) : Option Nat :=
  let vs := s.victims l core
  (upto (vs.length + 1)).find? fun n => s.fits l core (vs.take n)

/-- The team stands first among the victims on a core, of those given with what they need, that needs the fewest. -/
def State.firstVictim (s : State) (l : Launch) (needs : List (Nat × Nat)) (tk : Nat) : Bool :=
  match leastBy (fun (x : Nat × Nat) => x.1) needs with
  | none => false
  | some x => decide (x.1 ≠ 0) && needs.any fun y => decide (y.1 = x.1) && decide ((s.victims l y.2).head? = some tk)

/-- The team is the next to be pre-empted for a launch: on the core that needs the fewest, or, for a guard level 2 team whose
primary finds a core, on one of another cluster for its shadow (R344, R424). -/
def State.nextVictim (s : State) (l : Launch) (tk : Nat) : Bool :=
  let needs := allCores.filterMap fun a => (s.victimsNeeded l a).map fun n => (n, a)
  let free := (needs.filter fun x => decide (x.1 = 0)).map (·.2)
  if free = [] then s.firstVictim l needs tk
  else if l.grd ≠ 2 ∨ (free.any fun a => free.any fun b => decide (a / 4 ≠ b / 4)) = true then false
  else s.firstVictim l (needs.filter fun x => decide (x.1 ≠ 0) && free.any fun a => decide (a / 4 ≠ x.2 / 4)) tk

/-- TEAM_PREEMPT. -/
def execTeamPreempt (tk : Nat) (s : State) : Outcome :=
  .next (match s.nextRecord with
    | none => s
    | some r =>
      if s.savable tk && s.nextVictim (launchOf r.bits r.asn r.queue r.index r.id r.next) tk then s.saveTeam tk else s)

/-- No pre-empted team of a higher class, or of the same class and older, stands before this one. -/
def State.firstToRestore (s : State) (tk : Nat) : Bool :=
  let t := s.team tk
  s.teams.all fun x => x.2.ended || !x.2.preempted || decide (x.1 = tk) || decide (x.2.launch.cls < t.launch.cls)
    || (decide (x.2.launch.cls = t.launch.cls)
      && decide (t.placedAt * 2 ^ 64 + tk < x.2.placedAt * 2 ^ 64 + x.1))

/-- The partner of a pair runs on another cluster. -/
def State.partnerApart (s : State) (tk core : Nat) : Bool :=
  match (s.team tk).pair with
  | .none => true
  | .primary x => decide ((s.team x).core / 4 ≠ core / 4)
  | .shadow x => decide ((s.team x).core / 4 ≠ core / 4)

/-- The held entries of a team go with it to another core. -/
def State.moveEntries (s : State) (tk : Nat) (t : Team) (core : Nat) : State :=
  let old := (s.team tk).core
  forEach [0, 1] s fun i s =>
    let mine := (s.cmem (old + i)).ebb.filter (EbbEntry.ofTeam tk)
    if mine = [] then s
    else
      let s := s.onCmem (old + i) fun m => { m with ebb := m.ebb.filter fun e => !e.ofTeam tk }
      s.onCmem (core + i) fun m => { m with ebb := m.ebb ++ mine.map fun e => { e with owner := ⟨t.slotOn (core + i), s.fab.pid.toNat, core + i⟩ } }

/-- A tidepool's clock goes on after the time that its team spent away (R201). -/
def Tidepool.later (dt : Nat) (p : Tidepool) : Tidepool :=
  { p with threads := p.threads.map fun x => (x.1, x.2 + dt) }

/-- The commands of an engine queue of a team that goes on at other cores. -/
def EngQueue.moved (shift : Nat → Nat) (q : EngQueue) : EngQueue :=
  { q with entries := q.entries.map fun e => match e with
      | .cmd c => .cmd { c with core := shift c.core }
      | .fence _ _ => e }

/-- A checkpoint frame of a team that goes on at other cores: its groups and tidepools stand there. -/
def Frame.moved (shift : Nat → Nat) (f : Frame) : Frame :=
  { f with
    groups := tmap (fun _ g => { g with core := shift g.core }) f.groups
    pools := tmap (fun _ p => { p with core := shift p.core }) f.pools
    engines := tmap (fun _ q => q.moved shift) f.engines }

/-- The clean copies of some cores, and of the near caches of their dies, dropped: a team that comes from elsewhere must not
read what is older than its own writes (R399). -/
def State.coldCores (s : State) (cores : List Nat) : State :=
  forEach cores s fun c s =>
    let s := s.onCmem c fun m => { m with l1 := [] }
    match nearDie c with
    | some d => s.onDie d fun x => { x with near := [] }
    | none => s

/-- A team restored on a core: its state stands as it was, its live groups as far as contexts are free. -/
def State.restoreTeam (s : State) (tk core : Nat) : State :=
  let t := s.team tk
  let l := t.launch
  let shift (c : Nat) : Nat := core + (c - t.core)
  let new := s.seated t core
  let s := ((s.writeBackAll (s.owns new) new.cores).moveEntries tk new core).coldCores new.cores
  let free := 32 - Nat.max (s.contextsHeld core []) (if l.paired then s.contextsHeld (core + 1) [] else 0)
  let live := (s.groups.filter fun x => decide (x.1.1 = tk) && x.2.live && !x.2.ended).map (·.1.2)
  let keep := (live.filter fun g => decide ((s.group tk g).core = t.core)).take free
    ++ (live.filter fun g => decide ((s.group tk g).core ≠ t.core)).take free
  let move (k : Nat × Nat) (g : Group) : Group :=
    if k.1 = tk then
      let stays := g.live && keep.contains k.2
      { g with core := shift g.core, live := stays
               standby := g.standby || (g.live && !stays && s.groupReady tk k.2)
               since := if g.live && !stays then s.time.toNat else g.since }
    else g
  let kib := if l.l1big then 640 else 320
  let s := { s with frames := match tget tk s.frames with
                      | some f => tset tk (f.moved shift) s.frames
                      | none => s.frames
                    groups := tmap move s.groups, l1size := (l.cores core).foldl (fun z c => tset c kib z) s.l1size }
  let dt := s.time.toNat - t.savedAt
  s.onTeam tk fun t =>
    { t with core := core, slot := new.slot, slot2 := new.slot2, preempted := false, regions := s.latchRegions l.asn
             used := t.used.map fun x => (shift x.1, x.2), engines := tmap (fun _ q => q.moved shift) t.engines
             pools := tmap (fun _ p => { p.later dt with core := shift p.core }) t.pools }

/-- TEAM_RESTORE. -/
def execTeamRestore (tk core : Nat) (s : State) : Outcome :=
  let t := s.team tk
  .next (if t.preempted && !t.ended && s.firstToRestore tk && s.partnerApart tk core && s.fits t.launch core [] then
      s.restoreTeam tk core
    else s)

/-! ### TEAM_COMPLETE (R272, R315, R422) -/

/-- Every thread and the headland of a team have ended, its matrix queue is empty. -/
def State.threadsEnded (s : State) (tk : Nat) : Bool :=
  let t := s.team tk
  s.liveTids tk = [] && t.hEnded && t.mx.queue.isEmpty

/-- The team has issued nothing since its last checkpoint. -/
def State.intervalEmpty (s : State) (tk : Nat) : Bool := (s.teamThreads tk).all fun r => decide ((s.thread r).count = 0)

/-- Every entry of a team has drained, every engine queue is empty, every helper has stopped. -/
def State.allDrained (s : State) (tk : Nat) : Bool :=
  !s.helpers.any (fun x => decide (x.2.tk = tk) && (decide (x.2.st = .granted) || decide (x.2.st = .running)))
    && !s.coreMem.any (fun x => x.2.ebb.any fun e => decide (e.tk = some tk))
    && (s.team tk).engines.all fun q => q.2.entries.isEmpty

/-- The cause that a team ends with: its failure's, or a halted queue's (R324). -/
def Team.endCause (t : Team) : Option (BitVec 8) :=
  match t.failed with
  | some c => some c
  | none => t.engines.findSome? fun q => q.2.halted.map (·.1)

/-- A team counted in its completion record. -/
def State.countEnd (s : State) (t : Team) (cause : Option (BitVec 8)) : State :=
  match s.recordOf t.launch with
  | none => s
  | some r =>
    let n := 1 + t.withdrawn.length
    let r1 : Record := match cause with
      | some c => { r with nfail := r.nfail + n, cause := if r.nfail = 0 then c else r.cause }
      | none => { r with ndone := r.ndone + n }
    let finished := decide (recTeams r1.bits ≤ r1.ndone + r1.nfail)
    let r2 : Record := { r1 with state := if finished then (if r1.nfail = 0 then 2 else 3) else r1.state }
    ((s.setRecord r r2).writeCrec r1 0).writeCrec r2 0

/-- What a team held is given up. -/
def State.clearTeam (s : State) (tk : Nat) : State :=
  let s := (s.forgetParties (partyOfTeam tk)).freeHelpers tk
  { s with
    threads := tdrop (refOfTeam tk) s.threads
    ctxs := tdrop (partyOfTeam tk) s.ctxs
    groups := tdrop (fun (k : Nat × Nat) => decide (k.1 = tk)) s.groups
    recruits := tdrop (fun (k : Nat × Nat) => decide (k.1 = tk)) s.recruits
    frames := tdel tk s.frames }.onTeam tk fun t =>
      { t with ended := true, fetches := [], pad := [], full := [], padBad := [], filling := [], views := [], barriers := [], pools := []
               engines := [], push := [], mx := Mx.fresh, lineLog := none }

/-- The release at system scope with which a team ends (R388), and whether every home slice has acknowledged it (R450). -/
def State.endRelease (s : State) (tks : List Nat) : State × Bool :=
  let mine (o : Owner) : Bool := tks.any fun k => s.owns (s.team k) o
  let s' := forEach tks s fun k s => s.closeWords noWaiter (s.owns (s.team k)) (s.team k).launch.asn .system allRegions
  (s', !s'.closing mine)

/-- The notices of a team's failure: one names the team, one each team that it has withdrawn (R337, R422). -/
def State.tellFailure (s : State) (tk cause : Nat) : State :=
  let t := s.team tk
  forEach t.withdrawn (s.notice (some tk) 0 t.core 4 cause) fun c s =>
    s.noticeFor { t.launch with tx := c.1, ty := c.2.1, tz := c.2.2 } 0 t.core 4 cause

/-- A team that has made its last release ends: its count, the notices of a failure, the grid barrier. -/
def State.endTeam (s : State) (tk : Nat) (also : List Nat) : State :=
  let t := s.team tk
  let cause := t.endCause
  let s := s.countEnd t cause
  let s := match cause with
    | some c => (s.tellFailure tk c.toNat).onTeam tk fun t => { t with failed := some c }
    | none => s
  (forEach (tk :: also) s fun k s => s.clearTeam k).gbarUpdate tk

/-- TEAM_COMPLETE: at guard level 1 or 2 the interval that ends commits first, that of a pair by its comparison. -/
def execTeamComplete (tk : Nat) (s : State) : Outcome :=
  let t := s.team tk
  let ready (k : Nat) : Bool := (s.team k).resident && ((s.team k).failed.isSome || s.threadsEnded k)
  let committed (k : Nat) : Bool := (s.team k).failed.isSome || decide ((s.team k).launch.grd = 0) || s.intervalEmpty k
  .next (if !ready tk then s
    else if !committed tk then (if t.atCut then s else s.checkpoint tk)
    else
      let complete (also : List Nat) : State :=
        let r := s.endRelease (tk :: also)
        if r.2 then r.1.endTeam tk also else r.1
      match t.pair with
      | .none => if s.allDrained tk then complete [] else s
      | .shadow _ => s
      | .primary x => if ready x && committed x && s.allDrained tk && s.allDrained x then complete [x] else s)

/-! ### SCRPLY and SRING -/

/-- SCRPLY_STORE (R432): a service thread answers the call slot that it names. -/
def execScrplyStore (slot : Nat) (s : State) : Outcome := .next (s.scrply slot)

/-- SRING_WRITE (R433). -/
def execSringWrite (v : DWord) (s : State) : Outcome := .next (s.sringWrite v)

end Sys2Proof.Machine
end

