-- ==== Sys2Proof/Machine/Package.lean ====
section
/-! DEFINITION. What befalls the package: guard level 2 comparisons, watchdogs, lane, cluster and die failures, memory
errors, heat and cooling, the standby of the table-update engine (08_core_execution.md R220-R223, R233, 12_cluster.md
R345-R349, 14_die.md R359, R380, R381, 15_package_memory_model.md R415, 16_package_operation.md R435-R437). -/
namespace Sys2Proof.Machine

/-! ### Redundant pairs -/

/-- The waits of a team at a checkpoint of its pair are over: it has committed. -/
def State.endCutWaits (s : State) (tk : Nat) : State :=
  let ended (c : Ctx) : Ctx := if c.wait = some .cut then { c with wait := some .cutDone } else c
  { s with ctxs := tmap (fun p c => if partyOfTeam tk p then ended c else c) s.ctxs }

/-- The counts of instructions of a team's threads, in an order that both copies share. -/
def State.cutCounts (s : State) (tk : Nat) : List (Nat × Nat) :=
  let one (r : ThreadRef) : Nat × Nat := match r with
    | .compute _ tid => (tid + 1, (s.thread r).count)
    | _ => (0, (s.thread r).count)
  sortBy (·.1) ((s.teamThreads tk).map one)

/-- The primary and the shadow of the pair that a team belongs to. -/
def State.pairOf (s : State) (tk : Nat) : Option (Nat × Nat) :=
  match (s.team tk).pair with
  | .primary x => some (tk, x)
  | .shadow x => some (x, tk)
  | .none => none

/-- PAIR_CHECKPOINT_CUT (R345). -/
def execPairCheckpointCut (tk : Nat) (s : State) : Outcome :=
  .next (match s.pairOf tk with
    | none => s
    | some (a, b) =>
      if (s.team a).atCut && (s.team b).atCut && decide (s.cutCounts a = s.cutCounts b) then
        (s.onTeam a fun t => { t with cut := true }).onTeam b fun t => { t with cut := true }
      else s)

/-- A pair fails its comparison for good: cause 0x12, both clusters suspect, each posts a notice (R347). -/
def State.suspectPair (s : State) (a b : Nat) : State :=
  let ca := (s.team a).core
  let cb := (s.team b).core
  let s := s.failTeam a 0x12
  let s := forEach [ca, cb] s fun c s => s.onCluster (clusterOfAgent c) fun x => { x with suspect := true }
  (s.notice (some a) 0 ca 5 0x12).notice (some a) 0 cb 5 0x12

/-- BREAKWATER_COMPARE (R347). -/
def execBreakwaterCompare (tk : Nat) (s : State) : Outcome :=
  .next (match s.pairOf tk with
    | none => s
    | some (a, b) =>
      let ta := s.team a
      let tb := s.team b
      if !ta.cut || !tb.cut then s
      else if s.teamSig a = s.teamSig b then
        (((s.endCutWaits a).endCutWaits b).commitTeam a).dropHeld b |>.newInterval b
      else
        let first := !ta.mismatched
        let s := if first then s.onCluster (clusterOfAgent ta.core) fun c => { c with mism := sat32 (c.mism + 1) } else s
        if ta.nonRollback || tb.nonRollback || !first then s.suspectPair a b
        else if ta.spent || tb.spent then s.failTeam a 0x09
        else
          let s := (s.rollbackOne a).rollbackOne b
          (s.onTeam a fun t => { t with mismatched := true }).onTeam b fun t => { t with mismatched := true })

/-- One copy of a pair is lost: the other goes on alone at guard level 1; where it stood at a cut, that checkpoint commits
(R349). -/
def State.goAlone (s : State) (tk : Nat) : State :=
  let t := s.team tk
  let s := s.onTeam tk fun t => { t with launch := { t.launch with grd := 1 }, pair := .none }
  let s := s.endCutWaits tk
  let s := if t.atCut then s.commitTeam tk else s
  s.notice (some tk) 0 t.core 6 0x18

/-- A system call that a lost copy had placed is answered to the other, whose gang waits for it. -/
def State.moveCalls (s : State) (tk other : Nat) : State :=
  let mine := s.pkg.calls.filter fun c => partyOfTeam tk c.party
  let move (c : Call) : Call :=
    if partyOfTeam tk c.party then
      { c with party := mirrorParty other c.party, parts := c.parts.map fun x => { x with ref := mirrorRef other x.ref } }
    else c
  let s := { s with pkg := { s.pkg with calls := s.pkg.calls.map move } }
  forEach mine s fun c s => forEach ((s.gang c.party).map (mirrorParty other)) s fun p s =>
    s.onCtx p fun x => { x with wait := some (.call c.id) }

/-- A stream of a copy, as its partner names it. -/
def mirrorStream (x : Nat) : StreamId → StreamId
  | .group _ g => .group x g
  | .headland _ => .headland x
  | i => i

/-- An atomic that a lost copy has issued and that its partner waits for goes on there: what has been performed is not performed
again (R348). -/
def State.moveAtom (s : State) (tk other : Nat) (p : Party) : State :=
  match (s.ctx p).wait with
  | some (.atom op d wide refs got bad acq pops) =>
    let p' := mirrorParty other p
    let core := s.agentOf p
    let core' := s.agentOf p'
    let ref := mirrorRef other
    let part (x : AtomPart) : AtomPart := { x with ref := ref x.ref }
    let move (e : EbbEntry) : EbbEntry :=
      { e with
        stream := mirrorStream other e.stream
        tk := some other
        owner := s.ownerOf p'
        kind := match e.kind with | .atoms xs => .atoms (xs.map part) | k => k }
    let mine (e : EbbEntry) : Bool := decide (e.op = op) && decide (e.tk = some tk)
    let es := (s.cmem core).ebb.filter mine
    let who (w : Waiter) : Waiter := match w with
      | .entry a n => if a = core && es.any (fun e => decide (e.seq = n)) then .entry core' n else w
      | w => w
    let s := s.onCmem core fun m => { m with ebb := m.ebb.filter fun e => !mine e }
    let s := s.onCmem core' fun m => { m with ebb := m.ebb ++ es.map move }
    let asks (r : Request) : Request := { r with for_ := who r.for_ }
    let s := { s with queue := tmap (fun _ q => q.map who) s.queue, fab := { s.fab with requests := s.fab.requests.map asks } }
    let ps := (s.gang p).map (mirrorParty other)
    let load (x : LoadPart) : LoadPart := { x with ref := ref x.ref }
    let w : Wait := .atom op d wide (refs.map load) (got.map fun (x : ThreadRef × DWord) => (ref x.1, x.2)) bad acq pops
    (forEach ps s fun q s => s.onCtx q fun c => { c with wait := some w }).sealEffect other ps (refs.map fun (x : LoadPart) => ref x.ref)
  | _ => s

/-- The atomics that a lost copy has issued. -/
def State.moveAtoms (s : State) (tk other : Nat) : State :=
  forEach (s.ctxs.filter fun x => partyOfTeam tk x.1 && decide (s.leader x.1 = x.1)) s fun x s => s.moveAtom tk other x.1

/-- A copy that is lost: its partner goes on without it, and nothing of it is counted. -/
def State.loseCopy (s : State) (tk other : Nat) : State :=
  let t := s.team tk
  let s := (s.moveCalls tk other).moveAtoms tk other
  let s := ((s.stopOne tk 0x0A).onTeam tk fun t => { t with pair := .none, failed := none }).clearTeam tk
  let s := s.onTeam other fun x => { x with withdrawn := x.withdrawn ++ t.withdrawn, fetches := x.fetches ++ t.fetches }
  s.goAlone other

/-! ### The watchdog (R233) -/

/-- Limit of the watchdog of a core in ac; none while it is disabled. -/
def State.wdogLimit (s : State) (core : Nat) : Option Nat :=
  if (s.core core).wdog = 0 then none else some (usAc (s.core core).wdog)

/-- The step that ends a party's wait, where it is none of its own issue. -/
def State.waitStep (s : State) (p : Party) : Option Outcome :=
  match (s.ctx p).wait, p with
  | some (.load _ _ _ _ _), _ => some (execLoadReply p s)
  | some (.atom _ _ _ _ _ _ _ _), _ => some (execLoadReply p s)
  | some (.barrier _ _ _), _ => some (execBarrierWaitEnd p s)
  | some (.gbar _ _), _ => some (execBarrierWaitEnd p s)
  | some (.hwait _), _ => some (execHwaitComplete p s)
  | some (.quies _ _), _ => some (execQuiesWake p s)
  | some (.drain _), .headland tk => some (execMxDrainComplete tk s)
  | some (.zsk _ _), .headland tk => some (execMxZskRead tk s)
  | _, _ => none

/-- The wait of a party is satisfied: its step ends it, and the instruction takes no cause 0x0D (R233). -/
def State.waitOver (s : State) (p : Party) : Bool :=
  match (s.ctx p).wait with
  | some .cutDone => true
  | some (.queues m mark) => match s.teamOf p with
    | some tk => (s.team tk).queuesDone m mark
    | none => false
  | w => match s.waitStep p with
    | some (.next t) => decide ((t.ctx p).wait ≠ w)
    | _ => false

/-- The party is parked in a wait that the watchdog counts, or its pair has stopped it at a cut (R233, R345). -/
def State.expires (s : State) (p : Party) : Bool :=
  match (s.ctx p).wait with
  | some w => w.counted && !s.waitOver p
  | none => s.cutStopped p

/-- WATCHDOG_EXPIRY: the parked instruction takes cause 0x0D. A wait that is over, or an instruction that finds its
resource when it issues now, completes instead. -/
def execWatchdogExpiry (p : Party) (s : State) : Outcome :=
  let due := match p, s.wdogLimit (s.agentOf p) with
    | .gang tk gid _, some n => decide (n ≤ (s.group tk gid).wdog) && (s.group tk gid).faulted.isNone
    | .headland tk, some n => decide (n ≤ (s.team tk).hWdog) && !(s.team tk).hFaulted
    | _, _ => false
  .next (if due && s.expires p then
      let s := { s with cur := p }
      s.raise { cause := 0x0D, lanes := s.waitLanes p }
    else s)

/-! ### The pending-repair list (R436) -/

/-- A failure entered in the list; a full list counts it in OVF and posts a notice. -/
def State.addRepair (s : State) (kind : Nat) (loc : Nat) (agent : Nat) : State :=
  if Config.repairMax ≤ s.pkg.repairs.length then
    { s with pkg := { s.pkg with ovf := true } }.notice none 0 agent 8 0
  else
    let e : Repair := ⟨kind, BitVec.ofNat 64 loc, false⟩
    { s with pkg := { s.pkg with repairs := s.pkg.repairs ++ [e] } }

/-! ### UNCORRECTABLE_MEMORY_ERROR (R435) -/

/-- The memory that a local address lies in: a stack 0-7, a shore die's LPDDR-6 8-9. -/
def memoryOf (l : Nat) : Nat := if isHbm l then l / 2 ^ 36 else 8 + (l - 0x20000000000) / 2 ^ 40

/-- The agent that a memory's notices name: core 0 of its die. -/
def memoryAgent (l : Nat) : Nat := if isHbm l then 64 * (l / 2 ^ 36) else 0

/-- Words that hold their data at the home slice are poisoned. -/
def State.poisonWords (s : State) (ws : List Nat) : State :=
  forEach ws s fun w s =>
    if (s.wordSt w).isSome || s.poison.contains w then s else { s with poison := s.poison ++ [w] }

/-- UNCORRECTABLE_MEMORY_ERROR: the words of a line, and with a failed row, column, pin or bank (kinds 1-4) an entry of the
repair list and a spare row, or the 4 KiB frame poisoned for want of one. -/
def execUncorrectableMemoryError (line kind : Nat) (s : State) : Outcome :=
  let l := line % 2 ^ 44 / 64 * 64
  .next (if !isLocalMem l then s
    else
      let s := s.poisonWords (maskWords l 0xFFFF)
      if kind = 0 ∨ 4 < kind then s
      else
        let s := s.addRepair kind l (memoryAgent l)
        let m := memoryOf l
        let used := tgetD m 0 s.pkg.spares
        if used < Config.spareRows then { s with pkg := { s.pkg with spares := tset m (used + 1) s.pkg.spares } }
        else { s with pkg := { s.pkg with badFrames := addAll s.pkg.badFrames [l / 4096] } })

/-! ### Heat and cooling (R437) -/

/-- THERMAL_LIMIT: half rate, then a quarter. -/
def execThermalLimit (die : Nat) (s : State) : Outcome :=
  .next (if 8 ≤ die ∨ 2 ≤ (s.die die).throttle then s
    else
      let s := s.onDie die fun d => { d with throttle := d.throttle + 1 }
      { s with pkg := { s.pkg with trips := sat32 (s.pkg.trips + 1) } })

/-- THERMAL_LIMIT_CLEARED. -/
def execThermalLimitCleared (die : Nat) (s : State) : Outcome :=
  .next (if 8 ≤ die then s else s.onDie die fun d => { d with throttle := 0 })

/-- COOLANT_FAILURE: no team is placed from now on; a die that is taken down takes a fatal error of its own. -/
def execCoolantFailure (s : State) : Outcome := .next { s with pkg := { s.pkg with coolantFailed := true } }

/-! ### Fatal die errors (R380, R381) -/

/-- The live slices of a package once a die is gone, ascending. -/
def State.liveSlices (s : State) (die : Nat) : List Nat :=
  (upto 256).filter fun n => decide (n / 32 ≠ die) && !(s.die (n / 32)).link

/-- The slice map without a die (R415). -/
def State.mapAround (s : State) (die : Nat) : Table Nat Nat :=
  let live := s.liveSlices die
  (upto 256).foldl (fun m h =>
    if s.l2.slice h / 32 = die then tset h (live.getD (7 * (h % 32) % live.length) h) m else m) s.l2.smap

/-- The home slices of a die are lost: every word that has its home there is L, and the map goes round the die. -/
def State.loseSlices (s : State) (die : Nat) : State :=
  let gone (x : Nat × WordSt) : Bool := decide (s.homeDie x.1 = die)
  let lose (w : Nat) (x : WordSt) : WordSt := if gone (w, x) then (match x with
    | .open_ o _ _ => .lost o
    | .closed o _ _ _ => .lost o
    | x => x) else x
  let words := (s.words.filter fun x => !(gone x && decide (x.2 = .valid)))
  { s with
    words := tmap lose words
    held := s.held.filter fun h => decide (s.homeDie h.word ≠ die)
    l2 := { s.l2 with lost := 2 ^ 32 - 1, smap := s.mapAround die, gone := s.l2.gone ++ [(die, s.l2.smap)] } }

/-- The cores of a die give up their entries, copies and registrations: a word registered to one of them is L. -/
def State.dropDie (s : State) (die : Nat) : State :=
  let here (a : Nat) : Bool := decide (a < 512) && decide (dieOfAgent a = die)
  let mine (o : Owner) : Bool := decide (o.pkg = s.fab.pid.toNat) && here o.agent
  let s := { s with guestRegs := s.guestRegs.filter fun x => !mine x.2.owner }
  let s := forEach s.words s fun x s => match x.2.owner? with
    | some o => if mine o then s.setLost x.1 o else s
    | none => s
  { s with coreMem := s.coreMem.filter fun x => !here x.1 }

/-- A team on the die fails, a copy of a pair is lost. -/
def State.failOnDie (s : State) (tk : Nat) : State :=
  match (s.team tk).pair with
  | .none => s.failTeam tk 0x0A
  | .primary x => s.loseCopy tk x
  | .shadow x => s.loseCopy tk x

/-- A fatal error of a die, contained in the order of R381. -/
def State.fatalDie (s : State) (die : Nat) (unreachable : Bool) : State :=
  if 8 ≤ die || (s.die die).link || ((s.die die).fatal && !unreachable) then s
  else
    let s := s.onDie die fun d => { d with containing := true, detected := s.time.toNat, near := [], misses := [] }
    let s := s.enterRecovery
    let hit := (s.teams.filter fun x => x.2.resident && x.2.failed.isNone && decide (dieOfAgent x.2.core = die)).map (·.1)
    let s := forEach hit s fun tk s => s.failOnDie tk
    let s := s.dropDie die
    let s := if unreachable then s.loseSlices die else s
    let s := s.onDie die fun d => { d with fatal := true, link := d.link || unreachable }
    s.notice none 0 (64 * die) 3 0x18

/-- FATAL_DIE_ERROR. -/
def execFatalDieError (die : Nat) (unreachable : Bool) (s : State) : Outcome := .next (s.fatalDie die unreachable)

/-- Containment of a die's error has lasted as long as it may: 100 µs (R381). -/
def State.containmentOver (s : State) (die : Nat) : Bool :=
  (s.die die).containing && decide ((s.die die).detected + usAc 100 ≤ s.time.toNat)

/-- CONTAINMENT_END: the accesses that waited go on, and the hardware clears FRECOV.ON (R381, R454). -/
def execContainmentEnd (die : Nat) (s : State) : Outcome :=
  .next (if (s.die die).containing then
      { s.onDie die (fun d => { d with containing := false }) with fab := { s.fab with recov := false } }
    else s)

/-! ### Lane and cluster failures (R220-R223, R359) -/

/-- Entries of a core drained as far as they can, oldest first. -/
def State.drainCore (s : State) (core : Nat) : State :=
  forEach ((s.cmem core).ebb.map (·.seq)) s fun q s => s.drainEntry core q

/-- A team of a core that is no more, once it stands at its instruction boundaries: it is saved as at pre-emption; a copy of
a pair is lost, and its words are written back first (R222, R349, R388). -/
def State.vacate (s : State) (tk : Nat) : State :=
  let t := s.team tk
  let s := forEach t.cores s fun c s => s.drainCore c
  if !s.savable tk then s
  else match t.pair with
    | .primary x => ((s.writeBackAll (s.owns t) t.cores).loseCopy tk x)
    | .shadow x => ((s.writeBackAll (s.owns t) t.cores).loseCopy tk x)
    | .none => s.saveTeam tk

/-- The teams of cores out of service leave them (R222, R359). -/
def State.vacateDue (s : State) : State :=
  forEach s.teams s fun x s => if (s.team x.1).resident && s.teamLeaves x.1 then s.vacate x.1 else s

/-- The logical lane that a physical lane serves, the orphan aside. -/
def Core.laneOn (c : Core) (p : Nat) : Option Nat :=
  (upto 64).find? fun l => decide (c.physLane l = p) && !(c.deg && decide (l = c.orphan))

/-- A core with the failure of a physical lane, and whether its map changed (R220). -/
def Core.failLane (c : Core) (p : Nat) : Core × Bool :=
  let hit := c.laneOn p
  let c := { c with lerrs := sat32 (c.lerrs + 1)
                    spf := c.spf || decide (p = 64)
                    spare := if p = 64 then 0x7F else c.spare
                    lfail := if p < 64 then c.lfail ||| BitVec.ofNat 64 (2 ^ p) else c.lfail }
  match hit with
  | none => (c, false)
  | some l =>
    if c.deg then ({ c with out := true }, true)
    else if c.spare = 0x7F ∧ c.spf = false then ({ c with lanes := tset l 64 c.lanes, spare := l }, true)
    else ({ c with deg := true, orphan := l }, true)

/-- LANE_FAILURE (R220-R223; the layout of R429 gives a notice no field for LSTAT: it stands in the register of the core that
the notice names, notes/assumptions/109.md): the failing instruction has written nothing and issues again; the core remaps, or
goes out of service and its teams are saved; a remap posts a notice, and the lane is entered in the repair list. -/
def execLaneFailure (core lane : Nat) (s : State) : Outcome :=
  .next (if 512 ≤ core ∨ 64 < lane ∨ (s.core core).out = true then s
    else
      let r := (s.core core).failLane lane
      let s := s.onCore core fun _ => r.1
      let s := s.addRepair 5 (core + lane * 2 ^ 16) core
      let s := if r.2 then s.notice none 0 core 2 0x18 else s
      if r.1.out then s.vacateDue else s)

/-- CLUSTER_LOSS (R359, R380): the cluster is marked; what runs on its cores goes as from cores out of service; the loss of
a die's last enabled cluster is a fatal error of the die. -/
def execClusterLoss (die cluster : Nat) (s : State) : Outcome :=
  .next (if 8 ≤ die ∨ 16 ≤ cluster ∨ (s.die die).clout.getLsbD cluster = true ∨ (s.die die).clen.getLsbD cluster = false then s
    else
      let s := s.onDie die fun d => { d with clout := d.clout ||| BitVec.ofNat 16 (2 ^ cluster) }
      let s := s.addRepair 6 (die * 2 ^ 8 + cluster) (64 * die)
      if ((upto 16).all fun c => !(s.die die).clen.getLsbD c || (s.die die).clout.getLsbD c) then s.fatalDie die false
      else s.vacateDue)

/-- SHORE_DIE_FAILURE (R369): the standby table-update engine takes over, with the command in progress. -/
def execShoreDieFailure (s : State) : Outcome := .next { s with table := { s.table with shoreDie := 1 } }

end Sys2Proof.Machine
end

