-- ==== Sys2Proof/Machine/Fabric.lean ====
section
/-! DEFINITION. The Dramon ports, the fabric's registers as events, the host ports, attestation and module reset
(16_package_operation.md R436, 18_fabric.md R443-R447, R454-R472, R478). -/
namespace Sys2Proof.Machine

/-! ### Dramon ports (R445-R447) -/

/-- Dramon ports of a package. -/
def dramonPorts : Nat := 18

/-- A port leaves every route mask (R446). -/
def State.clearRoutes (s : State) (p : Nat) : State :=
  let base := s.fab.frtab.toNat * 2 ^ 12 % 2 ^ 44
  forEach (upto 4096) s fun id s =>
    let m := (mword (base + 4 * id) s.mem).toNat
    if m.testBit p then s.rawWrite (base + 4 * id) (natBytes 4 (m - 2 ^ p)) else s

/-- A port goes down: it leaves every route mask, and the messages handed to it that have not been delivered are sent on the new
path (R446). -/
def State.portDown (s : State) (p : Nat) : State :=
  let port := s.fab.port p
  let left := (port.buffer.map (·.msg) ++ port.waiting).filterMap id
  let s := (s.onPort p fun x => { x with up := false, width := 0, buffer := [], waiting := [] }).clearRoutes p
  forEach left s fun m s => s.post m

/-- The flits that an acknowledgement of a sequence number leaves: it frees that one and the older ones. -/
def ackFlits (ack : Nat) (buffer : List Flit) : List Flit :=
  if buffer.any fun f => decide (f.seq = ack) then (buffer.dropWhile fun f => decide (f.seq ≠ ack)).drop 1 else buffer

/-- The flit types (R445): idle, message, ack, training, recovery notice. -/
def flitTypes : Nat := 5

/-- A flit taken in sequence: its acknowledgement frees flits of the replay buffer, and those that waited for room there go out.
One of another type is dropped: it takes its place in the sequence alone (R445, notes/assumptions/82.md). -/
def Port.take (type ack : Nat) (p : Port) : Port :=
  let p := { p with expected := (p.expected + 1) % 4096, same := 0 }
  if flitTypes ≤ type then p else Port.pump p.waiting { p with buffer := ackFlits (ack % 4096) p.buffer }

/-- FLIT_RECEIVE (R445): a flit that is sound and next in sequence is taken; any other is dropped and replay is asked for, the
sixteenth time in vain. -/
def execFlitReceive (port seq type ack : Nat) (sound : Bool) (s : State) : Outcome :=
  let p := s.fab.port port
  .next (if dramonPorts ≤ port ∨ p.up = false then s
    else if sound = true ∧ seq % 4096 = p.expected then s.onPort port (Port.take type ack)
    else
      let s := s.onPort port fun p => { p with replays := sat32 (p.replays + 1), same := p.same + 1 }
      if 16 ≤ p.same + 1 then s.portDown port else s)

/-- WIDTH of LINKSTAT for a number of good lanes: 8, 4 or 2 lanes, or down. -/
def linkWidth (good : Nat) : Nat := if 8 ≤ good then 3 else if 4 ≤ good then 2 else if 2 ≤ good then 1 else 0

/-- PORT_LANE_FAILURE (R446): the port retrains on fewer lanes, or goes down. -/
def execPortLaneFailure (port good : Nat) (s : State) : Outcome :=
  .next (if dramonPorts ≤ port ∨ (s.fab.port port).up = false then s
    else if linkWidth good = 0 then s.portDown port
    else s.onPort port fun p => { p with width := Nat.min p.width (linkWidth good) })

/-- LINK_TRAINING (R443, R447): once PID is written the port comes up at the highest version that both ends know. -/
def execLinkTraining (port lanes peer : Nat) (lo hi : BitVec 16) (s : State) : Outcome :=
  let ver := if hi < Config.dvMax then hi else Config.dvMax
  let least := if lo < Config.dvMin then Config.dvMin else lo
  .next (if dramonPorts ≤ port ∨ s.fab.pidSet = false ∨ (s.fab.port port).up = true then s
    else if ver < least then s.onPort port fun p => { p with up := false, width := 0, verr := true }
    else if linkWidth lanes = 0 then s
    else s.onPort port fun p =>
      { p with
        up := true, width := linkWidth lanes, verr := false, ver := ver, peer := BitVec.ofNat 12 peer, expected := 0
        sent := 0, buffer := [], same := 0 })

/-- RECOVERY_NOTICE (R454): a notice flit on every port that is up. -/
def execRecoveryNotice (s : State) : Outcome := .next (if s.fab.recov then s.tellRecovery else s)

/-! ### Images (R466, R467) -/

/-- The anti-rollback counters by kind (R467). -/
def Boot.counters (b : Boot) : List (Nat × Nat) :=
  b.antiRollback.map fun x => (x.1, x.2.foldl (fun n i => Nat.max n (Config.imageVersion i)) 0)

/-- The next image of a kind offered is accepted: its signature verifies, and its security version is at least the counter of its
kind (R467). -/
def Boot.accepts (b : Boot) (kind : Nat) : Bool :=
  Config.imageSigned b.images && decide (tgetD kind 0 b.counters ≤ Config.imageVersion b.images)

/-- The next image is extended into a measurement register (R467). -/
def Boot.extend (b : Boot) (i : Nat) : Boot :=
  { b with meas := tset i (tgetD i [] b.meas ++ [b.images]) b.meas, images := b.images + 1 }

/-- The next image of a kind accepted: its version raises the counter of the kind, its hash is extended. -/
def Boot.accept (b : Boot) (kind : Nat) : Boot :=
  { b with antiRollback := tset kind (tgetD kind [] b.antiRollback ++ [b.images]) b.antiRollback }.extend kind

/-! ### Registers -/

/-- FRECOV_WRITE (R454). -/
def execFrecovWrite (v : DWord) (s : State) : Outcome := .next (s.frecovStore v)

/-- IMAGE_SWITCH_COMPLETE (R454, R467): the new image is verified; one that is accepted is measured, its version raises the
counter of its kind, and the hardware clears FRECOV.ON. A rejected image is never run. -/
def execImageSwitchComplete (s : State) : Outcome :=
  .next (if s.boot.accepts 1 then { s with fab := { s.fab with recov := false }, boot := s.boot.accept 1 }
    else { s with boot := { s.boot with images := s.boot.images + 1 } })

/-- FENCE_WRITE (R456). -/
def execFenceWrite (j : Nat) (v : DWord) (s : State) : Outcome := .next (if j < 64 then s.fenceWrite j v else s)

/-- PIDR_WRITE (R443, R472). -/
def execPidrWrite (v : DWord) (s : State) : Outcome := .next (s.pidrWrite v)

/-- HVER_WRITE (R465). -/
def execHverWrite (v : DWord) (s : State) : Outcome := .next (s.hverWrite v)

/-- CAPBM_WRITE (R470, R471). -/
def execCapbmWrite (v : DWord) (s : State) : Outcome := .next (s.capbmWrite v)

/-- LRM_WRITE (R228). -/
def execLrmWrite (core j : Nat) (v : Word) (s : State) : Outcome :=
  .next (if core < 512 ∧ j < 16 then s.lrmWrite core j v else s)

/-- LSTAT_WRITE (R224). -/
def execLstatWrite (core : Nat) (s : State) : Outcome := .next (if core < 512 then s.lstatWrite core else s)

/-- DTABL_WRITE (R379). -/
def execDtablWrite (die : Nat) (v : DWord) (s : State) : Outcome := .next (if die < 8 then s.dtablWrite die v else s)

/-- HBASE_WRITE (R472). -/
def execHbaseWrite (port : Nat) (v : DWord) (s : State) : Outcome := .next (if port < 2 then s.hbaseWrite port v else s)

/-- REGISTER_WRITE (R478): a store of n bytes to a register without behaviour of its own. -/
def execRegisterWrite (pa n : Nat) (v : DWord) (s : State) : Outcome := .next (s.plainRegWrite (pa % 2 ^ 44) n v)

/-! ### The host (R461-R465) -/

/-- A host port updated. -/
def State.onHost (s : State) (p : Nat) (f : HostPort → HostPort) : State :=
  { s with fab := { s.fab with hosts := tset p (f (s.fab.host p)) s.fab.hosts } }

/-- The owner of a host bridge (R385). -/
def State.bridge (s : State) (p : Nat) : Owner := ⟨0, s.fab.pid.toNat, 0x240 + p⟩

/-- Local address of a host offset in a port's window; nothing outside it or at an unassigned address (R462). -/
def State.hostAddr (s : State) (p o : Nat) : Option Nat :=
  let h := (tgetD p 0 s.fab.hbase).toNat
  let size := h / 2 ^ 56
  let a := h / 2 ^ 12 % 2 ^ 32 * 2 ^ 12 + o
  if 1 ≤ size ∧ size ≤ 33 ∧ o < 2 ^ 12 * 2 ^ (size - 1) ∧ isLocalMem a = true then some a else none

/-- The port takes accesses: it is up, and its version is agreed (R465). -/
def State.hostOpen (s : State) (p : Nat) : Bool := decide (p < 2) && !(s.fab.host p).down && s.fab.hverOk

/-- Words of a byte range in one window. -/
def State.hostWords (s : State) (p o n : Nat) : List Nat :=
  wordsTouched ((upto n).filterMap fun i => s.hostAddr p (o + i))

/-- HOST_CXL_MEM_READ (R462): the host bridge reads at the home slices, and for ownership inside a host-registered range
registers the words. -/
def execHostCxlMemRead (port o n : Nat) (own : Bool) (s : State) : Outcome :=
  let b := s.bridge port
  .next (if !s.hostOpen port then s
    else forEach (s.hostWords port o n) s fun w s => s.serveHost b w (own && s.inHrr w))

/-- Bytes of one word written by the host: as an atomic SWP at the home slice, or as the answer for a word that its bridge
holds. One that meets a race, a lost word or poison is not performed; false while it must wait. -/
def State.hostWord (s : State) (p w : Nat) (bs : List (Nat × BitVec 8)) : State × Bool :=
  match s.atHome (.entry (0x240 + p) 0) [w] fun s => s.claimWord (s.bridge p) w (fullWord w bs) with
  | (s', .done _) => (((s'.mergeBytes bs).healWord w).makeV w, true)
  | (s', .fault c) => (s'.countRaces [c], true)
  | (s', .wait) => (s', false)

/-- The bytes of one word at the head of what a host port has received. -/
def wordRun (w : Nat) : List HostOp → List (Nat × BitVec 8)
  | .byte a v :: ws => if a / 4 * 4 = w then (a, v) :: wordRun w ws else []
  | _ => []

/-- What a host port has received performed in the order of its arrival, word by word and kick by kick, until one waits (R462,
R464). -/
def State.hostWrites (s : State) (p : Nat) : Nat → List HostOp → State
  | 0, ws => s.onHost p fun h => { h with writes := ws }
  | _, [] => s.onHost p fun h => { h with writes := [] }
  | fuel + 1, .kick q :: xs => State.hostWrites (s.kick q 0 true) p fuel xs
  | fuel + 1, .byte a v :: xs =>
    let w := a / 4 * 4
    let mine := wordRun w (.byte a v :: xs)
    match s.hostWord p w mine with
    | (s', true) => State.hostWrites s' p fuel ((HostOp.byte a v :: xs).drop mine.length)
    | (s', false) => s'.onHost p fun h => { h with writes := .byte a v :: xs }

/-- What a port has received performed as far as it can be. -/
def State.flushHost (s : State) (p : Nat) : State :=
  let ws := (s.fab.host p).writes
  s.hostWrites p ws.length ws

/-- HOST_CXL_MEM_WRITE (R462): the bytes that the decoder maps, behind what the port received earlier. -/
def execHostCxlMemWrite (port o : Nat) (bytes : List (BitVec 8)) (s : State) : Outcome :=
  let ws := ((upto bytes.length).zip bytes).filterMap fun (x : Nat × BitVec 8) =>
    (s.hostAddr port (o + x.1)).map fun a => HostOp.byte a x.2
  .next (if !s.hostOpen port then s
    else (s.onHost port fun h => { h with writes := h.writes ++ ws }).flushHost port)

/-- HOST_BAR0_KICK (R464): performed once the writes that the port received before it are. A store to SCRPLY is dropped
(R419). -/
def execHostBar0Kick (port o : Nat) (s : State) : Outcome :=
  let ws := if 0x8800 ≤ o then [] else [HostOp.kick (o / 8)]
  .next (if !s.hostOpen port then s
    else (s.onHost port fun h => { h with writes := h.writes ++ ws }).flushHost port)

/-- A byte of BAR2, which maps the capability registers for the host, read-only (R461, R471). -/
def State.bar2Byte (s : State) (o : Nat) : BitVec 8 := s.regByte (0xF0000100 * 4096 + o % 4096)

/-- HOST_PORT_DOWN (R457): the link is lost. -/
def execHostPortDown (port : Nat) (s : State) : Outcome :=
  .next (if port < 2 then s.onHost port fun _ => ⟨true, 0, 0, []⟩ else s)

/-- Rates of a host port in units of 0.5 GT/s: 64, 32, 16, 8, 5 and 2.5 GT/s. -/
def hostRates : List Nat := [128, 64, 32, 16, 10, 5]

/-- HOST_PORT_TRAINING (R461): the port comes up at a rate and width that it supports. -/
def execHostPortTraining (port rate width : Nat) (s : State) : Outcome :=
  .next (if port < 2 ∧ hostRates.contains rate = true ∧ [1, 4, 8, 16].contains width = true then
      s.onHost port fun h => { h with down := false, rate := rate, width := width }
    else s)

/-! ### ATREQ (R467-R469) -/

/-- The value of a measurement register: the fold of its images' hashes over zero. -/
def Boot.measValue (b : Boot) (i : Nat) : BitVec 256 :=
  (tgetD i [] b.meas).foldl (fun m n => Config.extend m (Config.imageHash n)) 0

/-- The next unused index of the current attestation tree; a spent tree gives way to the next one, which the identity tree
signs. Nothing when every tree is spent (R468). -/
def Boot.takeLeaf (b : Boot) : Option (Boot × Nat × Nat) :=
  let b := if b.attestLeaf < 1024 then b
    else { b with attestTree := b.attestTree + 1, attestLeaf := 0, identityLeaf := b.identityLeaf + 1 }
  if 1024 ≤ b.attestTree then none
  else some ({ b with attestLeaf := b.attestLeaf + 1 }, b.identityLeaf, b.attestTree * 1024 + b.attestLeaf)

/-- The device writes a report at the physical address that its request names (R469): in this package at its home slices, in
another one as service thread 0 stores, in host memory through the host bridge; at an address that leads nowhere it writes nothing
(notes/assumptions/125.md). -/
def State.writeReport (s : State) (pa : Nat) (bytes : List (BitVec 8)) : State :=
  match s.target pa with
  | .mem => s.devWrite (pa % 2 ^ 44) bytes
  | .remote _ =>
    let part (x : Nat × BitVec 8) : BytePart := ⟨pa + x.1, pa + x.1, x.2, 0, .service 0, 0⟩
    s.pushEntries (.service 0) (s.storeEntries (.service 0) (((upto bytes.length).zip bytes).map part) false)
  | .host _ => s.hostStore (((upto bytes.length).zip bytes).map fun x => (pa % 2 ^ 44 + x.1, x.2))
  | _ => s

/-- ATREQ: the index is written to MRAM, advanced, before the report is signed; a write that fails ends the request with no
signature (R468, R469). -/
def execAtreq (nonce : BitVec 256) (pa : Nat) (s : State) : Outcome :=
  .next (match s.boot.takeLeaf with
    | none => s
    | some (b, ident, leaf) =>
      if s.boot.writeFails then { s with boot := { s.boot with writeFails := false } }
      else
        let s := { s with boot := b }
        s.writeReport pa (Config.report nonce s.fab.pid.toNat ((upto 4).map b.measValue) b.counters ident leaf))

/-! ### RESET (R436, R470) -/

/-- A core after reset: its failed lanes are fused as its map has them. -/
def Core.afterReset (c : Core) : Core :=
  { c with lerrs := 0, wdog := 100000, rotated := 0, mxLast := 0, portAt := 0, words := 0, busy := [], hword := false, hslot := 0 }

/-- A die after reset: a spare cluster takes the place of each lost one while a spare is left. -/
def Die.afterReset (d : Die) : Die :=
  let lost := (upto 16).filter fun c => d.clout.getLsbD c
  let spares := (upto 16).filter fun c => !d.clen.getLsbD c && !d.clout.getLsbD c
  let used := (spares.take d.nspare).take lost.length
  let bit (c : Nat) : BitVec 16 := BitVec.ofNat 16 (2 ^ c)
  let clen := lost.foldl (fun m c => m &&& ~~~(bit c)) d.clen
  { Die.fresh with clen := used.foldl (fun m c => m ||| bit c) clen, nspare := d.nspare - used.length }

/-- The map of the core that an entry names leads round the entry's lane: another lane serves in its place, or it served
none. The lane of an orphan, and the lane whose failure takes the core out of service, find no resource (R220, R436). -/
def State.laneFused (s : State) (r : Repair) : Bool :=
  (upto 64).all fun l => decide ((s.core (bits r.loc.toNat 11 0)).physLane l ≠ bits r.loc.toNat 22 16)

/-- A lane or a cluster of the repair list that finds no spare stays in it with FAIL set. -/
def State.repairsLeft (s : State) : List Repair :=
  let spare (d : Nat) : Nat := (s.die d).nspare
  let step (acc : List Repair × Table Nat Nat) (r : Repair) : List Repair × Table Nat Nat :=
    if r.kind = 5 then (if s.laneFused r then acc else (acc.1 ++ [{ r with fail := true }], acc.2))
    else if r.kind ≠ 6 then acc
    else
      let d := bits r.loc.toNat 10 8
      let n := tgetD d 0 acc.2
      if n < spare d then (acc.1, tset d (n + 1) acc.2) else (acc.1 ++ [{ r with fail := true }], acc.2)
  (s.pkg.repairs.foldl step ([], [])).1

/-- Attestation at a reset: the ROM stage is measured; the service firmware image is verified, and measured where it is accepted
(R467, R470). -/
def Boot.afterReset (b : Boot) : Boot :=
  let b := { b with meas := [], writeFails := false }.accept 0
  if b.accepts 1 then b.accept 1 else { b with images := b.images + 1 }

/-- RESET: the state of module reset, with what the fuses and the MRAM keep. A rejected image is never run: service thread 0 does
not start. -/
def execReset (s : State) : Outcome :=
  let b := s.boot.afterReset
  .next { State.reset with
    cores := tmap (fun _ c => c.afterReset) s.cores
    dies := tmap (fun _ d => d.afterReset) s.dies
    services := if tget 1 b.meas = none then [(0, { Service.fresh with halted := true })] else []
    pkg := { Package.reset with repairs := s.repairsLeft }
    boot := b
    agenda := s.agenda, nonce := s.nonce }

end Sys2Proof.Machine
end

