-- ==== Sys2Proof/Machine/Hints.lean ====
section
/-! DEFINITION. The hint words of major 0x3F: each joins the hint run of its gang, which attaches to the next instruction;
and a word that is no instruction (02_instruction_formats.md R47, R52, R56-R62, R71, R72). -/
namespace Sys2Proof.Machine

/-- A hint word issued: the run grows; as every issue, it clears the watchdog (R61, R233). -/
def State.hint (s : State) (f : HintRun → HintRun) : Outcome :=
  .next ((s.noteIssue s.cur).onGang s.cur fun c =>
    { c with run := { f c.run with len := c.run.len + 1 }, wait := none, gang := []
             issued := s.time.toNat, ready := s.time.toNat })

/-- LIMM (R57). -/
def execLimm (i : BitVec 22) (s : State) : Outcome :=
  s.hint fun r => { r with limm := some i, twice := r.twice || r.limm.isSome }

/-- PFX (R58). A run with two PFX words takes cause 0x01 at its instruction (R61), and the spec does not say whose G guards an
instruction of format F, M or E there: it is the later word's (DESIGN CHOICE, notes/assumptions/128.md). -/
def execPfx (g : PredIx) (r o : BitVec 3) (sc : BitVec 2) (c u : Bool) (z : BitVec 10) (s : State) : Outcome :=
  s.hint fun x => { x with pfx := some ⟨g, r, o, sc, c, u, z⟩, twice := x.twice || x.pfx.isSome }

/-- SCH (R60): advice to the issue logic alone. -/
def execSch (p : PredIx) (k : Bool) (d : BitVec 6) (_ : BitVec 13) (s : State) : Outcome :=
  s.hint fun x => { x with sch := some ⟨p, k, d⟩, twice := x.twice || x.sch.isSome }

/-- The guard in force of a word that is no instruction, by its major's format; nothing for a reserved major (R52, R72). -/
def illegalGuard (run : HintRun) (w : Word) : Option PredIx :=
  let m := (fMajor w).toNat
  let pfx := (run.pfx.map (·.g)).getD 0
  if [0x00, 0x0F, 0x17, 0x1B, 0x1C, 0x1D, 0x1E, 0x1F, 0x2B, 0x2E, 0x2F, 0x36, 0x37, 0x3D, 0x3F].contains m ∨ 0x3F < m then none
  else if m < 0x08 ∨ (0x10 ≤ m ∧ m ≤ 0x16) ∨ m = 0x30 ∨ m = 0x31 then some (fG w)
  else if m < 0x0C then some (fIG w)
  else if m = 0x2C ∨ m = 0x2D then some (fBG w)
  else some pfx

/-- A word of no instruction is issued: cause 0x01 in its active lanes (R47, R71); with none it retires (R72). -/
def execIllegalEncoding (w : Word) (s : State) : Outcome :=
  let act := match illegalGuard s.cctx.run w with
    | some g => s.active s.cur g
    | none => s.lanes s.cur
  .next (if act = [] then s.retire else s.raiseCause act 0x01)

end Sys2Proof.Machine
end

