-- ==== Sys2Proof/Machine/System.lean ====
section
/-! DEFINITION. Major 0x3C: traps, system calls, special registers, returns from traps, YIELD, SLEEP, LOCQ, PTUPD and
RCLM, and the steps that answer system calls and end sleeps (07_thread_memory_control.md R168-R177, 14_die.md R369-R376,
16_package_operation.md R428, R431, R432, 18_fabric.md R457-R459). -/
namespace Sys2Proof.Machine

/-! ### TRAP, YIELD, SLEEP -/

/-- TRAP (R169). -/
def execTrap (k : BitVec 14) (s : State) : Outcome :=
  s.issue { headland := true, pfxG := true } fun act s =>
    s.raise { cause := 0x16, lanes := act, aux := k.zeroExtend 24, after := true }

/-- YIELD (R175). -/
def execYield (s : State) : Outcome :=
  let f : Form := { headland := true, pfxG := true }
  s.issue f fun act s => s.finish f act

/-- Contexts sleep from their next instruction on. -/
def State.sleepUntil (s : State) (ps : List Party) (deadline : Nat) : State :=
  forEach ps s fun p s => s.onCtx p fun c => { c with wait := some (.sleep (some deadline)), gang := gangQuads ps }

/-- SLEEP (R175, R428): n from the lowest-numbered active lane; a service thread with a pending wake does not sleep. -/
def execSleep (a : Src) (s : State) : Outcome :=
  let f : Form := { headland := true, pfxG := true, srcs := [r32 a] }
  s.issue f fun act s =>
    let n := match act with | l :: _ => ((s.reads f l).getD 0 0).toNat % 2 ^ 32 | [] => 0
    let ps := s.gang s.cur
    let sleep (s : State) : State := if n = 0 then s.finish f act else (s.finish f act).sleepUntil ps (s.time.toNat + n)
    match s.cur with
    | .service t =>
      if (s.service t).wake then
        (s.finish f act).onService t fun v => { v with wake := false, regions := s.latchRegions 0 }
      else sleep s
    | _ => sleep s

/-- SLEEP_DEADLINE (R175). -/
def execSleepDeadline (p : Party) (s : State) : Outcome :=
  .next (match (s.ctx p).wait with
    | some (.sleep (some d)) =>
      if s.time.toNat < d then s
      else match p with
        | .service n => s.wakeService n
        | _ => forEach (gangQuads [p] ++ (s.ctx p).gang) (s.onCtx p fun c => { c with wait := none, gang := [] }) fun q s =>
          match p with
          | .gang tk gid _ => s.onCtx (.gang tk gid q) fun c =>
              if c.wait = some (.sleep (some d)) then { c with wait := none, gang := [] } else c
          | _ => s
    | _ => s)

/-! ### System calls (R170-R172, R431, R432) -/

/-- The reply slot of a thread (R426). A helper's call has that of its recruiter, which the spec does not name (DESIGN CHOICE,
notes/assumptions/116.md). -/
def State.replySlot (s : State) (r : ThreadRef) : Nat :=
  match r with
  | .compute tk tid => (s.team tk).ctxBase + 0x2100 + 16 * tid
  | .headland tk => (s.team tk).ctxBase + 0xA100
  | .helper c f => let h := s.helper c f; (s.team h.tk).ctxBase + 0x2100 + 16 * h.tid
  | .service n => (Config.serviceReply n).toNat

/-- v0-v7 of a thread, or the low halves of h0-h7. -/
def State.callRegs (s : State) (r : ThreadRef) : List Word := (upto 8).map (slot32 r (s.thread r))

/-- One entry of the system-call ring (R431). -/
def State.callEntry (s : State) (k : BitVec 14) (r : ThreadRef) : BitVec 512 :=
  let own := s.recruiter r
  let t := s.thread own
  let l := match s.teamOf s.cur with | some tk => (s.team tk).launch | none => Launch.absent
  let tid := match own with | .service n => n | .headland _ => 0 | _ => t.tid
  let gid := match own with | .headland _ => 0xFF | .service _ => 0 | _ => t.gid
  let regs := (s.callRegs r).foldr (fun w n => w.toNat + n * 2 ^ 32) 0
  BitVec.ofNat 512 (s.pkg.cur.toNat + l.tz % 2 ^ 16 * 2 ^ 64 + l.ty % 2 ^ 16 * 2 ^ 80 + l.tx % 2 ^ 31 * 2 ^ 96
    + gid % 2 ^ 8 * 2 ^ 147 + tid % 2 ^ 11 * 2 ^ 155 + k.toNat * 2 ^ 166 + s.asnOf s.cur % 2 ^ 12 * 2 ^ 180 + regs * 2 ^ 192
    + s.replySlot r * 2 ^ 448)

/-- The signature records of a call (R346). -/
def State.signCall (s : State) (k : BitVec 14) (act : List Lane) : State :=
  forEach act s fun l s =>
    s.sign s.cur l.ref (sigRecord 0 0x80 (natBytes 2 k.toNat ++ (s.callRegs l.ref).flatMap fun w => natBytes 4 w.toNat))

/-- Room in the system-call ring; none while no ring stands. -/
def State.callRoom (s : State) : Nat := match s.queueEntry 4097 with | some e => s.ringRoom e | none => 0

/-- The entries of a call placed together, the queue kicked once, the gang parked until each is answered. -/
def State.placeCall (s : State) (k : BitVec 14) (try_ : Bool) (act : List Lane) : State :=
  match s.queueEntry 4097 with
  | none => s
  | some e =>
    let entries := act.map fun l => s.callEntry k l.ref
    let c : Call := ⟨s.nextId, s.cur, try_, act.map fun l => ⟨l.ref, s.replySlot l.ref, false⟩⟩
    let s := (s.ringAppend e entries).kick 4097 0 true
    let s := { s with nextId := s.nextId + 1, pkg := { s.pkg with calls := s.pkg.calls ++ [c] } }
    (s.park (.call c.id)).sealGang act

/-- v0 of a lane, or h0. -/
def setV (r : ThreadRef) (i : Nat) (v : Word) (t : Thread) : Thread := setSlot32 r i v t

/-- SYSC and SYSC.TRY: the checkpoint, in the primary copy alone the release, then the entries; a full ring answers a
try at once and lets a call wait. -/
def State.callOp (s : State) (k : BitVec 14) (try_ : Bool) : Outcome :=
  s.issue { headland := true, pfxG := true } fun act s =>
    s.afterCheckpoint (fun s => s.signCall k act) fun s =>
      if s.inShadow then s.park .cut
      else if try_ && decide (s.callRoom < act.length) then
        s.deliver act (fun _ s => s) (act.map fun l => (l.ref, fun t => (setV l.ref 0 0x14 t).setPred 1 true))
      else s.afterRelease .package allRegions fun s =>
        if act.length ≤ s.callRoom then s.placeCall k try_ act
        else if try_ then
          s.deliver act (fun _ s => s) (act.map fun l => (l.ref, fun t => (setV l.ref 0 0x14 t).setPred 1 true))
        else { s.park (.ring s.nextId k) with nextId := s.nextId + 1 }

/-- SYSC. -/
def execSysc (k : BitVec 14) (s : State) : Outcome := s.callOp k false

/-- SYSC.TRY. -/
def execSyscTry (k : BitVec 14) (s : State) : Outcome := s.callOp k true

/-- SYSC_REPLY (R432): once every lane is answered, the replies are read at the home slices, the group acquires, and both
copies of a pair acquire and receive them (R172, R348). -/
def execSyscReply (call : Nat) (s : State) : Outcome :=
  .next (match s.pkg.calls.find? fun c => decide (c.id = call) with
    | none => s
    | some c =>
      if c.parts.all (·.answered) then
        let s := { s with cur := c.party, pkg := { s.pkg with calls := s.pkg.calls.filter fun x => decide (x.id ≠ call) } }
        if (s.ctx c.party).wait ≠ some (.call call) then s
        else
          let out (x : CallPart) : ThreadRef × (Thread → Thread) :=
            let a := x.slot % 2 ^ 44
            let st := BitVec.ofNat 32 (s.devRead a 4)
            let v := BitVec.ofNat 32 (s.devRead (a + 4) 4)
            (x.ref, fun t =>
              let t := setV x.ref 1 v (setV x.ref 0 st t)
              if c.try_ then t.setPred 1 false else t)
          s.deliver (s.waitLanes c.party) (fun _ s => s.acquire s.cur .package allRegions) (c.parts.map out)
      else s)

/-- The contexts on the ring's wait list, in the order in which they parked; a gang once. -/
def State.ringWaiters (s : State) : List (Nat × Party × BitVec 14) :=
  let all := s.ctxs.filterMap fun x => match x.2.wait with
    | some (.ring o k) => some (o, x.1, k)
    | _ => none
  sortBy (·.1) (all.foldl (fun ws x => if ws.any fun y => decide (y.1 = x.1) then ws else ws ++ [x]) [])

/-- Waiting calls placed in order while the ring has room. -/
def State.wakeRing (s : State) : List (Nat × Party × BitVec 14) → State
  | [] => s
  | (_, p, k) :: ws =>
    let t := { s with cur := p }
    let act := t.waitLanes p
    if act.length ≤ t.callRoom then State.wakeRing (t.placeCall k false act) ws else s

/-- SYSC_WAITLIST_WAKE (R171, R432). -/
def execSyscWaitlistWake (s : State) : Outcome := .next (s.wakeRing s.ringWaiters)

/-! ### RDSR and WRSR (R173, R174) -/

/-- The special registers. -/
inductive Sr
  | fflags | fmask | xstat | wbase | teamyz | time | tvec | epc | einfo | eaddr
  deriving DecidableEq, Repr

/-- The register of a number. -/
def srOf (r : BitVec 7) : Option Sr :=
  match r.toNat with
  | 0 => some .fflags
  | 1 => some .fmask
  | 2 => some .xstat
  | 3 => some .wbase
  | 4 => some .teamyz
  | 5 => some .time
  | 16 => some .tvec
  | 17 => some .epc
  | 18 => some .einfo
  | 19 => some .eaddr
  | _ => none

/-- A register of service threads alone. -/
def Sr.service : Sr → Bool
  | .tvec | .epc | .einfo | .eaddr => true
  | _ => false

/-- A 64-bit register. -/
def Sr.wide : Sr → Bool
  | .time | .tvec | .epc | .einfo | .eaddr => true
  | _ => false

/-- A register that no WRSR writes. -/
def Sr.readOnly : Sr → Bool
  | .wbase | .teamyz | .time => true
  | _ => false

/-- The number names no register in the stream. -/
def srMissing (st : Stream) (r : BitVec 7) : Bool :=
  match srOf r with
  | none => true
  | some .wbase => decide (st = .headland)
  | some _ => false

/-- The value of a special register in a thread. -/
def State.readSr (s : State) (ref : ThreadRef) (x : Sr) : DWord :=
  let t := s.thread ref
  let v := match ref with | .service n => s.service n | _ => Service.fresh
  match x with
  | .fflags => t.fflags.zeroExtend 64
  | .fmask => t.fmask.zeroExtend 64
  | .xstat => t.xstat.zeroExtend 64
  | .wbase => match ref with | .helper _ _ => 0 | _ => t.wb.zeroExtend 64
  | .teamyz => match s.recruiter ref with
    | .compute tk _ | .headland tk =>
      let l := (s.team tk).launch
      BitVec.ofNat 64 (l.ty % 2 ^ 16 + l.tz % 2 ^ 16 * 2 ^ 16)
    | _ => 0
  | .time => s.time
  | .tvec => v.tvec
  | .epc => v.epc
  | .einfo => v.einfo
  | .eaddr => v.eaddr

/-- RDSR. -/
def execRdsr (d : Dest) (r : BitVec 7) (s : State) : Outcome :=
  let st := streamOf s.cur
  let x := (srOf r).getD .fflags
  let f : Form := { headland := true, pfxG := true, badEnc := srMissing st r, priv := x.service
                    dest := some (d, x.wide), bad := d.cls }
  s.issue f fun act s =>
    (s.writeDest d x.wide (act.map fun l => (l, s.readSr l.ref x))).finish f act

/-- A special register written: reserved fields stay zero (R8). The flags of matrix steps that no team barrier orders before
a WRSR of sr.fflags land after it (R104). -/
def State.writeSr (s : State) (ref : ThreadRef) (x : Sr) (v : DWord) : State :=
  let svc (g : Service → Service) : State := match ref with | .service n => s.onService n g | _ => s
  match x with
  | .fflags => s.onThread ref fun t => { t with fflags := v.extractLsb' 0 5 ||| t.engineFlags }
  | .fmask => s.onThread ref fun t => { t with fmask := v.extractLsb' 0 5 }
  | .xstat => s.onThread ref fun t => { t with xstat := v.extractLsb' 0 4 }
  | .tvec => svc fun w => { w with tvec := v &&& 0x0FFFFFFFFFFFFFFC }
  | .epc => svc fun w => { w with epc := v &&& 0x0FFFFFFFFFFFFFFF }
  | .einfo => svc fun w => { w with einfo := v &&& 0x800000FFFFFF00FF }
  | .eaddr => svc fun w => { w with eaddr := v &&& 0x0FFFFFFFFFFFFFFF }
  | .wbase | .teamyz | .time => s

/-- WRSR. -/
def execWrsr (a : Src) (r : BitVec 7) (s : State) : Outcome :=
  let st := streamOf s.cur
  let x := (srOf r).getD .fflags
  let f : Form := { headland := true, pfxG := true, badEnc := srMissing st r, priv := x.service, denied := x.readOnly
                    srcs := [⟨a, x.wide, false⟩] }
  s.issue f fun act s =>
    let vals := act.map fun l => (l, (s.reads f l).getD 0 0)
    (forEach vals s fun (y : Lane × DWord) s => s.writeSr y.1.ref x y.2).finish f act

/-! ### RTE (R176) -/

/-- RTE. -/
def execRte (s : State) : Outcome :=
  let f : Form := { priv := true, pfxG := true }
  s.issue f fun act s =>
    match s.cur with
    | .service n => (s.finish f act).serviceReturn n
    | _ => s

/-- The stream whose faulted state a fault record's handle names. -/
inductive Handle
  | group (tk gid : Nat)
  | headland (tk : Nat)
  | nothing
  deriving DecidableEq, Repr

/-- The team whose context area begins at an address. -/
def State.teamAt (s : State) (base : Nat) : Option Nat :=
  (s.teams.find? fun x => !x.2.ended && x.2.failed.isNone && decide (x.2.ctxBase = base)).map (·.1)

/-- What a handle names (R426). -/
def State.handleOf (s : State) (h : Nat) : Handle :=
  let off := h % 2 ^ 16
  match s.teamAt (h - off) with
  | none => .nothing
  | some tk =>
    if off = 0x40 then (if (s.team tk).hFaulted then .headland tk else .nothing)
    else if 0x80 ≤ off ∧ off < 0x2080 ∧ off % 32 = 0 then
      let gid := (off - 0x80) / 32
      if (s.group tk gid).faulted.isSome then .group tk gid else .nothing
    else .nothing

/-- The team's EBBC word read at its home slice (R176, R317). -/
def State.readEbbc (s : State) (tk : Nat) : State :=
  let x := s.devRead ((s.team tk).ctxBase % 2 ^ 44 + 8) 8
  s.onTeam tk fun t => { t with allow := x % 2 ^ 32, pol := x.testBit 32 }

/-- The action of RTE.GRP on a faulted stream: resume with the record as it stands, or fail. -/
def State.recordAction (s : State) (tk : Nat) (rec_ : Nat) (action : Nat) (resume : VAddr → Nat → State → State) : State :=
  let s := s.readEbbc tk
  let x := s.devRead (rec_ % 2 ^ 44) 32
  if action = 1 then s.failTeam tk (BitVec.ofNat 8 (bits x 63 56))
  else if bits x 65 64 ≠ 0 then s.failTeam tk 0x04
  else resume (BitVec.ofNat 60 (bits x 123 64)) (bits x 35 31) s

/-- RTE.GRP. -/
def execRteGrp (a b : Src) (s : State) : Outcome :=
  let f : Form := { priv := true, pfxG := true, srcs := [r64 a, r32 b] }
  s.issue f fun act s =>
    s.afterRelease .package allRegions fun s =>
      match act with
      | [] => s
      | l :: _ =>
        let h := ((s.reads f l).getD 0 0).toNat
        let action := ((s.reads f l).getD 1 0).toNat % 2 ^ 8
        let tell (ok : Bool) (s : State) : State := (s.onThread l.ref fun t => t.setPred 1 ok).finish f act
        if 1 < action then tell false s
        else match s.handleOf h with
          | .group tk gid => tell true (s.recordAction tk h action fun pc n s => s.groupReturn tk gid pc n)
          | .headland tk => tell true (s.recordAction tk h action fun pc _ s => s.headlandReturn tk pc)
          | .nothing => tell false s

/-! ### LOCQ (R374-R376) -/

/-- The die of the issuing core; 0 in a service thread. -/
def State.issueDie (s : State) : Nat := match s.cur with | .service _ => 0 | p => dieOfAgent (s.agentOf p)

/-- The home slice of a line; one that was lost with its die is shown as it stood there (R381). -/
def State.shownSlice (s : State) (pa : Nat) : Nat :=
  let old (x : Nat × Table Nat Nat) : Nat := tgetD (logicalSlice pa) (logicalSlice pa) x.2
  match s.l2.gone.reverse.find? fun x => decide (old x / 32 = x.1) with
  | some x => old x
  | none => s.homeSlice pa

/-- SLICE, MKIND, MDIE and IO of a physical address. -/
def State.placeWord (s : State) (pa : Nat) : Nat :=
  let l := pa % 2 ^ 44
  let slice := s.shownSlice pa * 2 ^ 36
  if notifyBase ≤ l then 2 ^ 56
  else if pa / 2 ^ 44 % 4096 ≠ s.fab.pid.toNat then slice + 2 * 2 ^ 34
  else if isHbm l then slice + l / 2 ^ 36 * 2 ^ 31
  else if isLpddr l then slice + 1 * 2 ^ 34 + (l - 0x20000000000) / 2 ^ 40 * 2 ^ 31
  else if (s.hostPortOf l).isSome then 3 * 2 ^ 34
  else slice + (Config.holeKind l).toNat * 2 ^ 31

/-- The locality word. -/
def State.localityWord (s : State) (va : Nat) (l : Option Leaf) : DWord :=
  let cdie := s.issueDie * 2 ^ 28
  match l with
  | none => BitVec.ofNat 64 cdie
  | some l =>
    let pa := l.pa va
    let e := l.entry
    BitVec.ofNat 64 (2 ^ 63 + l.size % 16 * 2 ^ 59 + pa / 2 ^ 44 % 4096 * 2 ^ 44 + s.placeWord pa + cdie
      + b2n (e.getLsbD 2) * 2 ^ 27 + b2n (e.getLsbD 3) * 2 ^ 26 + b2n (e.getLsbD 4) * 2 ^ 25
      + b2n (e.getLsbD 6) * 2 ^ 24 + b2n (e.getLsbD 7) * 2 ^ 23)

/-- Translations of the lanes of LOCQ: a non-canonical address, and every address of a service thread in bring-up mode,
has no leaf. -/
def State.translateAll (s : State) : List (Lane × DWord) → State × List (Lane × DWord × Trans)
  | [] => (s, [])
  | (l, x) :: xs =>
    let r := if 2 ^ 60 ≤ x.toNat ∨ (s.bm ∧ isService s.cur = true) then (s, Trans.absent)
      else s.translate s.cur (s.agentOf s.cur) (s.asnOf s.cur) x.toNat
    let rest := State.translateAll r.1 xs
    (rest.1, (l, x, r.2) :: rest.2)

/-- LOCQ and LOCQ.PA. -/
def State.locqOp (s : State) (d : Dest) (a : Src) (pa : Bool) : Outcome :=
  let f : Form := { headland := true, priv := pa, pfxG := true, srcs := [r64 a], dest := some (d, true), bad := d.cls }
  s.issue f fun act s =>
    let r := s.translateAll (act.map fun l => (l, (s.reads f l).getD 0 0))
    if r.2.any fun x => decide (x.2.2 = .wait) then r.1.parkRetry
    else
      let s := r.1
      let val (x : Lane × DWord × Trans) : DWord :=
        let leaf := match x.2.2 with | .leaf l => some l | _ => none
        if pa then (match leaf with | some l => BitVec.ofNat 64 (l.pa x.2.1.toNat) | none => 0)
        else s.localityWord x.2.1.toNat leaf
      let outs := r.2.map fun x => (x.1, val x)
      let bad := r.2.filter fun x => decide (x.2.2 = .poison)
      let s := forEach bad s fun x s => s.onThread x.1.ref fun t => { t with xstat := t.xstat ||| xstatTE }
      (s.writeDest d true outs).finish f act

/-- LOCQ. -/
def execLocq (d : Dest) (a : Src) (s : State) : Outcome := s.locqOp d a false

/-- LOCQ.PA. -/
def execLocqPa (d : Dest) (a : Src) (s : State) : Outcome := s.locqOp d a true

/-! ### PTUPD (R369-R372) -/

/-- OP, LVL, KEEP, ZT, ASN, ZNUM of a command block (R370). -/
structure PtCommand where
  va : Nat
  e : Nat
  op : Nat
  lvl : Nat
  zt : Bool
  keep : Bool
  asn : Nat
  znum : Nat
  deriving DecidableEq, Repr

/-- The fields of a block. -/
def ptFields (x : BitVec 256) : PtCommand :=
  let n := x.toNat
  ⟨bits n 63 0, bits n 127 64, bits n 131 128, bits n 133 132, n.testBit 134, n.testBit 135, bits n 151 140, bits n 171 152⟩

/-- The block is malformed: status 1 (R371). A ZNUM that is not zero without ZTAB, and an E that is not zero without SETE, count
as reserved bits that are set (DESIGN CHOICE, notes/assumptions/135.md). -/
def ptMalformed (x : BitVec 256) : Bool :=
  let n := x.toNat
  let c := ptFields x
  decide (n / 2 ^ 172 ≠ 0) || decide (bits n 139 136 ≠ 0) || decide (2 < c.op)
    || (decide (c.op ≠ 2) && decide (c.znum ≠ 0)) || (decide (c.op ≠ 0) && decide (c.e ≠ 0))
    || (decide (c.op = 0) && (!eP c.e || !entryForm c.lvl c.e))

/-- The status written, the acquire performed, the thread goes on. -/
def State.ptDone (s : State) (d : Dest) (status : Nat) (act : List Lane) : State :=
  let s := s.acquire s.cur .package allRegions
  (s.writeDest d false (act.map fun l => (l, BitVec.ofNat 64 status))).retire

/-- PTUPD: the block read, the release, then the command stands with the table-update engine and the thread waits; a
malformed block is answered at once. -/
def execPtupd (d : Dest) (a : Src) (s : State) : Outcome :=
  let f : Form := { priv := true, pfxG := true, srcs := [r64 a], dest := some (d, false), bad := d.cls }
  s.issue f fun act s =>
    s.withChecks .read false true 32 (s.laneVas f 0 act) fun ok s =>
      let r := s.loadAll s.cur (partsOf 32 ok)
      if loadWaits r.2 then r.1.parkRetry .checks
      else match trapOf false (loadFaults r.2) with
        | some t => r.1.raiseAccess t ((loadFaults r.2).map (·.2))
        | none => match loadVals r.2, s.cur with
          | (_, v) :: _, .service n =>
            r.1.afterRelease .package allRegions fun s =>
              let x := BitVec.ofNat 256 v
              if ptMalformed x then s.ptDone d 1 act
              else if s.table.command.isSome then s.parkRetry
              else { s.park (.ptupd d) with table := { s.table with command := some (n, x) } }
          | _, _ => r.1

/-! ### RCLM (R457-R459) -/

/-- The owner is shut out; a barrel core never is (R457). -/
def State.shutOut (s : State) (o : Owner) : Bool :=
  if 0x200 ≤ o.agent ∧ o.agent < 0x204 then false
  else s.fenced o.pkg
    || (decide (o.pkg = s.fab.pid.toNat) &&
        (if o.agent < 0x200 then (s.core o.agent).out || (s.die (dieOfAgent o.agent)).fatal
         else if o.agent = 0x240 ∨ o.agent = 0x241 then (s.fab.host (o.agent - 0x240)).down
         else false))

/-- The word reclaimed at its home slice: the status. The value is a strong write in co (R399). -/
def State.reclaimed (s : State) (a : Asker) (w : Nat) (v : Word) : State × Nat :=
  let lose (o : Owner) : State := if s.shutOut o then s.setLost w o else s
  let s : State := match s.wordSt w with
    | some (.open_ o _ _) => lose o
    | some (.closed o _ _ _) => lose o
    | _ => s
  match s.wordSt w with
  | some (WordSt.lost o) =>
    if s.shutOut o then
      let s := ({ s with mem := msets w (natBytes 4 v.toNat) s.mem }.makeV w).healWord w
      ((s.dropOwn a w).writeThrough a.agent w, 0)
    else (s, 2)
  | _ => (s, 1)

/-- The reclaim, when its turn has come at the home slice (R384). -/
def State.reclaim (s : State) (w : Nat) (v : Word) : State × Reply Nat :=
  let a := s.asker s.cur 0
  s.atHome a.who [w] fun s =>
    if s.contained w then (s, .wait)
    else
      let r := s.reclaimed a w v
      (r.1, .done r.2)

/-- RCLM. -/
def execRclm (d : Dest) (a b : Src) (s : State) : Outcome :=
  let f : Form := { priv := true, pfxG := true, cpopIsHint := true, srcs := [r64 a, r32 b], dest := some (d, false)
                    bad := d.cls || a.cls }
  s.issue f fun act s =>
    match act with
    | [] => s
    | l :: _ =>
      let pa := ((s.reads f l).getD 0 0).toNat
      let v : Word := ((s.reads f l).getD 1 0).extractLsb' 0 32
      let answer (s : State) (n : Nat) : State := (s.writeDest d false (act.map fun l => (l, BitVec.ofNat 64 n))).finish f act
      if pa % 4 ≠ 0 then s.raise { cause := 0x04, lanes := act, addr := pa }
      else if 2 ^ 56 ≤ pa then s.raise { cause := 0x06, lanes := act, addr := pa, aux := 1 }
      else if pa / 2 ^ 44 ≠ s.fab.pid.toNat then answer s 3
      else if !assigned (pa % 2 ^ 44) then s.raise { cause := 0x06, lanes := act, addr := pa, aux := 0x20 }
      else s.afterRelease .system allRegions fun s =>
        let mark := match s.cctx.wait with | some (.release m) => m | _ => s.mark
        match s.reclaim (pa % 2 ^ 44) v with
        | (s', .done n) => answer s' n
        | (s', _) => s'.park (.release mark)

end Sys2Proof.Machine
end

