-- ==== Sys2Proof/Machine/Tables.lean ====
section
/-! DEFINITION. The steps of the walkers and of the table-update engine: page walks, SETE, CLRE, ZTAB, what their
completion waits for, and the zeroing of pages (14_die.md R364-R373, 12_cluster.md R338). -/
namespace Sys2Proof.Machine

/-! ### Walks of the miss table (R364, R367, R368) -/

/-- PAGE_WALK: the walk of one entry of a die's miss table. A leaf is placed in the TLBs of those that wait; an absence
or the lack of a sound copy stays in the entry until each of them has taken it. -/
def execPageWalk (die asn vpn : Nat) (s : State) : Outcome :=
  .next (match (s.die die).misses.find? fun m => decide (m.asn = asn) && decide (m.vpn = vpn) && m.found.isNone with
    | none => s
    | some m =>
      let drop (s : State) : State := s.onDie die fun d => { d with misses := d.misses.filter (· ≠ m) }
      let ends (s : State) (r : NoLeaf) : State :=
        s.onDie die fun d => { d with misses := d.misses.map fun x => if x = m then { m with found := some r } else x }
      match s.walk die asn (vpn * 4096) with
      | (s', .found l) => forEach m.waiters (drop s') fun p s => s.tlbFill (s.agentOf p) asn (vpn * 4096) l
      | (s', .absent) => ends s' .absent
      | (s', .poison) => ends s' .poison)

/-! ### Writing tables (R371, R372) -/

/-- Entry i of a table written in every replica that is left. -/
def State.writeEntry (s : State) (t i e : Nat) : State :=
  forEach (upto 8) s fun d s => if (s.die d).link then s else s.rawWrite (s.entryAddr d t i) (natBytes 8 e)

/-- Entries of a table written in every replica. -/
def State.writeEntries (s : State) (t first n e : Nat) : State :=
  forEach (upto n) s fun i s => s.writeEntry t (first + i) e

/-- A table zeroed in every replica. -/
def State.zeroTable (s : State) (t : Nat) : State :=
  forEach (upto 8) s fun d s =>
    if (s.die d).link then s
    else
      let a := s.entryAddr d t 0
      { s with
        mem := s.mem.filter fun c => !(decide (a ≤ c.1) && decide (c.1 < a + 0x8000))
        poison := s.poison.filter fun w => !(decide (a ≤ w) && decide (w < a + 0x8000)) }

/-- A table number that some die's area does not hold: status 4 (R371, R379). -/
def State.tableBad (s : State) (t : Nat) : Bool := (upto 8).any fun d => !(s.die d).link && decide ((s.die d).ntab ≤ t)

/-- The table that holds the entry of an address at a level, from a level on; nothing where a level above is absent or a
leaf. -/
def State.tableFrom (s : State) (d va : Nat) : Nat → Nat → Nat → Option Nat
  | 0, _, t => some t
  | n + 1, lvl, t =>
    match (s.readEntry d lvl t (vaIndex va lvl)).2 with
    | some e => if eP e && !eLeaf e then State.tableFrom s d va n (lvl + 1) (eTnum e) else none
    | none => none

/-- The table of the entry that a command names, as the tables stand. -/
def State.commandTable (s : State) (c : PtCommand) : Option Nat := s.tableFrom (s.walkDie 0x200) c.va c.lvl 0 c.asn

/-- The entry that a command names, as it stands. -/
def State.commandEntry (s : State) (c : PtCommand) (t : Nat) : Nat :=
  ((s.readEntry (s.walkDie 0x200) c.lvl t (vaIndex c.va c.lvl)).2).getD 0

/-- First entry and number of entries of a leaf's group (R362). -/
def leafGroup (va lvl span : Nat) : Nat × Nat := (vaIndex va lvl / 4 ^ span * 4 ^ span, 4 ^ span)

/-! ### Zeroing (R338, R371) -/

/-- The 4 KiB frames of a page that lie in memory of this package. -/
def State.localFrames (s : State) (c : PtCommand) : List Nat :=
  let pa := bits c.e 55 12 * 4096
  if pa / 2 ^ 44 ≠ s.fab.pid.toNat then []
  else ((upto (2 ^ leafLog c.lvl (eSpan c.e) / 4096)).map fun i => pa % 2 ^ 44 / 4096 + i).filter fun f => isLocalMem (f * 4096)

/-- A word of a frame. -/
def inFrame (f a : Nat) : Bool := decide (a / 4096 = f)

/-- A frame zeroed at its home slices: every word V and 0, no copy left in an L1 or a near cache, no request waits. -/
def State.zeroFrame (s : State) (f : Nat) : State :=
  let s := { s with
    mem := s.mem.filter fun c => !inFrame f c.1
    poison := s.poison.filter fun w => !inFrame f w
    words := s.words.filter fun x => !inFrame f x.1
    held := s.held.filter fun h => !inFrame f h.word
    dies := tmap (fun _ d => { d with near := d.near.filter fun x => !inFrame f x.1 }) s.dies
    coreMem := tmap (fun _ m => { m with l1 := m.l1.filter fun x => !inFrame f x.1 }) s.coreMem }
  forEach ((upto 1024).map fun i => f * 4096 + 4 * i) s fun w s => if s.homeGone w then s.makeV w else s

/-- The frames that a leaf gives to another address space are zeroed and owned by it. -/
def State.takeFrames (s : State) (c : PtCommand) : State :=
  forEach (s.localFrames c) s fun f s =>
    if tgetD f 0 s.table.owners = c.asn then s
    else
      let s := s.zeroFrame f
      { s with table := { s.table with owners := tset f c.asn s.table.owners } }

/-! ### Effects and refusals -/

/-- SETE: the entry written, or the status of its refusal. -/
def State.sete (s : State) (c : PtCommand) : State × Nat :=
  if (!eLeaf c.e && s.tableBad (eTnum c.e)) || s.tableBad c.asn then (s, 4)
  else if eLeaf c.e && (!pfnAligned c.lvl c.e || decide (c.va % 2 ^ leafLog c.lvl (eSpan c.e) ≠ 0)) then (s, 3)
  else match s.commandTable c with
    | none => (s, 2)
    | some t =>
      if eLeaf c.e then
        let g := leafGroup c.va c.lvl (eSpan c.e)
        let s := s.writeEntries t g.1 g.2 c.e
        (if c.keep then s else s.takeFrames c, 0)
      else
        let s := if c.zt then s.zeroTable (eTnum c.e) else s
        (s.writeEntry t (vaIndex c.va c.lvl) c.e, 0)

/-- CLRE: the entry cleared, a leaf with its whole group. -/
def State.clre (s : State) (c : PtCommand) : State × Nat :=
  if s.tableBad c.asn then (s, 4)
  else match s.commandTable c with
    | none => (s, 2)
    | some t =>
      let e := s.commandEntry c t
      if eP e && eLeaf e then
        let g := leafGroup c.va c.lvl (eSpan e)
        (s.writeEntries t g.1 g.2 0, 0)
      else (s.writeEntry t (vaIndex c.va c.lvl) 0, 0)

/-- ZTAB. -/
def State.ztab (s : State) (c : PtCommand) : State × Nat := if s.tableBad c.znum then (s, 4) else (s.zeroTable c.znum, 0)

/-! ### What completion waits for (R372) -/

/-- An access under way, which has been translated: its address space, its address, and the trust of its party. -/
structure Flight where
  asn : Nat
  va : Nat
  svc : Bool
  deriving DecidableEq, Repr

/-- The accesses of an ebb entry. -/
def EbbEntry.flights (e : EbbEntry) : List Flight :=
  match e.kind with
  | .store bs _ => bs.map fun b => ⟨e.asn, b.va, e.isService⟩
  | .atoms xs => xs.map fun a => ⟨e.asn, a.va, e.isService⟩

/-- The accesses of a load whose answer is out; a word of an LDM that is not translated yet is none. -/
def State.loadFlights (s : State) (p : Party) (c : Ctx) : List Flight :=
  match c.wait with
  | some (.load _ (.ldm _ _ false) _ _ _) => []
  | some (.load _ _ parts _ _) => parts.map fun x => ⟨s.asnOf p, x.va, isService p⟩
  | _ => []

/-- The accesses of a team's engine queues. -/
def Team.engineFlights (t : Team) : List Flight :=
  t.engines.flatMap fun x => x.2.trans.map fun a => ⟨t.launch.asn, a.va, false⟩

/-- The leaf of an address as the tables stand, with no walk cache between. -/
def State.leafNow (s : State) (asn va : Nat) : Option Leaf :=
  let d := s.walkDie 0x200
  match ((s.onDie d fun x => { x with walks := [] }).walk d asn va).2 with
  | .found l => some l
  | _ => none

/-- A leaf gives fewer rights than another: R, W or X gone, or the page closed to others than service threads (R363). -/
def Leaf.narrows (new old : Leaf) : Bool :=
  decide ((old.entry &&& ~~~new.entry).extractLsb' 2 3 ≠ 0) || (new.entry.getLsbD 6 && !old.entry.getLsbD 6)

/-- The tables of a new state have removed the leaf under which an access was translated, or narrowed its rights (R372). -/
def State.withdraws (s new : State) (x : Flight) : Bool :=
  if s.bm && x.svc then false
  else match s.leafNow x.asn x.va, new.leafNow x.asn x.va with
    | some l, some l' => decide (l'.pa x.va ≠ l.pa x.va) || l'.narrows l
    | some _, none => true
    | none, _ => false

/-- The entry holds an access that the new tables withdraw. -/
def EbbEntry.stale (s new : State) (e : EbbEntry) : Bool := e.flights.any (s.withdraws new)

/-- A team that holds such an entry takes a checkpoint; a helper that holds one is released. -/
def State.pressEntry (s : State) (core : Nat) (e : EbbEntry) : State :=
  if !e.held then s
  else match e.stream, e.tk with
    | .helper _ f, _ => s.stopHelper core f .released
    | _, some tk =>
      let s := s.checkpoint tk
      match (s.team tk).pair with
      | .primary x => s.checkpoint x
      | .shadow x => s.checkpoint x
      | .none => s
    | _, none => s

/-- The entries, with their cores, that hold accesses which the new tables withdraw. -/
def State.staleEntries (s new : State) : List (Nat × EbbEntry) :=
  s.coreMem.flatMap fun x => (x.2.ebb.filter (EbbEntry.stale s new)).map fun e => (x.1, e)

/-- A load or an engine's access that the new tables withdraw is still out. -/
def State.staleLoads (s new : State) : Bool :=
  (s.ctxs.any fun x => (s.loadFlights x.1 x.2).any (s.withdraws new))
    || s.teams.any fun x => x.2.engineFlights.any (s.withdraws new)

/-- Every TLB and walk-cache entry is removed and every walk restarted: none holds a changed entry. -/
def State.flushTranslations (s : State) : State :=
  { s with
    coreMem := tmap (fun _ m => { m with tlb := [] }) s.coreMem
    clusters := tmap (fun _ c => { c with tlb := [] }) s.clusters
    dies := tmap (fun _ d => { d with walks := [], misses := d.misses.map fun m => { m with found := none } }) s.dies }

/-- The command completes: its thread receives the status, and parked engine queues are due for a retry (R324). -/
def State.completeCommand (s : State) (n status : Nat) : State :=
  let s := { s with table := { s.table with command := none } }.retryDue
  let p := Party.service n
  match (s.ctx p).wait with
  | some (.ptupd d) => { s with cur := p }.ptDone d status (s.waitLanes p)
  | _ => s

/-- A step of the table-update engine on the command in progress, when it is of the given kind: refused, or performed as
a whole once no access stands out that the changed tables withdraw, and the device's own writes, which were translated before,
have been performed (R372, R480). -/
def State.tableStep (s : State) (n op : Nat) (f : State → PtCommand → State × Nat) : Outcome :=
  .next (match s.table.command with
    | none => s
    | some (m, x) =>
      let c := ptFields x
      if m ≠ n ∨ c.op ≠ op then s
      else
        let r := f s c
        if r.2 ≠ 0 then s.completeCommand n r.2
        else
          let stale := s.staleEntries r.1
          if stale = [] ∧ s.staleLoads r.1 = false ∧ s.devPending = [] then r.1.flushTranslations.completeCommand n 0
          else forEach stale s fun y s => s.pressEntry y.1 y.2)

/-- PTUPD_SETE (R371). -/
def execPtupdSete (n : Nat) (s : State) : Outcome := s.tableStep n 0 State.sete

/-- PTUPD_CLRE (R371). -/
def execPtupdClre (n : Nat) (s : State) : Outcome := s.tableStep n 1 State.clre

/-- PTUPD_ZTAB (R371). -/
def execPtupdZtab (n : Nat) (s : State) : Outcome := s.tableStep n 2 State.ztab

end Sys2Proof.Machine
end

