-- ==== Sys2Proof/Machine/Dispatch.lean ====
section
/-! DEFINITION. The meaning of every constructor of Instr, one arm each. -/
namespace Sys2Proof.Machine

def exec (i : Instr) (s : State) : Host.Outcome State Fault Refusal :=
  match i with
  | .add d a b g => Sys2Proof.Machine.execAdd d a b g s
  | .addc d a b g => Sys2Proof.Machine.execAddc d a b g s
  | .sub d a b g => Sys2Proof.Machine.execSub d a b g s
  | .subb d a b g => Sys2Proof.Machine.execSubb d a b g s
  | .neg d a g => Sys2Proof.Machine.execNeg d a g s
  | .abs d a g => Sys2Proof.Machine.execAbs d a g s
  | .min d a b g => Sys2Proof.Machine.execMin d a b g s
  | .minN d a b g => Sys2Proof.Machine.execMinN d a b g s
  | .max d a b g => Sys2Proof.Machine.execMax d a b g s
  | .maxN d a b g => Sys2Proof.Machine.execMaxN d a b g s
  | .addsat d a b g => Sys2Proof.Machine.execAddsat d a b g s
  | .addsatN d a b g => Sys2Proof.Machine.execAddsatN d a b g s
  | .subsat d a b g => Sys2Proof.Machine.execSubsat d a b g s
  | .subsatN d a b g => Sys2Proof.Machine.execSubsatN d a b g s
  | .and d a b g => Sys2Proof.Machine.execAnd d a b g s
  | .or d a b g => Sys2Proof.Machine.execOr d a b g s
  | .xor d a b g => Sys2Proof.Machine.execXor d a b g s
  | .not d a g => Sys2Proof.Machine.execNot d a g s
  | .andn d a b g => Sys2Proof.Machine.execAndn d a b g s
  | .sel d a b g => Sys2Proof.Machine.execSel d a b g s
  | .mov d a g => Sys2Proof.Machine.execMov d a g s
  | .shl d a b g => Sys2Proof.Machine.execShl d a b g s
  | .shr d a b g => Sys2Proof.Machine.execShr d a b g s
  | .sar d a b g => Sys2Proof.Machine.execSar d a b g s
  | .rot d a b g => Sys2Proof.Machine.execRot d a b g s
  | .fshf d a b g => Sys2Proof.Machine.execFshf d a b g s
  | .bfx d a b g => Sys2Proof.Machine.execBfx d a b g s
  | .bfxN d a b g => Sys2Proof.Machine.execBfxN d a b g s
  | .bfi d a b g => Sys2Proof.Machine.execBfi d a b g s
  | .brev d a g => Sys2Proof.Machine.execBrev d a g s
  | .popc d a g => Sys2Proof.Machine.execPopc d a g s
  | .clz d a g => Sys2Proof.Machine.execClz d a g s
  | .ctz d a g => Sys2Proof.Machine.execCtz d a g s
  | .bytep d a b g => Sys2Proof.Machine.execBytep d a b g s
  | .mul d a b g => Sys2Proof.Machine.execMul d a b g s
  | .mulh d a b g => Sys2Proof.Machine.execMulh d a b g s
  | .mulhN d a b g => Sys2Proof.Machine.execMulhN d a b g s
  | .mulw d a b g => Sys2Proof.Machine.execMulw d a b g s
  | .mulwN d a b g => Sys2Proof.Machine.execMulwN d a b g s
  | .div d a b g => Sys2Proof.Machine.execDiv d a b g s
  | .divN d a b g => Sys2Proof.Machine.execDivN d a b g s
  | .rem d a b g => Sys2Proof.Machine.execRem d a b g s
  | .remN d a b g => Sys2Proof.Machine.execRemN d a b g s
  | .sad d a b g => Sys2Proof.Machine.execSad d a b g s
  | .cmp k p a b g => Sys2Proof.Machine.execCmp k p a b g s
  | .cmp64 k p a b g => Sys2Proof.Machine.execCmp64 k p a b g s
  | .pand p q r g => Sys2Proof.Machine.execPand p q r g s
  | .por p q r g => Sys2Proof.Machine.execPor p q r g s
  | .pxor p q r g => Sys2Proof.Machine.execPxor p q r g s
  | .pnot p q g => Sys2Proof.Machine.execPnot p q g s
  | .add64 d a b g => Sys2Proof.Machine.execAdd64 d a b g s
  | .sub64 d a b g => Sys2Proof.Machine.execSub64 d a b g s
  | .mul64 d a b g => Sys2Proof.Machine.execMul64 d a b g s
  | .shl64 d a b g => Sys2Proof.Machine.execShl64 d a b g s
  | .shr64 d a b g => Sys2Proof.Machine.execShr64 d a b g s
  | .sar64 d a b g => Sys2Proof.Machine.execSar64 d a b g s
  | .lea d a b g => Sys2Proof.Machine.execLea d a b g s
  | .paddI16x2 d a b g => Sys2Proof.Machine.execPaddI16x2 d a b g s
  | .psubI16x2 d a b g => Sys2Proof.Machine.execPsubI16x2 d a b g s
  | .pminI16x2 d a b g => Sys2Proof.Machine.execPminI16x2 d a b g s
  | .pmaxI16x2 d a b g => Sys2Proof.Machine.execPmaxI16x2 d a b g s
  | .paddI8x4 d a b g => Sys2Proof.Machine.execPaddI8x4 d a b g s
  | .psubI8x4 d a b g => Sys2Proof.Machine.execPsubI8x4 d a b g s
  | .pminI8x4 d a b g => Sys2Proof.Machine.execPminI8x4 d a b g s
  | .pmaxI8x4 d a b g => Sys2Proof.Machine.execPmaxI8x4 d a b g s
  | .addi d a x2 g => Sys2Proof.Machine.execAddi d a x2 g s
  | .andi d a x2 g => Sys2Proof.Machine.execAndi d a x2 g s
  | .ori d a x2 g => Sys2Proof.Machine.execOri d a x2 g s
  | .xori d a x2 g => Sys2Proof.Machine.execXori d a x2 g s
  | .shli d a x2 g => Sys2Proof.Machine.execShli d a x2 g s
  | .shri d a x2 g => Sys2Proof.Machine.execShri d a x2 g s
  | .sari d a x2 g => Sys2Proof.Machine.execSari d a x2 g s
  | .cmpi k p a x3 g => Sys2Proof.Machine.execCmpi k p a x3 g s
  | .movi d x1 g => Sys2Proof.Machine.execMovi d x1 g s
  | .leai d x1 g => Sys2Proof.Machine.execLeai d x1 g s
  | .mad d a b c => Sys2Proof.Machine.execMad d a b c s
  | .madw d a b c => Sys2Proof.Machine.execMadw d a b c s
  | .madwN d a b c => Sys2Proof.Machine.execMadwN d a b c s
  | .dp4a d a b c => Sys2Proof.Machine.execDp4a d a b c s
  | .dp4aN d a b c => Sys2Proof.Machine.execDp4aN d a b c s
  | .fadd d a b g => Sys2Proof.Machine.execFadd d a b g s
  | .fsub d a b g => Sys2Proof.Machine.execFsub d a b g s
  | .fmul d a b g => Sys2Proof.Machine.execFmul d a b g s
  | .fmin d a b g => Sys2Proof.Machine.execFmin d a b g s
  | .fmax d a b g => Sys2Proof.Machine.execFmax d a b g s
  | .fabs d a g => Sys2Proof.Machine.execFabs d a g s
  | .fneg d a g => Sys2Proof.Machine.execFneg d a g s
  | .frnd d a g => Sys2Proof.Machine.execFrnd d a g s
  | .fscale d a b g => Sys2Proof.Machine.execFscale d a b g s
  | .faddF64 d a b g => Sys2Proof.Machine.execFaddF64 d a b g s
  | .fsubF64 d a b g => Sys2Proof.Machine.execFsubF64 d a b g s
  | .fmulF64 d a b g => Sys2Proof.Machine.execFmulF64 d a b g s
  | .fminF64 d a b g => Sys2Proof.Machine.execFminF64 d a b g s
  | .fmaxF64 d a b g => Sys2Proof.Machine.execFmaxF64 d a b g s
  | .fabsF64 d a g => Sys2Proof.Machine.execFabsF64 d a g s
  | .fnegF64 d a g => Sys2Proof.Machine.execFnegF64 d a g s
  | .frndF64 d a g => Sys2Proof.Machine.execFrndF64 d a g s
  | .fscaleF64 d a b g => Sys2Proof.Machine.execFscaleF64 d a b g s
  | .pfaddF16x2 d a b g => Sys2Proof.Machine.execPfaddF16x2 d a b g s
  | .pfsubF16x2 d a b g => Sys2Proof.Machine.execPfsubF16x2 d a b g s
  | .pfmulF16x2 d a b g => Sys2Proof.Machine.execPfmulF16x2 d a b g s
  | .pfminF16x2 d a b g => Sys2Proof.Machine.execPfminF16x2 d a b g s
  | .pfmaxF16x2 d a b g => Sys2Proof.Machine.execPfmaxF16x2 d a b g s
  | .fcmpF32 k p a b g => Sys2Proof.Machine.execFcmpF32 k p a b g s
  | .fcmpF64 k p a b g => Sys2Proof.Machine.execFcmpF64 k p a b g s
  | .fclassF32 k p a g => Sys2Proof.Machine.execFclassF32 k p a g s
  | .fclassF64 k p a g => Sys2Proof.Machine.execFclassF64 k p a g s
  | .fdiv d a b g => Sys2Proof.Machine.execFdiv d a b g s
  | .fdivF64 d a b g => Sys2Proof.Machine.execFdivF64 d a b g s
  | .fsqrt d a g => Sys2Proof.Machine.execFsqrt d a g s
  | .fsqrtF64 d a g => Sys2Proof.Machine.execFsqrtF64 d a g s
  | .frcp d a g => Sys2Proof.Machine.execFrcp d a g s
  | .frsq d a g => Sys2Proof.Machine.execFrsq d a g s
  | .fexp2 d a g => Sys2Proof.Machine.execFexp2 d a g s
  | .flog2 d a g => Sys2Proof.Machine.execFlog2 d a g s
  | .fsin d a g => Sys2Proof.Machine.execFsin d a g s
  | .fcos d a g => Sys2Proof.Machine.execFcos d a g s
  | .cvt d a f t g => Sys2Proof.Machine.execCvt d a f t g s
  | .cvti d a f t g => Sys2Proof.Machine.execCvti d a f t g s
  | .cvtf d a f t g => Sys2Proof.Machine.execCvtf d a f t g s
  | .pack8 d a w k h g => Sys2Proof.Machine.execPack8 d a w k h g s
  | .unpack8 d a w k h g => Sys2Proof.Machine.execUnpack8 d a w k h g s
  | .cbdec d a m g => Sys2Proof.Machine.execCbdec d a m g s
  | .fmaF32 d a b c => Sys2Proof.Machine.execFmaF32 d a b c s
  | .fmaF64 d a b c => Sys2Proof.Machine.execFmaF64 d a b c s
  | .pfmaF16x2 d a b c => Sys2Proof.Machine.execPfmaF16x2 d a b c s
  | .ld d a o f => Sys2Proof.Machine.execLd d a o f s
  | .st d a o f => Sys2Proof.Machine.execSt d a o f s
  | .ldt d a o f => Sys2Proof.Machine.execLdt d a o f s
  | .stt d a o f => Sys2Proof.Machine.execStt d a o f s
  | .lds d a o f x4 => Sys2Proof.Machine.execLds d a o f x4 s
  | .sts d a o f x4 => Sys2Proof.Machine.execSts d a o f x4 s
  | .ldm d a o n => Sys2Proof.Machine.execLdm d a o n s
  | .stm d a o n => Sys2Proof.Machine.execStm d a o n s
  | .pref a o l => Sys2Proof.Machine.execPref a o l s
  | .atoms d a b w n => Sys2Proof.Machine.execAtoms d a b w n s
  | .atom d a b w n => Sys2Proof.Machine.execAtom d a b w n s
  | .red a b w n => Sys2Proof.Machine.execRed a b w n s
  | .acq l x1 a => Sys2Proof.Machine.execAcq l x1 a s
  | .rel l x1 a => Sys2Proof.Machine.execRel l x1 a s
  | .fence l x1 a => Sys2Proof.Machine.execFence l x1 a s
  | .gfence => Sys2Proof.Machine.execGfence s
  | .ebdr => Sys2Proof.Machine.execEbdr s
  | .bra g o => Sys2Proof.Machine.execBra g o s
  | .brc g o => Sys2Proof.Machine.execBrc g o s
  | .call g o => Sys2Proof.Machine.execCall g o s
  | .join o => Sys2Proof.Machine.execJoin o s
  | .brk g o n => Sys2Proof.Machine.execBrk g o n s
  | .ret g a => Sys2Proof.Machine.execRet g a s
  | .jmpr g a => Sys2Proof.Machine.execJmpr g a s
  | .exit g => Sys2Proof.Machine.execExit g s
  | .voteOr p q b g => Sys2Proof.Machine.execVoteOr p q b g s
  | .voteAnd p q b g => Sys2Proof.Machine.execVoteAnd p q b g s
  | .voteEq p q b g => Sys2Proof.Machine.execVoteEq p q b g s
  | .ballot d q b g => Sys2Proof.Machine.execBallot d q b g s
  | .elect p b g => Sys2Proof.Machine.execElect p b g s
  | .matchL d a b g => Sys2Proof.Machine.execMatchL d a b g s
  | .voteCnt d q b g => Sys2Proof.Machine.execVoteCnt d q b g s
  | .shflIdx d a b g => Sys2Proof.Machine.execShflIdx d a b g s
  | .shflUp d a b g => Sys2Proof.Machine.execShflUp d a b g s
  | .shflDn d a b g => Sys2Proof.Machine.execShflDn d a b g s
  | .shflXor d a b g => Sys2Proof.Machine.execShflXor d a b g s
  | .redgAdd d a g => Sys2Proof.Machine.execRedgAdd d a g s
  | .redgMin d a g => Sys2Proof.Machine.execRedgMin d a g s
  | .redgMinN d a g => Sys2Proof.Machine.execRedgMinN d a g s
  | .redgMax d a g => Sys2Proof.Machine.execRedgMax d a g s
  | .redgMaxN d a g => Sys2Proof.Machine.execRedgMaxN d a g s
  | .redgAnd d a g => Sys2Proof.Machine.execRedgAnd d a g s
  | .redgOr d a g => Sys2Proof.Machine.execRedgOr d a g s
  | .redgXor d a g => Sys2Proof.Machine.execRedgXor d a g s
  | .redgFadd d a g => Sys2Proof.Machine.execRedgFadd d a g s
  | .scangAdd d a g => Sys2Proof.Machine.execScangAdd d a g s
  | .scangAddx d a g => Sys2Proof.Machine.execScangAddx d a g s
  | .reform => Sys2Proof.Machine.execReform s
  | .reformAge a => Sys2Proof.Machine.execReformAge a s
  | .rgn w l h => Sys2Proof.Machine.execRgn w l h s
  | .view n a => Sys2Proof.Machine.execView n a s
  | .recruit d a b => Sys2Proof.Machine.execRecruit d a b s
  | .hwait d => Sys2Proof.Machine.execHwait d s
  | .hdone => Sys2Proof.Machine.execHdone s
  | .barInit n a => Sys2Proof.Machine.execBarInit n a s
  | .barArv n => Sys2Proof.Machine.execBarArv n s
  | .barArvCount n a => Sys2Proof.Machine.execBarArvCount n a s
  | .barSyn n => Sys2Proof.Machine.execBarSyn n s
  | .barSynCount n a => Sys2Proof.Machine.execBarSynCount n a s
  | .barWt n => Sys2Proof.Machine.execBarWt n s
  | .barDrp n => Sys2Proof.Machine.execBarDrp n s
  | .gbar => Sys2Proof.Machine.execGbar s
  | .gbarT => Sys2Proof.Machine.execGbarT s
  | .tagF a b => Sys2Proof.Machine.execTagF a b s
  | .tagE a b => Sys2Proof.Machine.execTagE a b s
  | .prsw a b => Sys2Proof.Machine.execPrsw a b s
  | .cpy n a => Sys2Proof.Machine.execCpy n a s
  | .zro n a => Sys2Proof.Machine.execZro n a s
  | .gth n a => Sys2Proof.Machine.execGth n a s
  | .sca n a => Sys2Proof.Machine.execSca n a s
  | .qfnc m => Sys2Proof.Machine.execQfnc m s
  | .qwt m => Sys2Proof.Machine.execQwt m s
  | .fetchw a => Sys2Proof.Machine.execFetchw a s
  | .append n a b => Sys2Proof.Machine.execAppend n a b s
  | .take d a => Sys2Proof.Machine.execTake d a s
  | .quies a => Sys2Proof.Machine.execQuies a s
  | .trap k => Sys2Proof.Machine.execTrap k s
  | .sysc k => Sys2Proof.Machine.execSysc k s
  | .syscTry k => Sys2Proof.Machine.execSyscTry k s
  | .rdsr d r => Sys2Proof.Machine.execRdsr d r s
  | .wrsr a r => Sys2Proof.Machine.execWrsr a r s
  | .rte => Sys2Proof.Machine.execRte s
  | .rteGrp a b => Sys2Proof.Machine.execRteGrp a b s
  | .yield => Sys2Proof.Machine.execYield s
  | .sleep a => Sys2Proof.Machine.execSleep a s
  | .locq d a => Sys2Proof.Machine.execLocq d a s
  | .locqPa d a => Sys2Proof.Machine.execLocqPa d a s
  | .ptupd d a => Sys2Proof.Machine.execPtupd d a s
  | .rclm d a b => Sys2Proof.Machine.execRclm d a b s
  | .mxCfg a => Sys2Proof.Machine.execMxCfg a s
  | .mxLdb x0 a b => Sys2Proof.Machine.execMxLdb x0 a b s
  | .mxMma r x1 a => Sys2Proof.Machine.execMxMma r x1 a s
  | .mxZero a => Sys2Proof.Machine.execMxZero a s
  | .mxZsk d c => Sys2Proof.Machine.execMxZsk d c s
  | .mxDrain => Sys2Proof.Machine.execMxDrain s
  | .mxDrainConv n a => Sys2Proof.Machine.execMxDrainConv n a s
  | .qpush w n a => Sys2Proof.Machine.execQpush w n a s
  | .limm x0 => Sys2Proof.Machine.execLimm x0 s
  | .pfx g r o x3 c u z => Sys2Proof.Machine.execPfx g r o x3 c u z s
  | .sch p k d z => Sys2Proof.Machine.execSch p k d z s
  | .loadReply p => Sys2Proof.Machine.execLoadReply p s
  | .deferredCause p => Sys2Proof.Machine.execDeferredCause p s
  | .standbyRotation core => Sys2Proof.Machine.execStandbyRotation core s
  | .liveContextGrant core => Sys2Proof.Machine.execLiveContextGrant core s
  | .tidepoolAgeLimit tk e => Sys2Proof.Machine.execTidepoolAgeLimit tk e s
  | .tidepoolDraw tk e => Sys2Proof.Machine.execTidepoolDraw tk e s
  | .helperStart core quad => Sys2Proof.Machine.execHelperStart core quad s
  | .helperRelease core quad => Sys2Proof.Machine.execHelperRelease core quad s
  | .hwaitComplete p => Sys2Proof.Machine.execHwaitComplete p s
  | .sleepDeadline p => Sys2Proof.Machine.execSleepDeadline p s
  | .watchdogExpiry p => Sys2Proof.Machine.execWatchdogExpiry p s
  | .tagWaitTimeout p => Sys2Proof.Machine.execTagWaitTimeout p s
  | .barrierWaitEnd p => Sys2Proof.Machine.execBarrierWaitEnd p s
  | .barrierRemoteArrival tk n count tids => Sys2Proof.Machine.execBarrierRemoteArrival tk n count tids s
  | .pairCheckpointCut tk => Sys2Proof.Machine.execPairCheckpointCut tk s
  | .breakwaterCompare tk => Sys2Proof.Machine.execBreakwaterCompare tk s
  | .laneFailure core lane => Sys2Proof.Machine.execLaneFailure core lane s
  | .syscReply call => Sys2Proof.Machine.execSyscReply call s
  | .syscWaitlistWake => Sys2Proof.Machine.execSyscWaitlistWake s
  | .mxStep tk => Sys2Proof.Machine.execMxStep tk s
  | .mxLdbRead tk => Sys2Proof.Machine.execMxLdbRead tk s
  | .mxZeroPerform tk => Sys2Proof.Machine.execMxZeroPerform tk s
  | .mxDrainComplete tk => Sys2Proof.Machine.execMxDrainComplete tk s
  | .mxZskRead tk => Sys2Proof.Machine.execMxZskRead tk s
  | .ebbDrain core seq => Sys2Proof.Machine.execEbbDrain core seq s
  | .ebbWindow core => Sys2Proof.Machine.execEbbWindow core s
  | .cpyPerform tk q => Sys2Proof.Machine.execCpyPerform tk q s
  | .zroPerform tk q => Sys2Proof.Machine.execZroPerform tk q s
  | .gthPerform tk q => Sys2Proof.Machine.execGthPerform tk q s
  | .scaPerform tk q => Sys2Proof.Machine.execScaPerform tk q s
  | .engineQueueRetry tk q => Sys2Proof.Machine.execEngineQueueRetry tk q s
  | .qfncRelease tk => Sys2Proof.Machine.execQfncRelease tk s
  | .fetchwAnswer tk => Sys2Proof.Machine.execFetchwAnswer tk s
  | .quiesWake p => Sys2Proof.Machine.execQuiesWake p s
  | .teamComplete tk => Sys2Proof.Machine.execTeamComplete tk s
  | .pageWalk die asn vpn => Sys2Proof.Machine.execPageWalk die asn vpn s
  | .ptupdSete n => Sys2Proof.Machine.execPtupdSete n s
  | .ptupdClre n => Sys2Proof.Machine.execPtupdClre n s
  | .ptupdZtab n => Sys2Proof.Machine.execPtupdZtab n s
  | .fatalDieError die unreachable => Sys2Proof.Machine.execFatalDieError die unreachable s
  | .containmentEnd die => Sys2Proof.Machine.execContainmentEnd die s
  | .read o line mask => Sys2Proof.Machine.execRead o line mask s
  | .write o word mode => Sys2Proof.Machine.execWrite o word mode s
  | .atomic o word wide fn x cmp => Sys2Proof.Machine.execAtomic o word wide fn x cmp s
  | .fwd line named => Sys2Proof.Machine.execFwd line named s
  | .data answer => Sys2Proof.Machine.execData answer s
  | .close o line mask => Sys2Proof.Machine.execClose o line mask s
  | .wback o words => Sys2Proof.Machine.execWback o words s
  | .err req reply => Sys2Proof.Machine.execErr req reply s
  | .hold pa recovering => Sys2Proof.Machine.execHold pa recovering s
  | .forwardTimeout word => Sys2Proof.Machine.execForwardTimeout word s
  | .requestTimeout id => Sys2Proof.Machine.execRequestTimeout id s
  | .notifyKick q asn service => Sys2Proof.Machine.execNotifyKick q asn service s
  | .launchRecordTake q => Sys2Proof.Machine.execLaunchRecordTake q s
  | .teamPlace q core => Sys2Proof.Machine.execTeamPlace q core s
  | .teamPreempt tk => Sys2Proof.Machine.execTeamPreempt tk s
  | .teamRestore tk core => Sys2Proof.Machine.execTeamRestore tk core s
  | .scrplyStore slot => Sys2Proof.Machine.execScrplyStore slot s
  | .sringWrite v => Sys2Proof.Machine.execSringWrite v s
  | .uncorrectableMemoryError line kind => Sys2Proof.Machine.execUncorrectableMemoryError line kind s
  | .thermalLimit die => Sys2Proof.Machine.execThermalLimit die s
  | .coolantFailure => Sys2Proof.Machine.execCoolantFailure s
  | .flitReceive port seq kind ack sound => Sys2Proof.Machine.execFlitReceive port seq kind ack sound s
  | .portLaneFailure port good => Sys2Proof.Machine.execPortLaneFailure port good s
  | .linkTraining port lanes peer lo hi => Sys2Proof.Machine.execLinkTraining port lanes peer lo hi s
  | .recoveryNotice => Sys2Proof.Machine.execRecoveryNotice s
  | .frecovWrite v => Sys2Proof.Machine.execFrecovWrite v s
  | .fenceWrite j v => Sys2Proof.Machine.execFenceWrite j v s
  | .pidrWrite v => Sys2Proof.Machine.execPidrWrite v s
  | .hostCxlMemRead port o n own => Sys2Proof.Machine.execHostCxlMemRead port o n own s
  | .hostCxlMemWrite port o bytes => Sys2Proof.Machine.execHostCxlMemWrite port o bytes s
  | .hostBar0Kick port o => Sys2Proof.Machine.execHostBar0Kick port o s
  | .hverWrite v => Sys2Proof.Machine.execHverWrite v s
  | .atreq nonce pa => Sys2Proof.Machine.execAtreq nonce pa s
  | .reset => Sys2Proof.Machine.execReset s
  | .capbmWrite v => Sys2Proof.Machine.execCapbmWrite v s
  | .lrmWrite core j v => Sys2Proof.Machine.execLrmWrite core j v s
  | .lstatWrite core => Sys2Proof.Machine.execLstatWrite core s
  | .dtablWrite die v => Sys2Proof.Machine.execDtablWrite die v s
  | .hbaseWrite port v => Sys2Proof.Machine.execHbaseWrite port v s
  | .registerWrite pa n v => Sys2Proof.Machine.execRegisterWrite pa n v s
  | .illegalEncoding w => Sys2Proof.Machine.execIllegalEncoding w s
  | .clusterLoss die cluster => Sys2Proof.Machine.execClusterLoss die cluster s
  | .shoreDieFailure => Sys2Proof.Machine.execShoreDieFailure s
  | .imageSwitchComplete => Sys2Proof.Machine.execImageSwitchComplete s
  | .thermalLimitCleared die => Sys2Proof.Machine.execThermalLimitCleared die s
  | .hostPortDown port => Sys2Proof.Machine.execHostPortDown port s
  | .hostPortTraining port rate width => Sys2Proof.Machine.execHostPortTraining port rate width s

end Sys2Proof.Machine
end

