-- ==== Sys2Proof/Machine/Issue.lean ====
section
/-! DEFINITION. One step of the machine: which agent moves, the fetch of an instruction word and its issue, what follows
every instruction at its boundary, the passing of time, and what a machine without an agenda does next
(02_instruction_formats.md R61, R71, 07_thread_memory_control.md R161, R181, R479, 08_core_execution.md R186-R197, R210,
R233, R256; notes/assumptions/2.md). -/
namespace Sys2Proof.Machine

/-! ### May a party issue -/

/-- A token of some entries, when it is popped, leaves its quad at a PC and depth; `spilled` entries stand below. -/
def joinsAt (pc : VAddr) (depth spilled : Nat) : List Entry → Bool
  | [] => false
  | e :: es => (e.token && decide (e.pc = pc) && decide (e.mask ≠ 0) && decide (es.length + spilled = depth))
      || joinsAt pc depth spilled es

/-- Ac for which the issue logic lets another candidate go before one that is ready: R191 admits 4096. -/
def patience : Nat := 3072

/-- A gang that has left a JOIN region waits there for the quads of its group that are still inside it: after a JOIN region
the group is whole again (R351, R352; DEDUCED, notes/assumptions/112.md). It is a candidate all that time, so that it waits no
longer than R191 admits one that stays ready: the time in which its group is held by a load, stands by or is pre-empted is no
such time. -/
def State.joinWaits (s : State) (p : Party) : Bool :=
  match p with
  | .gang tk gid _ =>
    let c := s.ctx p
    let mine := s.gang p
    c.wait.isNone && decide (c.run.len = 0) && decide (s.time.toNat < c.ready + patience)
      && (s.group tk gid).quads.any fun q =>
        let x := s.ctx (.gang tk gid q)
        !mine.contains (.gang tk gid q) && !x.idle && joinsAt c.pc c.depth x.spilled x.stack
  | _ => false

/-- A helper still stands on a lane that a gang has taken back (R210). -/
def State.laneLent (s : State) (p : Party) : Bool :=
  match p with
  | .gang tk gid _ =>
    let g := s.group tk gid
    s.helpers.any fun x => decide (x.1.1 = g.core) && decide (x.2.tk = tk) && decide (x.2.donor = gid)
      && (decide (x.2.st = .granted) || decide (x.2.st = .running)) && decide (g.quad0 ≤ x.2.quad)
      && (s.gang p).contains (.gang tk gid (x.2.quad - g.quad0))
  | _ => false

/-- A helper of a failed team that stands inside a hint run goes on to its instruction (R62, R210). -/
def State.lastWord (s : State) (p : Party) : Bool := decide (streamOf p = .helper) && !(s.ctx p).atBoundary

/-- The party's team lets it issue: at an instruction boundary it stops while the team goes back to its checkpoint, leaves
its core, or gathers at a cut (R222, R232, R345). -/
def State.teamLets (s : State) (tk : Nat) (p : Party) : Bool :=
  let t := s.team tk
  t.resident && (t.failed.isNone || s.lastWord p)
    && (!(s.ctx p).atBoundary || (!t.rolling && !s.teamLeaves tk && (!t.atCut || !partyOfTeam tk p || s.behindPartner p)))

/-- The party's next word is ready: nothing but the issue logic's choice keeps it back (R191). -/
def State.wordReady (s : State) (p : Party) : Bool :=
  (s.ctx p).mayIssue && (match p with
    | .gang tk gid _ =>
      let g := s.group tk gid
      g.live && !g.ended && g.faulted.isNone && s.teamLets tk p && !s.groupHeld p && !s.laneLent p
    | .headland tk =>
      let t := s.team tk
      s.teamLets tk p && !t.hEnded && !t.hFaulted
    | .helper c q => (match s.helperTeam c q with | some tk => s.teamLets tk p | none => false)
    | .service n => decide (n < 256) && !(s.service n).halted)

/-- The party may issue its next word. -/
def State.canIssue (s : State) (p : Party) : Bool := s.wordReady p && !s.joinWaits p

/-- A deferred cause stands to be delivered at the party's boundary (R181). -/
def State.hasDeferred (s : State) (p : Party) : Bool :=
  let c := s.ctx p
  c.wait.isNone && decide (c.run.len = 0) && (match p with
    | .gang tk gid _ => !(s.group tk gid).deferred.isEmpty
    | .headland tk => !(s.team tk).hDeferred.isEmpty
    | .service n => !(s.service n).deferred.isEmpty
    | .helper _ _ => false)

/-! ### Fetch (R479) -/

/-- What a fetch answers. -/
inductive Fetched
  | word (w : Word)
  | fault (c : MemCause)
  | wait
  deriving DecidableEq, Repr

/-- The word at the issuing party's fetch address, checked and read as an aligned load of 4 bytes with X in place of R. -/
def State.fetch (s : State) : State × Fetched :=
  let pc := s.cctx.fetchPc
  match s.checkVa s.cur .fetch (pc.zeroExtend 64) 4 with
  | (s', .fault c) => (s', .fault c)
  | (s', .wait) => (s', .wait)
  | (s', .ok pa) =>
    match s'.readUnit (s'.asker s'.cur pc.toNat) true [pa] with
    | (s'', .done t) => (s'', .word (tgetD pa 0 t))
    | (s'', .fault c) => (s'', .fault c)
    | (s'', .wait) => (s'', .wait)

/-- A fetch fault: charged to the lanes that run at the address. -/
def State.fetchFault (s : State) (c : MemCause) : State :=
  let pc := s.cctx.fetchPc.toNat
  s.raiseAccess { cause := c.cause, lanes := s.lanes s.cur, addr := c.addrAt pc, aux := c.aux, fetch := true } [c]

/-! ### The instruction boundary -/

/-- The contexts at an instruction boundary run schedule() (R161, R187). -/
def State.scheduleAll (s : State) : State :=
  forEach s.ctxs s fun x s =>
    let c := s.ctx x.1
    if c.wait.isNone ∧ c.run.len = 0 ∧ c.idle = false then s.runSchedule x.1 else s

/-- A group whose quads are all idle has ended; a cause that still stands with it fails its team (R181, R195). The helpers on
its lanes stop too, although R210 names an end by fault alone (DEDUCED, notes/assumptions/132.md). -/
def State.endGroup (s : State) (tk gid : Nat) : State :=
  match (s.group tk gid).deferred with
  | d :: _ => s.failTeam tk d.cause
  | [] =>
    let s := (s.releaseOn tk gid).onTeam tk (Team.dropLatch gid)
    s.onGroup tk gid fun g => { g with live := false, ended := true, queues := [] }

/-- Every group that has ended. -/
def State.endGroups (s : State) : State :=
  forEach s.groups s fun x s =>
    let g := s.group x.1.1 x.1.2
    if !g.ended && g.quads.all fun q => (s.ctx (.gang x.1.1 x.1.2 q)).idle then s.endGroup x.1.1 x.1.2 else s

/-- Helpers whose lane is needed stop at their boundary (R210). -/
def State.releaseDue (s : State) : State :=
  forEach s.helpers s fun x s =>
    if s.releasable x.1.1 x.2 then s.stopHelper x.1.1 x.1.2 .released else s

/-! ### Issue -/

/-- The UNS bit of the hint run in progress (R58). -/
def HintRun.uns (r : HintRun) : Bool := (r.pfx.map (·.uns)).getD false

/-- The meaning of a fetched word: of the instruction that it decodes to, or of a word that is none (R47, R71). -/
def State.runWord (s : State) (w : Word) : Outcome :=
  match decodeBytes s.cctx.run.uns (wordBytes w) with
  | some x => exec x.1 s
  | none => Sys2Proof.Machine.execIllegalEncoding w s

/-- The helpers of a context that have not started do so with its first word (R212). -/
def State.startHelpers (s : State) (p : Party) : State :=
  match p with
  | .helper c q =>
    let go (k : Nat × Nat) (h : Helper) : Helper :=
      if k.1 = c ∧ h.quad = q ∧ h.st = .granted then { h with st := .running } else h
    { s with helpers := tmap go s.helpers }
  | _ => s

/-- A party's next word: a deferred cause is delivered first; then the fetch, the decode, the meaning. An instruction that is
over leaves no request, no place at a home slice and no wait for a walk behind. -/
def State.issueWord (s : State) (p : Party) (slow : Bool) : Outcome :=
  if !s.canIssue p then .next s
  else
    let s := { s with cur := p, slow := slow }.startHelpers p
    let gang := s.gang p
    if s.hasDeferred p then .next (s.deliverDeferred p)
    else match s.fetch with
      | (s', .fault c) => .next ((s'.fetchFault c).forgetDone p gang)
      | (s', .wait) => .next s'.parkFetch
      | (s', .word w) => match s'.fetched.runWord w with
        | .next t => .next (t.forgetDone p gang)
        | o => o

/-! ### What follows every step -/

/-- A step changed nothing but which party stands as the issuing one, and what the model counts for its free values. -/
def State.unchanged (s t : State) : Bool := decide ({ t with cur := s.cur, slow := s.slow, nonce := s.nonce } = s)

/-- A parked quad of a group without a live context has what it waits for: its instruction would go on. -/
def State.wakes (s : State) (tk gid q : Nat) : Bool :=
  let p : Party := .gang tk gid q
  let c := s.ctx p
  if c.idle || c.wait.isNone || c.blocked then false
  else
    let s := s.onGroup tk gid fun g => { g with live := true }
    match s.issueWord p false with
    | .next t => !s.unchanged t
    | _ => false

/-- A group without a live context whose wait is satisfied is Standby from now on (R195, R196). -/
def State.markStandby (s : State) : State :=
  forEach s.groups s fun x s =>
    let g := s.group x.1.1 x.1.2
    if g.live || g.ended || g.standby || g.faulted.isSome || !(s.team x.1.1).resident then s
    else if s.groupReady x.1.1 x.1.2 || g.quads.any (s.wakes x.1.1 x.1.2) then
      s.onGroup x.1.1 x.1.2 fun g => { g with standby := true, since := s.time.toNat }
    else s

/-- The recovery notices that are due: every 100 µs while recovery lasts (R454). -/
def State.noticeRecovery (s : State) : State :=
  if s.fab.recov && decide (s.fab.noticed + usAc 100 ≤ s.time.toNat) then s.tellRecovery else s

/-- What waits at home slices goes on as far as it can: messages, the device's own writes, those of the host ports, the forwards
that were kept (R384, R454, R462, R480). -/
def State.serveHomes (s : State) : State :=
  let s := (s.serveQueues.servePending s.devPending.length).answerKept.noticeRecovery
  forEach (upto 2) s fun p s => if (s.fab.host p).writes.isEmpty then s else s.flushHost p

/-- What follows every step. -/
def State.settle (s : State) : State :=
  let s := s.serveHomes.bermCheck.rollbackDue.scheduleAll.endGroups.releaseDue
  (s.vacateDue.settleGrids.markStandby).flushNotices

/-- An outcome settled. -/
def settled (o : Outcome) : Outcome :=
  match o with
  | .next s => .next s.settle
  | .fault f => .fault f
  | .refused r => .refused r

/-- A step that would bring two updates of a barrier record in the same ac into an order that R217 does not give them falls
in the next ac instead. -/
def State.inOrder (s : State) (f : State → Outcome) : Outcome :=
  match f s with
  | .next t => if t.misordered then f { s with time := s.time + 1 } else .next t
  | o => o

/-- A party issues its next word. -/
def State.issueParty (s : State) (p : Party) (slow : Bool) : Outcome :=
  if !s.canIssue p then .next s else settled (s.inOrder fun s => s.issueWord p slow)

/-! ### The issue port (R190) -/

/-- The physical quads of a core that a party's words use. -/
def State.quadsUsed (s : State) (p : Party) : List Nat :=
  match p with
  | .gang tk gid _ => (gangQuads (s.gang p)).map ((s.group tk gid).quad0 + ·)
  | .helper _ q => [q]
  | _ => []

/-- A core's issue port in this ac: the instruction words issued, the quads that they use, whether a headland word is among
them (R190). -/
def State.port (s : State) (core : Nat) : Nat × List Nat × Bool :=
  let c := s.core core
  if c.portAt = s.time.toNat then (c.words, c.busy, c.hword) else (0, [], false)

/-- In this ac the party's core has no place for its word: four words or one on its quads have issued, of a headland one of a
headland, of a service thread its own (R190). -/
def State.portTaken (s : State) (p : Party) : Bool :=
  let x := s.port (s.agentOf p)
  match p with
  | .service _ => decide ((s.ctx p).issued = s.time.toNat)
  | .headland _ => x.2.2
  | _ => decide (4 ≤ x.1) || (s.quadsUsed p).any x.2.1.contains

/-! ### Time -/

/-- A word, by full physical address, whose forward is under a recovery hold (R455, R473). -/
def State.wordHeld (s : State) (w : Nat) : Bool := s.held.any fun h => h.extended && decide (s.fullPa h.word = w / 4 * 4)

/-- The words that an ebb entry touches. -/
def EbbEntry.words (e : EbbEntry) : List Nat :=
  match e.kind with
  | .store bs _ => wordsTouched (bs.map (·.pa))
  | .atoms xs => xs.flatMap fun x => atomWords x.pa x.wide

/-- An ebb entry waits under a recovery hold. -/
def State.entryHeld (s : State) (agent : Nat) (e : EbbEntry) : Bool :=
  s.fab.requests.any (fun r => r.extended && decide (r.for_ = .entry agent e.seq)) || e.words.any s.wordHeld

/-- A party waits on a request under a recovery hold, or on a forward that is: its own, of all words of its load, or of a word
whose home slice it waits at; that of an
entry of its streams which its atomic or its release waits for, or which stands in the way of its store (R455, R473). -/
def State.underHold (s : State) (p : Party) : Bool :=
  let own (r : Request) : Bool := match r.for_ with | .party x => (s.gang p).contains x | _ => false
  let entries (which : EbbEntry → Bool) : Bool := (s.agentsOf p).any fun a => (s.cmem a).ebb.any fun e => which e && s.entryHeld a e
  let mine (e : EbbEntry) : Bool := (s.partyStreams p).contains e.stream || e.refs.any (s.partyRefs p).contains
  let tk := s.teamOf p
  s.fab.requests.any (fun r => r.extended && own r)
    || s.queue.any (fun x => s.wordHeld (s.fullPa x.1) && (s.gang p).any fun y => x.2.contains (.party y))
    || (match (s.ctx p).wait with
      | some (.load _ _ parts _ _) => parts.any (fun x => (wordsOf x.pa x.size).any s.wordHeld) || entries mine
      | some (.atom op _ _ _ _ _ _ _) => entries fun e => decide (e.op = op) || mine e
      | some (.release _) => entries mine
          || s.fab.requests.any fun r => r.extended && decide (r.kind = .close) && s.sameOwner (s.ownerOf p) r.owner
      | some (.retry _ _) => entries mine
      | some (.queues _ _) => s.fab.requests.any fun r => r.extended && (match r.for_ with
          | .party (.gang k g _) => decide (some k = tk) && decide (1000 ≤ g)
          | _ => false)
      | _ => false)

/-- The contexts of a group's quads. -/
def Group.parties (g : Group) (tk gid : Nat) : List Party := g.quads.map (.gang tk gid ·)

/-- What a stream's contexts wait for. -/
def State.waitsOf (s : State) (ps : List Party) : List (Party × Wait) :=
  ps.filterMap fun p =>
    let c := s.ctx p
    if c.idle then none else c.wait.map fun w => (p, w)

/-- The stream is parked: none of its contexts has a next word that it may issue, and one waits (R194, R233). -/
def State.streamParked (s : State) (ps : List Party) : Bool :=
  !(ps.any fun p => s.wordNext p && !s.cutStopped p) && (decide (s.waitsOf ps ≠ []) || ps.any s.cutStopped)

/-- Whether the watchdog, and the tag timeout, of a parked stream count now. -/
def State.counts2 (s : State) (ps : List Party) : Bool × Bool :=
  let ws := s.waitsOf ps
  ((ws.any (fun x => x.2.counted) || ps.any s.cutStopped) && !ws.any (fun x => x.2.rests || s.underHold x.1),
    ws.any fun x => x.2.isTag)

/-- A candidate of the issue logic that has not been picked in this ac: one that lacks what it waits for is none (R191). -/
def State.staysReady (s : State) (p : Party) : Bool := s.wordReady p && ((s.ctx p).wait.isNone || s.portTaken p)

/-- Time passes: the timebase, the watchdogs and the tag timeouts of the resident teams, and the time since which each
candidate is ready (R174, R191, R233, R256). -/
def State.tick (s : State) (n : Nat) : State :=
  let add (on : Bool) (x : Nat) : Nat := if on then x + n else x
  let group (k : Nat × Nat) (g : Group) : Group :=
    if g.ended || g.faulted.isSome || !(s.team k.1).resident || !s.streamParked (g.parties k.1 k.2) then g
    else
      let c := s.counts2 (g.parties k.1 k.2)
      { g with wdog := add c.1 g.wdog, tagTimer := add c.2 g.tagTimer }
  let team (k : Nat) (t : Team) : Team :=
    if t.hEnded || t.hFaulted || !t.resident || !s.streamParked [.headland k] then t
    else
      let c := s.counts2 [.headland k]
      { t with hWdog := add c.1 t.hWdog, hTagTimer := add c.2 t.hTagTimer }
  let then_ := (s.time + BitVec.ofNat 64 n).toNat
  let ctx (p : Party) (c : Ctx) : Ctx := if s.staysReady p then c else { c with ready := then_ }
  { s with time := s.time + BitVec.ofNat 64 n, groups := tmap group s.groups, teams := tmap team s.teams
           ctxs := tmap ctx s.ctxs }

/-! ### Caches by themselves (R388) -/

/-- An agent's L1 evicts a line, named as the L1 keys its words: the clean copies go; the registered words are written back
when the L1 has no line left, which of a barrel core, whose size the spec does not give, may be at any time (R388, R441,
notes/assumptions/10.md). -/
def State.evictL1 (s : State) (agent w : Nat) : State :=
  let full := s.l1Full agent || decide (512 ≤ agent)
  let owned := (s.registeredAt agent).filter fun k => decide (k / 64 = w / 64)
  let s := s.onCmem agent fun m => { m with l1 := m.l1.filter fun x => !inLine w x }
  if full then forEach owned s fun k s => if farKey 0 ≤ k then s.backGuest (k - farKey 0) else s.makeV k else s

/-- An owner of this package closes an open registration early, on a word named as an L1 keys it (R388). -/
def State.closeEarly (s : State) (w : Nat) : State :=
  if farKey 0 ≤ w then match tget (w - farKey 0) s.guestRegs with
    | some g => if g.isOpen then s.closeGuest noWaiter (w - farKey 0) g else s
    | none => s
  else match s.wordSt w with
    | some (.open_ o a r) => if s.localOwner o then { s with words := tset w (.closed o a r false) s.words } else s
    | _ => s

/-! ### Without an agenda -/

/-- A step of an agent. -/
abbrev Due := State → Outcome

/-- The steps that may be due, of every agent. -/
def State.dueSteps (s : State) : List Due :=
  let waiting := s.ctxs.filterMap fun x => if x.2.wait.isSome then some x.1 else none
  let drains : List Due := s.coreMem.flatMap fun x => x.2.ebb.map fun e => execEbbDrain x.1 e.seq
  let waits : List Due := waiting.flatMap fun p =>
    [execLoadReply p, execHwaitComplete p, execBarrierWaitEnd p, execSleepDeadline p, execQuiesWake p]
  let calls : List Due := s.pkg.calls.map fun c => execSyscReply c.id
  let walks : List Due := s.dies.flatMap fun x => x.2.misses.map fun m => execPageWalk x.1 m.asn m.vpn
  let tables : List Due := match s.table.command with
    | some (n, _) => [execPtupdSete n, execPtupdClre n, execPtupdZtab n]
    | none => []
  let teams := s.teams.filter fun x => !x.2.ended
  let team : List Due := teams.flatMap fun x =>
    [execMxLdbRead x.1, execMxStep x.1, execMxZeroPerform x.1, execMxZskRead x.1, execMxDrainComplete x.1
    , execQfncRelease x.1, execFetchwAnswer x.1, execPairCheckpointCut x.1, execBreakwaterCompare x.1
    , execTeamComplete x.1]
  let queues : List Due := teams.flatMap fun x => (upto 4).flatMap fun q =>
    [execEngineQueueRetry x.1 q, execCpyPerform x.1 q, execZroPerform x.1 q, execGthPerform x.1 q, execScaPerform x.1 q]
  let pools : List Due := teams.flatMap fun x => x.2.pools.flatMap fun e =>
    [execTidepoolAgeLimit x.1 e.1, execTidepoolDraw x.1 e.1]
  let cores := (teams.flatMap fun x => x.2.cores).eraseDups
  let groups : List Due := cores.flatMap fun c => [execLiveContextGrant c, execStandbyRotation c]
  let forwards : List Due := s.held.flatMap fun h =>
    (if s.localOwner h.owner then [execFwd (s.fullPa h.word) ⟨2 ^ (h.word / 4 % 16), h.kind, none⟩] else [])
      ++ [execForwardTimeout h.word]
  let requests : List Due := s.fab.requests.map fun r => execRequestTimeout r.id
  let takes : List Due := s.pkg.queues.map fun x => execLaunchRecordTake x.1
  let contained : List Due := (s.dies.filter fun x => s.containmentOver x.1).map fun x => execContainmentEnd x.1
  drains ++ waits ++ calls ++ [execSyscWaitlistWake] ++ walks ++ tables ++ team ++ queues ++ pools ++ groups ++ forwards
    ++ requests ++ takes ++ contained

/-- The placements, restorations and pre-emptions that may be due. -/
def State.duePlacements (s : State) : List Due :=
  let saved := s.teams.filter fun x => x.2.preempted && !x.2.ended
  let restores : List Due := saved.flatMap fun x => allCores.map fun c => execTeamRestore x.1 c
  match s.nextRecord with
  | none => restores
  | some r => restores ++ (allCores.map fun c => execTeamPlace r.queue c)
      ++ (s.teams.filter fun x => x.2.resident).map fun x => execTeamPreempt x.1

/-- The state after the first of some steps that changes anything. -/
def State.firstChange (s : State) (es : List Due) : Option State :=
  es.findSome? fun e => match e s with
    | .next t => if s.unchanged t.settle then none else some t.settle
    | _ => none

/-- The timeouts that may be due: a wait that is satisfied in the same ac completes before (R233, R256). -/
def State.timeouts (s : State) : List Due :=
  (s.ctxs.map (·.1)).flatMap fun p => if (s.ctx p).wait.isSome || s.cutStopped p then
    [execWatchdogExpiry p, execTagWaitTimeout p] else []

/-- A party that is about to issue takes its place in this ac (R190). -/
def State.took (s : State) (p : Party) : Core → Core :=
  let x := s.port (s.agentOf p)
  let qs := s.quadsUsed p
  let slot := match p with | .headland tk => some (s.team tk).slot | _ => none
  fun c => match slot with
    | some n => { c with portAt := s.time.toNat, words := x.1, busy := x.2.1, hword := true, hslot := n }
    | none => { c with portAt := s.time.toNat, words := x.1 + 1, busy := x.2.1 ++ qs, hword := x.2.2 }

/-- Place of a party among the candidates of its core: a gang's team class and SCH priority, a headland's team slot after the
one that issued last (R190, R191). -/
def State.pickOrder (s : State) (p : Party) : Nat :=
  let rank (p : BitVec 2) : Nat := if p = 2 then 0 else if p = 1 then 2 else 1
  match p, s.teamOf p with
  | .headland tk, _ => ((s.team tk).slot + 15 - (s.core (s.agentOf p)).hslot) % 16
  | _, some tk => (4 - (s.team tk).launch.cls) * 4 + rank (s.ctx p).pri
  | _, none => 0

/-- The parties of the machine that can issue, in the order in which a core picks candidates (R191): those that no other
may hold back any longer, then by team class, SCH priority and least recent issue. -/
def State.candidates (s : State) : List Party :=
  let key (p : Party) : Nat :=
    let late := decide ((s.ctx p).ready + patience ≤ s.time.toNat) && decide (streamOf p ≠ .headland)
    (if late then 0 else s.pickOrder p + 1) * 2 ^ 70 + (s.ctx p).issued
  sortBy key ((s.ctxs.map (·.1)).filter fun p => s.canIssue p && !s.portTaken p)

/-- The first party of some whose issue changes anything, with what follows: a gang that still lacks what it waits for is
none (R194). -/
def State.firstIssueOf (s : State) (ps : List Party) : Option (Party × Outcome) :=
  ps.findSome? fun p => match s.issueParty p false with
    | .next t => if s.unchanged t then none else some (p, .next t)
    | o => some (p, o)

/-- What follows the issue of the first such party. -/
def State.firstIssue (s : State) (ps : List Party) : Option Outcome := (s.firstIssueOf ps).map (·.2)

/-- The issue that the issue logic picks, with its place at its core. -/
def State.pick (s : State) : Option Outcome :=
  (s.firstIssueOf s.candidates).map fun x => match x.2 with
    | .next t => .next (if streamOf x.1 = .service then t else t.onCore (s.agentOf x.1) (s.took x.1))
    | o => o

/-- A machine without an agenda: a step that is due in this ac; else a placement; else the first candidate that can issue;
else a timeout; else an ac passes. -/
def State.goOn (s : State) : Outcome :=
  let s := { s with slow := false }
  match s.firstChange s.dueSteps with
  | some t => .next t
  | none => match s.firstChange s.duePlacements with
    | some t => .next t
    | none => match s.pick with
      | some o => o
      | none => .next ((s.firstChange s.timeouts).getD (s.tick 1).settle)

/-! ### The step -/

/-- The party whose wait a timeout ends. -/
def timeoutOf : Instr → Option Party
  | .watchdogExpiry p => some p
  | .tagWaitTimeout p => some p
  | _ => none

/-- A step of an agent that is no instruction word. A timeout comes after the party's own issue in the same ac: an
instruction that finds what it waits for completes instead (R233, R256). -/
def State.takeEvent (s : State) (i : Instr) : Outcome :=
  match (timeoutOf i).bind fun p => s.firstIssue [p] with
  | some o => o
  | none => settled (s.inOrder (exec i))

/-- One turn of the agenda. -/
def State.takeTurn (s : State) : Turn → Outcome
  | .issue p slow => s.issueParty p slow
  | .event i slow => { s with slow := slow }.takeEvent i
  | .tick n => .next (s.tick n)
  | .evictL1 a w => .next (s.evictL1 a w)
  | .evictNear d w => .next (s.onDie d fun x => { x with near := x.near.filter fun y => !inLine w y })
  | .evictGuest w => .next { s with guest := s.guest.filter fun y => !inLine w y }
  | .closeEarly w => .next (s.closeEarly w)
  | .padError tk w => .next (s.onTeam tk fun t => { t with padBad := addAll t.padBad [w / 4 * 4] })
  | .regError r w => .next (s.onThread r fun t => { t with bad := addAll t.bad [w] })
  | .programHdec rs => .next { s with fab := { s.fab with hdec := rs } }
  | .extendMeas three => .next { s with boot := s.boot.extend (if three then 3 else 2) }
  | .mramFailure => .next { s with boot := { s.boot with writeFails := true } }
  | .slotError tk one => .next (s.onMx tk fun m => m.onSlot one fun x => { x with bad := true })

/-- One step: the next turn of the agenda, or what a machine without one does. -/
def State.stepOnce (s : State) : Outcome :=
  match s.agenda with
  | t :: rest => { s with agenda := rest }.takeTurn t
  | [] => s.goOn

/-! ### Placing an instruction (State.withFetchWord) -/

/-- The stream that runs a word in the host's probe: a service thread where it may, else a headland or a group. -/
def probeStream (w : Word) : Stream :=
  let m := (fMajor w).toNat
  if m = 0x3E then .headland
  else if (0x30 ≤ m ∧ m ≤ 0x35) ∨ (0x38 ≤ m ∧ m ≤ 0x3B) then .compute
  else .service

/-- A word written as a loader leaves it: in memory, V, no copy of it in an agent's L1. -/
def State.loadWord (s : State) (agent a : Nat) (w : Word) : State :=
  ((s.rawWrite a (wordBytes w)).makeV a).dropL1 agent a

/-- Local address of the code of a probe's team. -/
def probeCode : Nat := Config.imageEntry.toNat

/-- A team of one thread and a headland on core 0, whose code page its core's TLB holds. -/
def State.probeTeam (s : State) (tk : Nat) : State :=
  let l : Launch := { Launch.absent with
    asn := 1, t := 1, z := 4096, tx := 0, kentry := Config.imageEntry, hentry := Config.imageEntry, queue := 0, index := 0 }
  let t : Team := { Team.fresh l 0 with ctxBase := 0x1000000, ctxSize := ctxSize l }
  let leaf : Leaf :=
    ⟨BitVec.ofNat 64 (2 ^ 63 + 2 ^ 62 + (s.fab.pid.toNat * 2 ^ 44 + probeCode) / 4096 * 4096 + 0x1C), 0⟩
  let s := { s with teams := tset tk t s.teams, nextId := tk + 1 }
  (s.startTeam tk l 0).onCmem 0 fun m => { m with tlb := ⟨1, probeCode / 4096, leaf⟩ :: m.tlb }

/-- The state with a word placed where the very next step fetches it. -/
def State.withWord (s : State) (w : Word) : State :=
  match probeStream w with
  | .compute =>
    let tk := s.nextId
    { (s.loadWord 0 probeCode w).probeTeam tk with agenda := [.issue (.gang tk 0 0) false] }
  | .headland =>
    let tk := s.nextId
    { (s.loadWord 0 probeCode w).probeTeam tk with agenda := [.issue (.headland tk) false] }
  | _ =>
    let p : Party := .service 0
    let pc := (s.ctx p).pc
    match (s.checkVa p .fetch (pc.zeroExtend 64) 4).2 with
    | .ok pa => { s.loadWord 0x200 (pa % 2 ^ 44) w with agenda := [.issue p false] }
    | _ => { s with agenda := [.issue p false] }

end Sys2Proof.Machine
end

