-- ==== Sys2Proof/Machine/Step.lean ====
section
/-! DEFINITION. The step of the machine, and the placing of one instruction where it fetches its next. -/
namespace Sys2Proof.Machine

/-- One step (notes/assumptions/2.md). -/
def step (s : State) : Host.Outcome State Fault Refusal := s.stepOnce

/-- `s` with an instruction word, numbered as spec/opcode_table.json numbers its bits, where the next step fetches it
(notes/assumptions/3.md). -/
def State.withFetchWord (s : State) (nbits w : Nat) : State :=
  if nbits = 0 then s else s.withWord (BitVec.ofNat 32 w)

end Sys2Proof.Machine
end

