-- ==== Sys2Proof/Safety.lean ====
section
/-! DEFINITION. What counts as a safe run, and the terms in which claims speak of an instruction: when it is issued with
all its checks passed, what it leaves alone, how it advances, what a result instruction delivers. -/
namespace Sys2Proof.Machine

/-- `n` steps from a state, while they go on. -/
def run : Nat → State → Outcome
  | 0, s => .next s
  | n + 1, s => match step s with
    | .next t => run n t
    | .fault f => .fault f
    | .refused r => .refused r

/-- A run of `n` steps is safe: it neither faults nor is refused. -/
def Safe (n : Nat) (s : State) : Prop := ∃ t, run n s = .next t

/-! ### Issue -/

/-- The issuing party issues an instruction word of a form with the active lanes `act`, at least one, and the word passes
every check of R71: its stream may execute it, its hint run agrees with it, its mode is right, its operands keep their
rules, every queue source has its entries, and no queue of a faulted headland is read (R182). -/
structure Issues (s : State) (f : Form) (act : List Lane) : Prop where
  lanes : s.active s.cur (f.guard s.cctx.run) = act
  some_ : act ≠ []
  stream : f.allowed (streamOf s.cur) = true
  enc : f.badEnc = false
  hints : f.hintsOk s.cctx.run = true
  open_ : f.denied = false
  mode : f.priv = true → streamOf s.cur = .service
  operands : f.operandsOk (streamOf s.cur) s.cctx.run = true
  helper : f.helperBad = true → streamOf s.cur ≠ .helper
  entries : s.shortLanes (streamOf s.cur) f act (fun _ => true) = []
  shut : s.queuesShut (streamOf s.cur) f = false

/-! ### What stays -/

/-- Threads, contexts, groups and teams apart, the machine is as it was: memory with every byte of it, the states of words,
caches, queues of the ebb lane, helpers, every register of core, cluster, die, package and fabric. -/
def SameBesides (s t : State) : Prop :=
  { t with threads := s.threads, ctxs := s.ctxs, groups := s.groups, teams := s.teams } = s

/-- The contexts of the issuing gang have passed the instruction and its hint words, and every other context is as it
was (R61, R62). -/
structure Advances (s t : State) : Prop where
  pc : ∀ p ∈ s.gang s.cur, (t.ctx p).pc = (s.ctx p).pc + BitVec.ofNat 60 (4 * (s.ctx p).run.len) + 4
  run : ∀ p ∈ s.gang s.cur, (t.ctx p).run = HintRun.empty
  wait : ∀ p ∈ s.gang s.cur, (t.ctx p).wait = none
  mask : ∀ p ∈ s.gang s.cur, (t.ctx p).m = (s.ctx p).m
  stack : ∀ p ∈ s.gang s.cur, (t.ctx p).stack = (s.ctx p).stack
  spilled : ∀ p ∈ s.gang s.cur, (t.ctx p).spilled = (s.ctx p).spilled
  idle : ∀ p ∈ s.gang s.cur, (t.ctx p).idle = (s.ctx p).idle
  others : ∀ p, p ∉ s.gang s.cur → t.ctx p = s.ctx p

/-- What no instruction of the kinds below writes in a thread: window base, flag mask, identity, lease, signature, the matrix
engine's flags. -/
structure SameThread (a b : Thread) : Prop where
  wb : b.wb = a.wb
  fmask : b.fmask = a.fmask
  tid : b.tid = a.tid
  lane : b.lane = a.lane
  gid : b.gid = a.gid
  live : b.live = a.live
  lease : b.lease = a.lease
  sig : b.sig = a.sig
  mxFlags : b.mxFlags = a.mxFlags

/-! ### Results -/

/-- The register words that a result is written to: none for a channel (R20, R21, R69). -/
def destWords (r : ThreadRef) (t : Thread) (d : Dest) (wide : Bool) : List Nat :=
  if d.cls then []
  else match r with
    | .headland _ => [2 * d.ix.toNat, 2 * d.ix.toNat + 1]
    | _ => if wide then [slotWord r t d.ix.toNat, slotWord r t (d.ix.toNat + 1)] else [slotWord r t d.ix.toNat]

/-- What a destination slot, pair or h register holds. -/
def destValue (r : ThreadRef) (t : Thread) (d : Dest) (wide : Bool) : DWord :=
  match r with
  | .headland _ => slot64 r t d.ix.toNat
  | _ => if wide then slot64 r t d.ix.toNat else (slot32 r t d.ix.toNat).zeroExtend 64

/-- A result as its destination holds it: 64 bits, or 32 bits with nothing above them (R22, R69). -/
def resultOf (wide : Bool) (v : DWord) : DWord := if wide then v else (v.extractLsb' 0 32).zeroExtend 64

/-- How many entries an instruction of a form pops from the channel of an index (R32). -/
def Form.popCount (f : Form) (ix : Nat) : Nat := (f.srcs.flatMap Operand.pops).count (BitVec.ofNat 5 ix)

/-- The entries that the result of a form makes in the channel of an index. -/
def Form.pushes (f : Form) (ix : Nat) (v : DWord) : List Word :=
  match f.dest with
  | some (d, w) => if d.cls ∧ d.ix.toNat = ix then chanWords w v else []
  | none => []

/-- A step after which every active lane has its result, `out` of its thread, and nothing else has changed: the slots or
the channel of the destination, the predicate of the destination, the exception flags, SAT and AM, the entries popped,
the advance of the gang. -/
structure Delivers (s t : State) (f : Form) (act : List Lane) (out : ThreadRef → LaneOut)
    (am : ThreadRef → Bool := fun _ => false) : Prop where
  advances : Advances s t
  besides : SameBesides s t
  /-- the destination of each active lane -/
  result : ∀ d w, f.dest = some (d, w) → d.cls = false → ∀ l ∈ act,
    destValue l.ref (t.thread l.ref) d w = resultOf w (out l.ref).val
  /-- every other register word of every thread -/
  words : ∀ r i, (r ∈ act.map (·.ref) → ∀ d w, f.dest = some (d, w) → i ∉ destWords r (s.thread r) d w) →
    (t.thread r).word i = (s.thread r).word i
  preds : ∀ r q, (t.thread r).pred q =
    if f.pred = some q ∧ r ∈ act.map (·.ref) then (out r).pred else (s.thread r).pred q
  flags : ∀ r, (t.thread r).fflags =
    if r ∈ act.map (·.ref) then (s.thread r).fflags ||| (out r).flags else (s.thread r).fflags
  xstat : ∀ r, (t.thread r).xstat =
    if r ∈ act.map (·.ref) then
      (s.thread r).xstat ||| (if am r then xstatAM else 0) ||| (if (out r).sat then xstatSAT else 0)
    else (s.thread r).xstat
  threads : ∀ r, SameThread (s.thread r) (t.thread r)
  /-- gather-return streams: popped in each active lane -/
  streams : ∀ r n, n < 4 → tgetD n [] (t.thread r).streams =
    (tgetD n [] (s.thread r).streams).drop
      (if r ∈ act.map (·.ref) ∧ streamOf s.cur = .compute then f.popCount (4 + n) else 0)
  /-- helper results: popped by a compute thread, entered by a helper -/
  hr : ∀ r, (t.thread r).hr =
    if r ∈ act.map (·.ref) then
      (match streamOf s.cur with
        | .compute => (s.thread r).hr.drop (f.popCount 8)
        | .helper => (s.thread r).hr ++ f.pushes 8 (out r).val
        | _ => (s.thread r).hr)
    else (s.thread r).hr
  /-- the group: its copies of the headland queues popped once, its watchdog, tag timer and COUNT of a save as every issue leaves them -/
  group : ∀ tk gid q, s.cur = .gang tk gid q →
    (∀ n, n < 4 → tgetD n [] (t.group tk gid).queues = (tgetD n [] (s.group tk gid).queues).drop (f.popCount n))
      ∧ { t.group tk gid with queues := (s.group tk gid).queues, wdog := (s.group tk gid).wdog
                              tagTimer := (s.group tk gid).tagTimer, saved := (s.group tk gid).saved } = s.group tk gid
  groups : ∀ tk gid, (∀ q, s.cur ≠ .gang tk gid q) → t.group tk gid = s.group tk gid
  /-- push ports: the lowest active lane's result enters the queue of a group's team (R35) -/
  push : ∀ tk gid q, s.cur = .gang tk gid q → ∀ n, n < 4 →
    tgetD n [] (t.team tk).push = tgetD n [] (s.team tk).push
      ++ (match act with | l :: _ => (f.pushes n (out l.ref).val).map fun w => (w, gid) | [] => [])
  /-- the headland pops its queues -/
  pops : ∀ tk, s.cur = .headland tk → ∀ n, n < 4 →
    tgetD n [] (t.team tk).push = (tgetD n [] (s.team tk).push).drop (f.popCount n)
  teams : ∀ tk, { t.team tk with push := (s.team tk).push, hWdog := (s.team tk).hWdog
                                 hTagTimer := (s.team tk).hTagTimer } = s.team tk
  still : (∀ tk gid q, s.cur ≠ .gang tk gid q) → (∀ tk, s.cur ≠ .headland tk) → t.teams = s.teams
  otherTeams : ∀ tk, s.teamOf s.cur ≠ some tk → t.team tk = s.team tk

/-- The conditions beside `Issues` under which an instruction that computes in each lane has its result delivered: no
enabled floating-point flag is raised (R39), and the destination has room (R35, R209). -/
structure Roomy (s : State) (f : Form) (act : List Lane) (out : ThreadRef → LaneOut) : Prop where
  flags : ∀ l ∈ act, trapsOn (s.thread l.ref).fmask (out l.ref).flags = false
  room : s.room act f.dest = .ok

/-- The sources of an instruction as a thread reads them, in field order (R32). -/
def State.srcsOf (s : State) (f : Form) (r : ThreadRef) : List DWord := s.sources (streamOf s.cur) r f.srcs []

/-- The instruction delivers what `fn` computes from each active lane's thread and sources, whenever its word passes its
checks and the result has room. -/
def Computes (i : Instr) (s : State) (f : Form) (fn : Thread → List DWord → LaneOut) : Prop :=
  ∀ act, Issues s f act → Roomy s f act (fun r => fn (s.thread r) (s.srcsOf f r)) →
    ∃ t, exec i s = .next t ∧ Delivers s t f act fun r => fn (s.thread r) (s.srcsOf f r)

/-! ### How claims write what a lane computes -/

/-- A 32-bit source of a lane. -/
def src32 (xs : List DWord) (k : Nat) : Word := (xs.getD k 0).extractLsb' 0 32

/-- A 64-bit source of a lane. -/
def src64 (xs : List DWord) (k : Nat) : DWord := xs.getD k 0

/-- A 32-bit result from one, two or three 32-bit sources. -/
def word1 (f : Word → Word) (_ : Thread) (xs : List DWord) : LaneOut := { val := (f (src32 xs 0)).zeroExtend 64 }
/-- Two sources. -/
def word2 (f : Word → Word → Word) (_ : Thread) (xs : List DWord) : LaneOut :=
  { val := (f (src32 xs 0) (src32 xs 1)).zeroExtend 64 }
/-- Three sources. -/
def word3 (f : Word → Word → Word → Word) (_ : Thread) (xs : List DWord) : LaneOut :=
  { val := (f (src32 xs 0) (src32 xs 1) (src32 xs 2)).zeroExtend 64 }

/-- A 64-bit result from two 32-bit sources. -/
def wide2 (f : Word → Word → DWord) (_ : Thread) (xs : List DWord) : LaneOut := { val := f (src32 xs 0) (src32 xs 1) }
/-- A 64-bit result from two 64-bit sources. -/
def long2 (f : DWord → DWord → DWord) (_ : Thread) (xs : List DWord) : LaneOut := { val := f (src64 xs 0) (src64 xs 1) }
/-- A 64-bit result from a 64-bit and a 32-bit source. -/
def longWord (f : DWord → Word → DWord) (_ : Thread) (xs : List DWord) : LaneOut := { val := f (src64 xs 0) (src32 xs 1) }

/-- An exact integer clamped to a range, with SAT where that changes it (R102, R112). -/
def clamped (lo hi : Int) (exact : Word → Word → Int) (_ : Thread) (xs : List DWord) : LaneOut :=
  let x := exact (src32 xs 0) (src32 xs 1)
  let y := max lo (min hi x)
  { val := (BitVec.ofInt 32 y).zeroExtend 64, sat := decide (y ≠ x) }

/-- A predicate from two values. -/
def test2 (f : DWord → DWord → Bool) (_ : Thread) (xs : List DWord) : LaneOut := { pred := f (src64 xs 0) (src64 xs 1) }

/-- The integer conditions, by the numbers that the bits stand for (R119). -/
def condHolds {w : Nat} : Cond → BitVec w → BitVec w → Bool
  | .eq, x, y => decide (x.toNat = y.toNat)
  | .ne, x, y => decide (x.toNat ≠ y.toNat)
  | .lt, x, y => decide (x.toInt < y.toInt)
  | .le, x, y => decide (x.toInt ≤ y.toInt)
  | .gt, x, y => decide (y.toInt < x.toInt)
  | .ge, x, y => decide (y.toInt ≤ x.toInt)
  | .lo, x, y => decide (x.toNat < y.toNat)
  | .ls, x, y => decide (x.toNat ≤ y.toNat)
  | .hi, x, y => decide (y.toNat < x.toNat)
  | .hs, x, y => decide (y.toNat ≤ x.toNat)
  | .tst, x, y => decide ((x &&& y).toNat ≠ 0)
  | .ntst, x, y => decide ((x &&& y).toNat = 0)

/-- Byte k of a word (R90). -/
def byteAt (x : Word) (k : Nat) : BitVec 8 := x.extractLsb' (8 * k) 8

/-- A word from its two halves, low half first. -/
def ofHalves (f : Nat → BitVec 16) : Word := f 1 ++ f 0

/-- A word from its four bytes, byte 0 lowest. -/
def ofFour (f : Nat → BitVec 8) : Word := f 3 ++ f 2 ++ f 1 ++ f 0

/-- The immediate k of the hint run of the issuing gang: the field alone, or below the 22 bits of a LIMM (R55, R57). -/
def State.imm (s : State) {w : Nat} (i : BitVec w) : DWord :=
  match (s.ctx s.cur).run.limm with
  | none => i.signExtend 64
  | some l => (l ++ i).signExtend 64

/-- The rounding mode in force: that of an attached PFX, or the instruction's default (R58, R100). -/
def State.roundIn (s : State) (dflt : RM) : RM :=
  match (s.ctx s.cur).run.pfx with
  | none => dflt
  | some x => if x.rm = 1 then .rn else if x.rm = 2 then .rz else if x.rm = 3 then .ru else if x.rm = 4 then .rd else dflt

/-- The lane number of an active thread. -/
def laneIx (act : List Lane) (r : ThreadRef) : Nat := ((act.find? fun l => decide (l.ref = r)).map (·.ix)).getD 0

/-- The instruction delivers, for every set of active lanes with which its word passes its checks and the result has room,
what `fn` says of each active thread, given all of them (R9, R236, R240). -/
def Shares (i : Instr) (s : State) (f : Form) (fn : List Lane → ThreadRef → LaneOut)
    (am : List Lane → ThreadRef → Bool := fun _ _ => false) : Prop :=
  ∀ act, Issues s f act → Roomy s f act (fn act) →
    ∃ t, exec i s = .next t ∧ Delivers s t f act (fn act) (am act)

/-! ### Instructions that are no plain computation -/

/-- The state in which an instruction of a form takes effect: its guard is noted with its contexts, nothing else. -/
def State.begun (s : State) (f : Form) : State := s.noteGuard (f.guard s.cctx.run)

/-- The threads of lanes updated. -/
def State.onLanes (s : State) (act : List Lane) (g : Thread → Thread) : State :=
  forEach act s fun l s => s.onThread l.ref g

/-- Whenever its word passes its checks and a condition on the state holds, the instruction goes on to the state that
`then_` gives. -/
def Does (i : Instr) (s : State) (f : Form) (when_ : List Lane → State → Prop) (then_ : List Lane → State → State) : Prop :=
  ∀ act, Issues s f act → when_ act (s.begun f) → exec i s = .next (then_ act (s.begun f))

/-- With no active lane the instruction retires and does nothing else (R29). -/
def Skips (i : Instr) (s : State) (f : Form) : Prop :=
  s.active s.cur (f.guard s.cctx.run) = [] → exec i s = .next s.retire

/-- The checks of R71 in their order: encoding, stream and hint words; privilege; operands; an instruction that is no
helper's. -/
def Refuses (i : Instr) (s : State) (f : Form) : Prop :=
  let st := streamOf s.cur
  let run := s.cctx.run
  let act := s.active s.cur (f.guard run)
  let traps (c : BitVec 8) : Prop := exec i s = .next ((s.begun f).raiseCause act c)
  let encoded : Prop := f.allowed st = true ∧ f.badEnc = false ∧ f.hintsOk run = true
  let free : Prop := f.denied = false ∧ (f.priv = true → st = .service)
  act ≠ [] → (¬encoded → traps 0x01) ∧ (encoded → ¬free → traps 0x03)
    ∧ (encoded → free → f.operandsOk st run = false → traps 0x02)
    ∧ (encoded → free → f.operandsOk st run = true → f.helperBad = true → st = .helper → traps 0x10)

/-- Entries that the sources of an instruction popped, and what every issue leaves with its group or headland; every other
thing about groups and teams, and the machine besides threads and contexts, is as it was (R32-R36, R191, R233). -/
structure Pops (s t : State) (f : Form) (act : List Lane) : Prop where
  besides : SameBesides s t
  streams : ∀ r n, n < 4 → tgetD n [] (t.thread r).streams = (tgetD n [] (s.thread r).streams).drop
    (if r ∈ act.map (·.ref) ∧ streamOf s.cur = .compute then f.popCount (4 + n) else 0)
  hr : ∀ r, (t.thread r).hr = (s.thread r).hr.drop
    (if r ∈ act.map (·.ref) ∧ (chanOf (streamOf s.cur) 8).isSome = true then f.popCount 8 else 0)
  queues : ∀ tk gid n, n < 4 → tgetD n [] (t.group tk gid).queues = (tgetD n [] (s.group tk gid).queues).drop
    (match s.cur with | .gang k g _ => if k = tk ∧ g = gid then f.popCount n else 0 | _ => 0)
  groups : ∀ tk gid, { t.group tk gid with
      queues := (s.group tk gid).queues, wdog := (s.group tk gid).wdog
      tagTimer := (s.group tk gid).tagTimer, saved := (s.group tk gid).saved } = s.group tk gid
  push : ∀ tk n, n < 4 → tgetD n [] (t.team tk).push = (tgetD n [] (s.team tk).push).drop
    (match s.cur with | .headland k => if k = tk then f.popCount n else 0 | _ => 0)
  teams : ∀ tk, { t.team tk with
      push := (s.team tk).push, hWdog := (s.team tk).hWdog, hTagTimer := (s.team tk).hTagTimer } = s.team tk

/-- The instruction has read its sources, popped their entries and passed, and changed nothing else: every register,
predicate, flag and special register of every thread is as it was. -/
structure Passes (s t : State) (f : Form) (act : List Lane) : Prop where
  advances : Advances s t
  pops : Pops s t f act
  threads : ∀ r, { t.thread r with
      streams := (s.thread r).streams, hr := (s.thread r).hr, count := (s.thread r).count } = s.thread r

/-- A control instruction has left each quad of its gang with the path that `next` says; a register word changes only
where `may` allows it or in the spill area of a quad (R161-R167). -/
structure Moves (s t : State) (f : Form) (act : List Lane) (next : Party → Move)
    (may : ThreadRef → Nat → Prop := fun _ _ => False) : Prop where
  pc : ∀ p ∈ s.gang s.cur, (t.ctx p).pc = (next p).pc
  mask : ∀ p ∈ s.gang s.cur, (t.ctx p).m = (next p).m
  stack : ∀ p ∈ s.gang s.cur, (t.ctx p).stack = (next p).stack.take 8
  spilled : ∀ p ∈ s.gang s.cur, (t.ctx p).spilled = (next p).stack.length - 8
  run : ∀ p ∈ s.gang s.cur, (t.ctx p).run = HintRun.empty
  wait : ∀ p ∈ s.gang s.cur, (t.ctx p).wait = none
  others : ∀ p, p ∉ s.gang s.cur → t.ctx p = s.ctx p
  pops : Pops s t f act
  threads : ∀ r, { t.thread r with
      regs := (s.thread r).regs, log := (s.thread r).log, bad := (s.thread r).bad, dirty := (s.thread r).dirty
      streams := (s.thread r).streams, hr := (s.thread r).hr
      count := (s.thread r).count } = s.thread r
  words : ∀ r i, ¬may r i →
    (∀ p ∈ s.gang s.cur, r ∈ s.spillThreads p → i < s.spillWord p 0 ∨ s.spillWord p 8 ≤ i) →
    (t.thread r).word i = (s.thread r).word i

/-- A quad behind the instruction of the issuing gang, with its mask and stack as they are. -/
def State.nextPath (s : State) (p : Party) : Move := ⟨(s.ctx s.cur).fetchPc + 4, (s.ctx p).m, s.fullStack p⟩

/-- Where a branch of the issuing gang goes: its immediate counts words from the instruction (R164). -/
def State.targetAt (s : State) {w : Nat} (x : BitVec w) : VAddr :=
  BitVec.ofInt 60 ((s.ctx s.cur).fetchPc.toNat + 4 * (s.imm x).toInt)

/-- A quad of which some lanes branch: the others go on, and a path holds those that branch (R165). -/
def State.takenPath (s : State) (target : VAddr) (taken : BitVec 4) (p : Party) : Move :=
  if taken = 0 then s.nextPath p
  else if taken = (s.ctx p).m then ⟨target, (s.ctx p).m, s.fullStack p⟩
  else ⟨(s.ctx s.cur).fetchPc + 4, (s.ctx p).m &&& ~~~taken, ⟨false, taken, target⟩ :: s.fullStack p⟩

/-- A quad that has pushed a token of its lanes (R165). -/
def State.joinPath (s : State) (target : VAddr) (p : Party) : Move :=
  ⟨(s.ctx s.cur).fetchPc + 4, (s.ctx p).m, ⟨true, (s.ctx p).m, target⟩ :: s.fullStack p⟩

/-- A quad of which some lanes have left its n topmost tokens (R165). -/
def State.brokenPath (s : State) (target : VAddr) (n : Nat) (a : BitVec 4) (p : Party) : Move :=
  if a = 0 then s.nextPath p
  else ⟨(s.ctx s.cur).fetchPc + 4, (s.ctx p).m &&& ~~~a, brkStack a ⟨false, a, target⟩ n (s.fullStack p)⟩

/-- A quad whose active lanes go to targets of their own (R165). -/
def State.spreadPath (s : State) (act : List Lane) (target : Lane → DWord) (p : Party) : Move :=
  ⟨(s.ctx s.cur).fetchPc + 4, (s.ctx p).m &&& ~~~(s.quadActive p act),
    targetPaths ((act.filter fun l => decide (l ∈ s.ctxLanes p)).map fun l => (l.ix, (target l).extractLsb' 0 60)) ++ s.fullStack p⟩

/-- Every stack of the gang stays within its limit on these paths (R162). -/
def State.stacksFit (s : State) (path : Party → Move) : Prop := ∀ p ∈ s.gang s.cur, (path p).stack.length ≤ stackLimit p

/-- The active lanes of the quads whose stack would grow past its limit (R162). -/
def State.overfull (s : State) (act : List Lane) (path : Party → Move) : List Lane :=
  ((s.gang s.cur).filter fun p => decide (stackLimit p < (path p).stack.length)).flatMap fun p =>
    (s.ctxLanes p).filter fun l => decide (l ∈ act)

/-- Where a stack would grow past its limit, the instruction traps with cause 0x0E in the active lanes of those quads, and
pushes nothing (R162). -/
def Overflows (i : Instr) (s : State) (f : Form) (next : Party → BitVec 4 → Move) : Prop :=
  ∀ act, Issues s f act →
    let path (p : Party) : Move := next p (s.quadActive p act)
    ¬s.stacksFit path → exec i s = .next ((s.begun f).raiseCause (s.overfull act path) 0x0E)

/-- The dirty words of the active lanes' operand regions can be written back, from the word that a restart begins with: none
holds uncorrectable data (R24, R159). -/
def State.writesBack (s : State) (act : List Lane) : Prop := s.writeBackStop act (s.ctx s.cur).count = none

/-- An instruction that ends an operand region meets uncorrectable data in writing it back: cause 0x09 in the lanes that met
it, with the words completed (R24, R159). -/
def StopsWritingBack (i : Instr) (s : State) (f : Form) (act : List Lane) : Prop :=
  ∀ x, s.writeBackStop act (s.ctx s.cur).count = some x →
    exec i s = .next ((s.begun f).raiseMem { cause := 0x09, lanes := x.2, count := x.1 })

/-- The control instruction leaves each quad as `next` says of the quad and its active lanes, whenever its word passes its
checks and no stack would grow past its limit. -/
def Branches (i : Instr) (s : State) (f : Form) (next : Party → BitVec 4 → Move) : Prop :=
  ∀ act, Issues s f act →
    let path (p : Party) : Move := next p (s.quadActive p act)
    s.stacksFit path → ∃ t, exec i s = .next t ∧ Moves s t f act path

/-- No party of a team waits at a barrier or for its grid: none of them takes a cause when the team fails (R218). -/
def State.noneAtBarrier (s : State) (tk : Nat) : Bool :=
  s.ctxs.all fun x => !partyOfTeam tk x.1 || match (s.ctx x.1).wait with
    | some (.barrier _ _ _) => false
    | some (.gbar _ _) => false
    | _ => true

/-- The special registers of the machine that no access to memory writes: those of service threads, cores, clusters, dies,
L2, package and fabric, the table engine, boot, the time. -/
structure SameSpecial (s t : State) : Prop where
  services : t.services = s.services
  pkg : t.pkg = s.pkg
  table : t.table = s.table
  boot : t.boot = s.boot
  bm : t.bm = s.bm
  time : t.time = s.time
  cores : t.cores = s.cores
  helpers : t.helpers = s.helpers
  recruits : t.recruits = s.recruits
  frames : t.frames = s.frames
  clusters : ∀ c, { t.cluster c with tlb := (s.cluster c).tlb } = s.cluster c
  dies : ∀ d, { t.die d with
    near := (s.die d).near, misses := (s.die d).misses, walks := (s.die d).walks, trep := (s.die d).trep } = s.die d
  l2 : { t.l2 with races := s.l2.races, lost := s.l2.lost } = s.l2
  fab : { t.fab with requests := s.fab.requests, sent := s.fab.sent, ports := s.fab.ports } = s.fab

/-- A byte of a page-table entry in some replica, which a walker may repair (R365). -/
def State.tableByte (s : State) (a : Nat) : Prop :=
  ∃ d t i, d < 8 ∧ s.entryAddr d t i ≤ a ∧ a < s.entryAddr d t i + 8

/-- An access of the issuing party whose translation its core's TLB holds, or that bring-up mode takes untranslated; it is
permitted and goes to a physical address (R363, R366, R470). -/
def State.reaches (s : State) (k : Access) (ea : DWord) (pa : Nat) : Prop :=
  ea.toNat < 2 ^ 60 ∧
    if s.bm = true ∧ isService s.cur = true then
      ea.toNat < 2 ^ 44 ∧ assigned ea.toNat = true ∧ pa = s.fab.pid.toNat * 2 ^ 44 + ea.toNat
    else ∃ l, tlbFind (s.cmem (s.agentOf s.cur)).tlb (s.asnOf s.cur) ea.toNat = some l
      ∧ s.checkPa (isService s.cur) k l ea.toNat = .ok pa

/-- No request waits at a word's home slice, and no forward of the word is outstanding (R384). -/
def State.unasked (s : State) (w : Nat) : Prop := s.heldWord w = false ∧ s.queueOf w = []

/-- The address is memory of this package, and its word is registered to the issuing party's owner (R388). -/
def State.holdsWord (s : State) (pa : Nat) : Prop :=
  s.target pa = .mem ∧ s.ownsWord (s.ownerOf s.cur) (pa % 2 ^ 44 / 4 * 4) = true

/-! ### Checkpoints, drains, releases -/

/-- The issuing party's team is a copy of a pair whose checkpoint for this instruction has not committed (R345). -/
def State.pairWaits (s : State) : Prop :=
  ∃ tk, s.teamOf s.cur = some tk ∧ (s.team tk).launch.grd = 2 ∧ (s.team tk).pair ≠ .none ∧ s.checkpointed = false

/-- The checkpoint that an instruction takes when it is issued, where its team takes any (R230, R396). -/
def State.cutNow (s : State) : State :=
  match s.teamOf s.cur with
  | none => s
  | some tk => if (s.team tk).launch.grd = 0 ∨ s.checkpointed = true then s else s.checkpoint tk

/-- Every older load of the issuing party's group has bound (R394). -/
def State.olderBound (s : State) : Prop := s.olderOut s.cur = false

/-- Every entry that the issuing party entered before its instruction has drained; a helper's are no part of its release
(R209, R314, R396). -/
def State.drained (s : State) : Prop :=
  streamOf s.cur ≠ .helper → s.undrained (s.agentsOf s.cur) (s.partyStreams s.cur) (s.partyRefs s.cur)
    (match s.cctx.wait with | some (.release m) => m | _ => s.nextId) = false

/-- A release of the issuing party can be performed: the older loads have bound; at die scope and wider the checkpoint has
committed and the older entries have drained; at system scope each home slice has acknowledged (R394, R396, R450). -/
def State.canRelease (s : State) (sc : Scope) (m : DWord) : Prop :=
  match sc with
  | .group => s.olderBound
  | sc => ¬s.pairWaits ∧ s.cutNow.olderBound ∧ s.cutNow.drained ∧ (sc = .system →
      (s.cutNow.releaseNow s.cur sc m).closing
        ((s.cutNow.releaseNow s.cur sc m).sameOwner ((s.cutNow.releaseNow s.cur sc m).ownerOf s.cur)) = false)

/-- The release of the issuing party performed (R394, R396). -/
def State.released (s : State) (sc : Scope) (m : DWord) : State :=
  match sc with
  | .group => s
  | _ => s.cutNow.releaseNow s.cur sc m

/-- The contexts of the issuing gang have passed their instruction and its hint words, and are otherwise as they were; of
other contexts this says nothing (R61, R62). -/
def GoesOn (s t : State) : Prop :=
  ∀ p ∈ s.gang s.cur, t.ctx p =
    { s.ctx p with
      pc := (s.ctx p).pc + BitVec.ofNat 60 (4 * (s.ctx p).run.len) + 4
      run := HintRun.empty, wait := none, gang := [], count := 0, guard := 0, issued := s.time.toNat
      ready := s.time.toNat, pri := (s.ctx p).run.pri, order := 0, past := false }

/-- The contexts of the issuing gang stand at their instruction and wait (R188). -/
def WaitsIn (s t : State) (w : Wait) : Prop :=
  ∀ p ∈ s.gang s.cur, (t.ctx p).wait = some w ∧ (t.ctx p).pc = (s.ctx p).pc ∧ (t.ctx p).m = (s.ctx p).m
    ∧ (t.ctx p).stack = (s.ctx p).stack ∧ (t.ctx p).run = (s.ctx p).run

/-- No register word, predicate or flag of a thread has changed. -/
def SameRegs (s t : State) (r : ThreadRef) : Prop :=
  (∀ k, (t.thread r).word k = (s.thread r).word k) ∧ (∀ q, (t.thread r).pred q = (s.thread r).pred q)
    ∧ (t.thread r).fflags = (s.thread r).fflags ∧ (t.thread r).xstat = (s.thread r).xstat
    ∧ SameThread (s.thread r) (t.thread r)

end Sys2Proof.Machine
end

