-- ==== Sys2Proof/Certificates/Slice0/Obligations.lean ====
section
/-! DEFINITION. The statements about the machine, for the provers. Most statements of an instruction's result say `Computes`
(Sys2Proof/Safety.lean): the instruction answers a next state in which every active lane has its result, and everything
else is as it was, registers, predicates, flags, memory, special registers. -/

open Sys2Proof Sys2Proof.Machine

/-! ### Results -/

/-- R112-R114: the 32-bit arithmetic of major 0x01, logic and select. SEL has every running lane active and selects by
its g field. The words of majors 0x01
and 0x02 stand for these instructions; an unassigned minor, or an unused field that is not zero, is no instruction. -/
def Obligations.IntegerArithmeticAndLogic : Prop :=
  (∀ (s : State) (d : Dest) (a b : Src) (g : PredIx),
     let one := formA g d false [r32 a]
     let two := formA g d false [r32 a, r32 b]
     Computes (.add d a b g) s two (word2 fun x y => BitVec.ofNat 32 (x.toNat + y.toNat))
     ∧ Computes (.addc d a b g) s two (word2 fun x y => if 2 ^ 32 ≤ x.toNat + y.toNat then 1 else 0)
     ∧ Computes (.sub d a b g) s two (word2 fun x y => BitVec.ofInt 32 ((x.toNat : Int) - y.toNat))
     ∧ Computes (.subb d a b g) s two (word2 fun x y => if x.toNat < y.toNat then 1 else 0)
     ∧ Computes (.neg d a g) s one (word1 fun x => BitVec.ofInt 32 (-x.toInt))
     ∧ Computes (.abs d a g) s one (word1 fun x => BitVec.ofInt 32 x.toInt.natAbs)
     ∧ Computes (.min d a b g) s two (word2 fun x y => BitVec.ofInt 32 (min x.toInt y.toInt))
     ∧ Computes (.minN d a b g) s two (word2 fun x y => BitVec.ofNat 32 (min x.toNat y.toNat))
     ∧ Computes (.max d a b g) s two (word2 fun x y => BitVec.ofInt 32 (max x.toInt y.toInt))
     ∧ Computes (.maxN d a b g) s two (word2 fun x y => BitVec.ofNat 32 (max x.toNat y.toNat))
     ∧ Computes (.addsat d a b g) s two (clamped (-2 ^ 31) (2 ^ 31 - 1) fun x y => x.toInt + y.toInt)
     ∧ Computes (.addsatN d a b g) s two (clamped 0 (2 ^ 32 - 1) fun x y => (x.toNat : Int) + y.toNat)
     ∧ Computes (.subsat d a b g) s two (clamped (-2 ^ 31) (2 ^ 31 - 1) fun x y => x.toInt - y.toInt)
     ∧ Computes (.subsatN d a b g) s two (clamped 0 (2 ^ 32 - 1) fun x y => (x.toNat : Int) - y.toNat))
  ∧ (∀ (s : State) (d : Dest) (a b : Src) (g : PredIx),
       let one := formA g d false [r32 a]
       let two := formA g d false [r32 a, r32 b]
       Computes (.and d a b g) s two (word2 (· &&& ·))
       ∧ Computes (.or d a b g) s two (word2 (· ||| ·))
       ∧ Computes (.xor d a b g) s two (word2 (· ^^^ ·))
       ∧ Computes (.not d a g) s one (word1 (~~~ ·))
       ∧ Computes (.andn d a b g) s two (word2 fun x y => x &&& ~~~y)
       ∧ Computes (.sel d a b g) s (formA 0 d false [r32 a, r32 b])
           (fun t xs => { val := (if t.pred g then src32 xs 0 else src32 xs 1).zeroExtend 64 })
       ∧ Computes (.mov d a g) s one (word1 fun x => x))
  ∧ (∀ (u : Bool) (d : BitVec 6) (a b : BitVec 7) (g : PredIx) (m : BitVec 4),
     let word (major : BitVec 6) : Word := major ++ d ++ a ++ b ++ g ++ m
     let D : Dest := ⟨d.msb, d.extractLsb' 0 5⟩
     let A : Src := ⟨a.msb, a.getLsbD 5, a.extractLsb' 0 5⟩
     let B : Src := ⟨b.msb, b.getLsbD 5, b.extractLsb' 0 5⟩
     decode u (word 1) = (match m with
       | 0 => some (.add D A B g)
       | 1 => some (.addc D A B g)
       | 2 => some (.sub D A B g)
       | 3 => some (.subb D A B g)
       | 4 => if b = 0 then some (.neg D A g) else none
       | 5 => if b = 0 then some (.abs D A g) else none
       | 6 => some (.min D A B g)
       | 7 => some (.minN D A B g)
       | 8 => some (.max D A B g)
       | 9 => some (.maxN D A B g)
       | 10 => some (.addsat D A B g)
       | 11 => some (.addsatN D A B g)
       | 12 => some (.subsat D A B g)
       | 13 => some (.subsatN D A B g)
       | _ => none)
     ∧ decode u (word 2) = (match m with
       | 0 => some (.and D A B g)
       | 1 => some (.or D A B g)
       | 2 => some (.xor D A B g)
       | 3 => if b = 0 then some (.not D A g) else none
       | 4 => some (.andn D A B g)
       | 5 => some (.sel D A B g)
       | 6 => if b = 0 then some (.mov D A g) else none
       | _ => none))

/-- R115, R116, R117: shifts, rotates, bit fields, bit counts and the byte permute of major 0x03. BFI reads its destination
slot as a third source. -/
def Obligations.ShiftsAndFields : Prop :=
  ∀ (s : State) (d : Dest) (a b : Src) (g : PredIx),
    let one := formA g d false [r32 a]
    let two := formA g d false [r32 a, r32 b]
    let pos (y : Word) : Nat := y.toNat % 256
    let len (y : Word) : Nat := min (y.toNat / 256 % 256) 32
    Computes (.shl d a b g) s two (word2 fun x c => BitVec.ofNat 32 (x.toNat * 2 ^ c.toNat))
    ∧ Computes (.shr d a b g) s two (word2 fun x c => BitVec.ofNat 32 (x.toNat / 2 ^ c.toNat))
    ∧ Computes (.sar d a b g) s two (word2 fun x c => BitVec.ofInt 32 (x.toInt / 2 ^ c.toNat))
    ∧ Computes (.rot d a b g) s two (word2 fun x c =>
        BitVec.ofNat 32 (x.toNat * 2 ^ (c.toNat % 32) + x.toNat / 2 ^ (32 - c.toNat % 32)))
    ∧ Computes (.fshf d a b g) s (formA g d false [r64 a, r32 b])
        (fun _ xs => { val := (BitVec.ofNat 32 ((src64 xs 0).toNat / 2 ^ ((src32 xs 1).toNat % 64))).zeroExtend 64 })
    ∧ Computes (.bfx d a b g) s two (word2 fun x y =>
        let v := x.toInt / 2 ^ pos y % 2 ^ len y
        BitVec.ofInt 32 (if len y = 0 then 0 else if 2 ^ (len y - 1) ≤ v then v - 2 ^ len y else v))
    ∧ Computes (.bfxN d a b g) s two (word2 fun x y => BitVec.ofNat 32 (x.toNat / 2 ^ pos y % 2 ^ len y))
    ∧ Computes (.bfi d a b g) s { formA g d false [r32 a, r32 b, r32 ⟨false, false, d.ix⟩] with bad := d.cls }
        (word3 fun x y old =>
          let mask := BitVec.ofNat 32 ((2 ^ len y - 1) * 2 ^ pos y)
          (old &&& ~~~mask) ||| (BitVec.ofNat 32 (x.toNat * 2 ^ pos y) &&& mask))
    ∧ Computes (.brev d a g) s one (word1 fun x => x.reverse)
    ∧ Computes (.popc d a g) s one (word1 fun x => BitVec.ofNat 32 ((List.range 32).countP x.getLsbD))
    ∧ Computes (.clz d a g) s one (word1 fun x =>
        BitVec.ofNat 32 (((List.range 32).find? fun k => x.getLsbD (31 - k)).getD 32))
    ∧ Computes (.ctz d a g) s one (word1 fun x => BitVec.ofNat 32 (((List.range 32).find? x.getLsbD).getD 32))
    ∧ Computes (.bytep d a b g) s two (word2 fun x y => ofFour fun k =>
        let sel := y.toNat / 2 ^ (4 * k) % 16
        let byte := byteAt x (sel % 4)
        if sel / 4 % 2 = 1 then 0 else if sel / 8 % 2 = 1 then (if byte.getLsbD 7 then 0xFF else 0) else byte)

/-- R118 with R103: multiplication, division and SAD of major 0x04. -/
def Obligations.MultiplyDivide : Prop :=
  ∀ (s : State) (d : Dest) (a b : Src) (g : PredIx),
    let two := formA g d false [r32 a, r32 b]
    let pair := formA g d true [r32 a, r32 b]
    Computes (.mul d a b g) s two (word2 fun x y => BitVec.ofNat 32 (x.toNat * y.toNat))
    ∧ Computes (.mulh d a b g) s two (word2 fun x y => BitVec.ofInt 32 (x.toInt * y.toInt / 2 ^ 32))
    ∧ Computes (.mulhN d a b g) s two (word2 fun x y => BitVec.ofNat 32 (x.toNat * y.toNat / 2 ^ 32))
    ∧ Computes (.mulw d a b g) s pair (wide2 fun x y => BitVec.ofInt 64 (x.toInt * y.toInt))
    ∧ Computes (.mulwN d a b g) s pair (wide2 fun x y => BitVec.ofNat 64 (x.toNat * y.toNat))
    ∧ Computes (.div d a b g) s two (word2 fun x y =>
        if y = 0 then 0xFFFFFFFF else BitVec.ofInt 32 (x.toInt.tdiv y.toInt))
    ∧ Computes (.divN d a b g) s two (word2 fun x y =>
        if y = 0 then 0xFFFFFFFF else BitVec.ofNat 32 (x.toNat / y.toNat))
    ∧ Computes (.rem d a b g) s two (word2 fun x y => if y = 0 then x else BitVec.ofInt 32 (x.toInt.tmod y.toInt))
    ∧ Computes (.remN d a b g) s two (word2 fun x y => if y = 0 then x else BitVec.ofNat 32 (x.toNat % y.toNat))
    ∧ Computes (.sad d a b g) s two (word2 fun x y => BitVec.ofNat 32 ((List.range 4).map fun k =>
        (((byteAt x k).toNat : Int) - (byteAt y k).toNat).natAbs).sum)

/-- R119, R120, R124, R135-R137: the compares, the predicate instructions, FCMP and FCLASS write their predicate alone; FCMP
may raise NV, FCLASS raises nothing. -/
def Obligations.ComparesAndPredicates : Prop :=
  (∀ (s : State) (k : Cond) (p q r g : PredIx) (a b : Src) (x3 : BitVec 9),
     Computes (.cmp k p a b g) s { headland := true, g := g, srcs := [r32 a, r32 b], pred := some p }
       (fun _ xs => { pred := condHolds k (src32 xs 0) (src32 xs 1) })
     ∧ Computes (.cmp64 k p a b g) s { headland := true, g := g, srcs := [r64 a, r64 b], pred := some p }
         (test2 (condHolds k))
     ∧ Computes (.cmpi k p a x3 g) s { headland := true, g := g, limm := true, srcs := [r32 a], pred := some p }
         (fun _ xs => { pred := condHolds k (src32 xs 0) ((s.imm x3).extractLsb' 0 32) })
     ∧ Computes (.pand p q r g) s { headland := true, g := g, pred := some p } (fun t _ => { pred := t.pred q && t.pred r })
     ∧ Computes (.por p q r g) s { headland := true, g := g, pred := some p } (fun t _ => { pred := t.pred q || t.pred r })
     ∧ Computes (.pxor p q r g) s { headland := true, g := g, pred := some p }
         (fun t _ => { pred := xor (t.pred q) (t.pred r) })
     ∧ Computes (.pnot p q g) s { headland := true, g := g, pred := some p } (fun t _ => { pred := !t.pred q }))
  ∧ (∀ (s : State) (k : FCond) (c : FClass) (p g : PredIx) (a b : Src),
       let cmp (f : Format) (x y : Nat) : LaneOut :=
         let r := fcmp k (f.decode x) (f.decode y)
         { pred := r.1, flags := r.2 }
       Computes (.fcmpF32 k p a b g) s (formFcmp p g [r32 a, r32 b]) (fun _ xs => cmp fmt32 (src64 xs 0).toNat (src64 xs 1).toNat)
       ∧ Computes (.fcmpF64 k p a b g) s (formFcmp p g [r64 a, r64 b])
           (fun _ xs => cmp fmt64 (src64 xs 0).toNat (src64 xs 1).toNat)
       ∧ Computes (.fclassF32 c p a g) s (formFcmp p g [r32 a]) (fun _ xs => { pred := fmt32.classOf c (src64 xs 0).toNat })
       ∧ Computes (.fclassF64 c p a g) s (formFcmp p g [r64 a]) (fun _ xs => { pred := fmt64.classOf c (src64 xs 0).toNat }))

/-- R121, R123: 64-bit and address arithmetic of major 0x06; one operation on each element of i16x2 or i8x4 operands. The
headland does not execute the packed forms (R110). The words of majors 0x06
and 0x07 stand for these instructions, an unassigned minor for none. -/
def Obligations.LongAndPackedArithmetic : Prop :=
  (∀ (s : State) (d : Dest) (a b : Src) (g : PredIx),
     let two := formA g d true [r64 a, r64 b]
     let shift := formA g d true [r64 a, r32 b]
     Computes (.add64 d a b g) s two (long2 fun x y => BitVec.ofNat 64 (x.toNat + y.toNat))
     ∧ Computes (.sub64 d a b g) s two (long2 fun x y => BitVec.ofInt 64 ((x.toNat : Int) - y.toNat))
     ∧ Computes (.mul64 d a b g) s two (long2 fun x y => BitVec.ofNat 64 (x.toNat * y.toNat))
     ∧ Computes (.shl64 d a b g) s shift (longWord fun x c => BitVec.ofNat 64 (x.toNat * 2 ^ c.toNat))
     ∧ Computes (.shr64 d a b g) s shift (longWord fun x c => BitVec.ofNat 64 (x.toNat / 2 ^ c.toNat))
     ∧ Computes (.sar64 d a b g) s shift (longWord fun x c => BitVec.ofInt 64 (x.toInt / 2 ^ c.toNat))
     ∧ Computes (.lea d a b g) s shift (longWord fun x y => BitVec.ofInt 64 ((x.toNat : Int) + y.toInt)))
  ∧ (∀ (s : State) (d : Dest) (a b : Src) (g : PredIx),
       let f := { formA g d false [r32 a, r32 b] with headland := false }
       let half (x : Word) (k : Nat) : BitVec 16 := x.extractLsb' (16 * k) 16
       Computes (.paddI16x2 d a b g) s f (word2 fun x y => ofHalves fun k =>
           BitVec.ofInt 16 ((half x k).toInt + (half y k).toInt))
       ∧ Computes (.psubI16x2 d a b g) s f (word2 fun x y => ofHalves fun k =>
           BitVec.ofInt 16 ((half x k).toInt - (half y k).toInt))
       ∧ Computes (.pminI16x2 d a b g) s f (word2 fun x y => ofHalves fun k =>
           BitVec.ofInt 16 (min (half x k).toInt (half y k).toInt))
       ∧ Computes (.pmaxI16x2 d a b g) s f (word2 fun x y => ofHalves fun k =>
           BitVec.ofInt 16 (max (half x k).toInt (half y k).toInt))
       ∧ Computes (.paddI8x4 d a b g) s f (word2 fun x y => ofFour fun k =>
           BitVec.ofInt 8 ((byteAt x k).toInt + (byteAt y k).toInt))
       ∧ Computes (.psubI8x4 d a b g) s f (word2 fun x y => ofFour fun k =>
           BitVec.ofInt 8 ((byteAt x k).toInt - (byteAt y k).toInt))
       ∧ Computes (.pminI8x4 d a b g) s f (word2 fun x y => ofFour fun k =>
           BitVec.ofInt 8 (min (byteAt x k).toInt (byteAt y k).toInt))
       ∧ Computes (.pmaxI8x4 d a b g) s f (word2 fun x y => ofFour fun k =>
           BitVec.ofInt 8 (max (byteAt x k).toInt (byteAt y k).toInt)))
  ∧ (∀ (u : Bool) (d : BitVec 6) (a b : BitVec 7) (g : PredIx) (m : BitVec 4),
     let word (major : BitVec 6) : Word := major ++ d ++ a ++ b ++ g ++ m
     let D : Dest := ⟨d.msb, d.extractLsb' 0 5⟩
     let A : Src := ⟨a.msb, a.getLsbD 5, a.extractLsb' 0 5⟩
     let B : Src := ⟨b.msb, b.getLsbD 5, b.extractLsb' 0 5⟩
     decode u (word 6) = (match m with
       | 0 => some (.add64 D A B g)
       | 1 => some (.sub64 D A B g)
       | 2 => some (.mul64 D A B g)
       | 3 => some (.shl64 D A B g)
       | 4 => some (.shr64 D A B g)
       | 5 => some (.sar64 D A B g)
       | 6 => some (.lea D A B g)
       | _ => none)
     ∧ decode u (word 7) = (match m with
       | 0 => some (.paddI16x2 D A B g)
       | 1 => some (.psubI16x2 D A B g)
       | 2 => some (.pminI16x2 D A B g)
       | 3 => some (.pmaxI16x2 D A B g)
       | 4 => some (.paddI8x4 D A B g)
       | 5 => some (.psubI8x4 D A B g)
       | 6 => some (.pminI8x4 D A B g)
       | 7 => some (.pmaxI8x4 D A B g)
       | _ => none))

/-- R124, R126: the immediate forms, with the LIMM of their hint run where one stands. -/
def Obligations.ImmediateForms : Prop :=
  ∀ (s : State) (d : Dest) (a : Src) (x2 : BitVec 9) (x1 : BitVec 11) (g : PredIx),
    let f := { formA g d false [r32 a] with limm := true }
    let k := (s.imm x2).extractLsb' 0 32
    Computes (.addi d a x2 g) s f (word1 fun x => BitVec.ofNat 32 (x.toNat + k.toNat))
    ∧ Computes (.andi d a x2 g) s f (word1 fun x => x &&& k)
    ∧ Computes (.ori d a x2 g) s f (word1 fun x => x ||| k)
    ∧ Computes (.xori d a x2 g) s f (word1 fun x => x ^^^ k)
    ∧ Computes (.shli d a x2 g) s f (word1 fun x => BitVec.ofNat 32 (x.toNat * 2 ^ k.toNat))
    ∧ Computes (.shri d a x2 g) s f (word1 fun x => BitVec.ofNat 32 (x.toNat / 2 ^ k.toNat))
    ∧ Computes (.sari d a x2 g) s f (word1 fun x => BitVec.ofInt 32 (x.toInt / 2 ^ k.toNat))
    ∧ Computes (.movi d x1 g) s { formA g d false [] with limm := true }
        (fun _ _ => { val := ((s.imm x1).extractLsb' 0 32).zeroExtend 64 })
    ∧ Computes (.leai d x1 g) s { formA g d true [] with limm := true }
        (fun _ _ => { val := BitVec.ofInt 64 ((s.ctx s.cur).fetchPc.toNat + (s.imm x1).toInt) })

/-- R127: the three-source forms; the third source is popped where PFX CPOP says so, and UNS stands for the unsigned
variants. -/
def Obligations.ThreeSource : Prop :=
  ∀ (s : State) (d : Dest) (a b : Src) (c : Src3),
    let bytes (x y : Word) (f : BitVec 8 → Int) : Int := ((List.range 4).map fun k => f (byteAt x k) * f (byteAt y k)).sum
    Computes (.mad d a b c) s (s.formF d a b c false false false)
      (word3 fun x y z => BitVec.ofNat 32 (x.toNat * y.toNat + z.toNat))
    ∧ Computes (.madw d a b c) s (s.formF d a b c true true true)
        (fun _ xs => { val := BitVec.ofInt 64 ((src32 xs 0).toInt * (src32 xs 1).toInt + (src64 xs 2).toInt) })
    ∧ Computes (.madwN d a b c) s (s.formF d a b c true true true)
        (fun _ xs => { val := BitVec.ofNat 64 ((src32 xs 0).toNat * (src32 xs 1).toNat + (src64 xs 2).toNat) })
    ∧ Computes (.dp4a d a b c) s (s.formF d a b c false false true (hl := false))
        (word3 fun x y z => BitVec.ofInt 32 (z.toInt + bytes x y BitVec.toInt))
    ∧ Computes (.dp4aN d a b c) s (s.formF d a b c false false true (hl := false))
        (word3 fun x y z => BitVec.ofInt 32 (z.toInt + bytes x y fun v => v.toNat))

/-- R131-R134, R140: floating-point arithmetic on f32, f64 and f16x2, in the rounding mode in force; each operation decodes its
operands exactly and rounds once, and its flags enter the thread's sr.fflags. FABS and FNEG act on the sign bit alone. The
fused multiply-adds are each rounded once.
Where those rules leave a choice, the model's own stands: notes/assumptions 42. -/
def Obligations.FloatArithmetic : Prop :=
  (∀ (s : State) (d : Dest) (a b : Src) (g : PredIx),
     let rm := s.roundIn .rn
     let one := formFp true g d false [r32 a]
     let two := formFp true g d false [r32 a, r32 b]
     let oneW := formFp true g d true [r64 a]
     let twoW := formFp true g d true [r64 a, r64 b]
     let packed := formFp false g d false [r32 a, r32 b]
     let f1 (f : Nat → FRes) (_ : Thread) (xs : List DWord) : LaneOut := (f (src32 xs 0).toNat).out
     let f2 (f : Nat → Nat → FRes) (_ : Thread) (xs : List DWord) : LaneOut := (f (src32 xs 0).toNat (src32 xs 1).toNat).out
     let w1 (f : Nat → FRes) (_ : Thread) (xs : List DWord) : LaneOut := (f (src64 xs 0).toNat).out
     let w2 (f : Nat → Nat → FRes) (_ : Thread) (xs : List DWord) : LaneOut := (f (src64 xs 0).toNat (src64 xs 1).toNat).out
     let h2 (f : Nat → Nat → FRes) (_ : Thread) (xs : List DWord) : LaneOut :=
       let lo := f ((src32 xs 0).toNat % 2 ^ 16) ((src32 xs 1).toNat % 2 ^ 16)
       let hi := f ((src32 xs 0).toNat / 2 ^ 16) ((src32 xs 1).toNat / 2 ^ 16)
       { val := BitVec.ofNat 64 (lo.bits + hi.bits * 2 ^ 16), flags := lo.flags ||| hi.flags }
     Computes (.fadd d a b g) s two (f2 fun x y => fmt32.add rm (fmt32.decode x) (fmt32.decode y))
     ∧ Computes (.fsub d a b g) s two (f2 fun x y => fmt32.add rm (fmt32.decode x) (fmt32.decode y).negate)
     ∧ Computes (.fmul d a b g) s two (f2 fun x y => fmt32.mul rm (fmt32.decode x) (fmt32.decode y))
     ∧ Computes (.fmin d a b g) s two (f2 fun x y => fmt32.minMax false x y)
     ∧ Computes (.fmax d a b g) s two (f2 fun x y => fmt32.minMax true x y)
     ∧ Computes (.fabs d a g) s one (word1 fun x => x &&& 0x7FFFFFFF)
     ∧ Computes (.fneg d a g) s one (word1 fun x => x ^^^ 0x80000000)
     ∧ Computes (.frnd d a g) s one (f1 fun x => fmt32.rint rm (fmt32.decode x))
     ∧ Computes (.fscale d a b g) s two
         (fun _ xs => (fmt32.scale rm (fmt32.decode (src32 xs 0).toNat) (src32 xs 1).toInt).out)
     ∧ Computes (.faddF64 d a b g) s twoW (w2 fun x y => fmt64.add rm (fmt64.decode x) (fmt64.decode y))
     ∧ Computes (.fsubF64 d a b g) s twoW (w2 fun x y => fmt64.add rm (fmt64.decode x) (fmt64.decode y).negate)
     ∧ Computes (.fmulF64 d a b g) s twoW (w2 fun x y => fmt64.mul rm (fmt64.decode x) (fmt64.decode y))
     ∧ Computes (.fminF64 d a b g) s twoW (w2 fun x y => fmt64.minMax false x y)
     ∧ Computes (.fmaxF64 d a b g) s twoW (w2 fun x y => fmt64.minMax true x y)
     ∧ Computes (.fabsF64 d a g) s oneW (fun _ xs => { val := src64 xs 0 &&& 0x7FFFFFFFFFFFFFFF })
     ∧ Computes (.fnegF64 d a g) s oneW (fun _ xs => { val := src64 xs 0 ^^^ 0x8000000000000000 })
     ∧ Computes (.frndF64 d a g) s oneW (w1 fun x => fmt64.rint rm (fmt64.decode x))
     ∧ Computes (.fscaleF64 d a b g) s (formFp true g d true [r64 a, r32 b])
         (fun _ xs => (fmt64.scale rm (fmt64.decode (src64 xs 0).toNat) (src32 xs 1).toInt).out)
     ∧ Computes (.pfaddF16x2 d a b g) s packed (h2 fun x y => fmt16.add rm (fmt16.decode x) (fmt16.decode y))
     ∧ Computes (.pfsubF16x2 d a b g) s packed (h2 fun x y => fmt16.add rm (fmt16.decode x) (fmt16.decode y).negate)
     ∧ Computes (.pfmulF16x2 d a b g) s packed (h2 fun x y => fmt16.mul rm (fmt16.decode x) (fmt16.decode y))
     ∧ Computes (.pfminF16x2 d a b g) s packed (h2 fun x y => fmt16.minMax false x y)
     ∧ Computes (.pfmaxF16x2 d a b g) s packed (h2 fun x y => fmt16.minMax true x y))
  ∧ (∀ (s : State) (d : Dest) (a b : Src) (c : Src3),
       let rm := s.roundIn .rn
       let fma (f : Format) (x y z : Nat) : FRes := f.fma rm (f.decode x) (f.decode y) (f.decode z)
       Computes (.fmaF32 d a b c) s (s.formFma true d a b c false)
         (fun _ xs => (fma fmt32 (src32 xs 0).toNat (src32 xs 1).toNat (src32 xs 2).toNat).out)
       ∧ Computes (.fmaF64 d a b c) s (s.formFma true d a b c true)
           (fun _ xs => (fma fmt64 (src64 xs 0).toNat (src64 xs 1).toNat (src64 xs 2).toNat).out)
       ∧ Computes (.pfmaF16x2 d a b c) s (s.formFma false d a b c false)
           (fun _ xs =>
             let e (i : Nat) : FRes := fma fmt16 ((src32 xs 0).toNat / 2 ^ (16 * i) % 2 ^ 16)
               ((src32 xs 1).toNat / 2 ^ (16 * i) % 2 ^ 16) ((src32 xs 2).toNat / 2 ^ (16 * i) % 2 ^ 16)
             { val := BitVec.ofNat 64 ((e 0).bits + (e 1).bits * 2 ^ 16), flags := (e 0).flags ||| (e 1).flags }))

/-- R138, R139: the special functions of major 0x14, rounded once in the mode in force; the headland does not execute them.
Their special cases in every rounding mode: zeros, infinities, NaNs and negative arguments, with the flags they raise.
Where those rules leave a choice, the model's own stands: notes/assumptions 44. -/
def Obligations.SpecialFunctions : Prop :=
  (∀ (s : State) (d : Dest) (a b : Src) (g : PredIx),
     let rm := s.roundIn .rn
     let one := formFp false g d false [r32 a]
     let f1 (f : FNum → FRes) (_ : Thread) (xs : List DWord) : LaneOut := (f (fmt32.decode (src32 xs 0).toNat)).out
     Computes (.fdiv d a b g) s (formFp false g d false [r32 a, r32 b])
       (fun _ xs => (fmt32.div rm (fmt32.decode (src32 xs 0).toNat) (fmt32.decode (src32 xs 1).toNat)).out)
     ∧ Computes (.fdivF64 d a b g) s (formFp false g d true [r64 a, r64 b])
         (fun _ xs => (fmt64.div rm (fmt64.decode (src64 xs 0).toNat) (fmt64.decode (src64 xs 1).toNat)).out)
     ∧ Computes (.fsqrt d a g) s one (f1 (fmt32.sqrt rm))
     ∧ Computes (.fsqrtF64 d a g) s (formFp false g d true [r64 a])
         (fun _ xs => (fmt64.sqrt rm (fmt64.decode (src64 xs 0).toNat)).out)
     ∧ Computes (.frcp d a g) s one (f1 (fmt32.div rm (.fin false 1 0)))
     ∧ Computes (.frsq d a g) s one (f1 (fmt32.rsqrt rm))
     ∧ Computes (.fexp2 d a g) s one (f1 (fmt32.exp2 rm))
     ∧ Computes (.flog2 d a g) s one (f1 (fmt32.log2 rm))
     ∧ Computes (.fsin d a g) s one (f1 (fmt32.sinPi rm))
     ∧ Computes (.fcos d a g) s one (f1 (fmt32.cosPi rm)))
  ∧ (∀ (rm : RM) (n n' sig : Bool) (m m' : Nat) (e e' : Int), m ≠ 0 → m' ≠ 0 →
       let x : FNum := .fin n m e
       let zero (n : Bool) : FNum := .fin n 0 e'
       let qnan : Nat := 0x7FC00000
       fmt32.div rm x (zero n') = ⟨fmt32.infBits (n != n'), flagDZ⟩
       ∧ fmt32.div rm (zero n) (zero n') = ⟨qnan, flagNV⟩
       ∧ fmt32.div rm (.inf n) (.inf n') = ⟨qnan, flagNV⟩
       ∧ fmt32.div rm x (.inf n') = ⟨fmt32.zeroBits (n != n'), 0⟩
       ∧ fmt32.div rm (.fin false 1 0) (zero n) = ⟨fmt32.infBits n, flagDZ⟩
       ∧ fmt32.div rm (.fin false 1 0) (.inf n) = ⟨fmt32.zeroBits n, 0⟩
       ∧ fmt32.sqrt rm (zero n) = ⟨fmt32.zeroBits n, 0⟩
       ∧ fmt32.sqrt rm (.fin true m e) = ⟨qnan, flagNV⟩
       ∧ fmt32.sqrt rm (.inf true) = ⟨qnan, flagNV⟩
       ∧ fmt32.sqrt rm (.inf false) = ⟨fmt32.infBits false, 0⟩
       ∧ fmt32.rsqrt rm (zero n) = ⟨fmt32.infBits n, flagDZ⟩
       ∧ fmt32.rsqrt rm (.fin true m e) = ⟨qnan, flagNV⟩
       ∧ fmt32.rsqrt rm (.inf false) = ⟨0, 0⟩
       ∧ fmt32.exp2 rm (zero n) = ⟨0x3F800000, 0⟩
       ∧ fmt32.exp2 rm (.inf n) = ⟨if n then 0 else fmt32.infBits false, 0⟩
       ∧ fmt32.log2 rm (zero n) = ⟨fmt32.infBits true, flagDZ⟩
       ∧ fmt32.log2 rm (.fin true m e) = ⟨qnan, flagNV⟩
       ∧ fmt32.log2 rm (.inf false) = ⟨fmt32.infBits false, 0⟩
       ∧ fmt32.sinPi rm (zero n) = ⟨fmt32.zeroBits n, 0⟩
       ∧ fmt32.sinPi rm (.inf n) = ⟨qnan, flagNV⟩
       ∧ fmt32.cosPi rm (zero n) = ⟨0x3F800000, 0⟩
       ∧ fmt32.cosPi rm (.inf n) = ⟨qnan, flagNV⟩
       ∧ (∀ f ∈ [fmt32.sqrt rm, fmt32.rsqrt rm, fmt32.exp2 rm, fmt32.log2 rm, fmt32.sinPi rm, fmt32.cosPi rm],
           f (.nan sig) = ⟨qnan, if sig then flagNV else 0⟩))

/-- R142, R143, R145, R147: conversions, PACK8, UNPACK8 and CBDEC. CVTI rounds towards zero by default, clamps, and sets SAT
where it clamped. PACK8 keeps the half of its destination that it does not write. That a clamp into fk8 leaves the saturation
bit alone is the model's reading: notes/assumptions 43. -/
def Obligations.Conversions : Prop :=
  ∀ (s : State) (d : Dest) (a : Src) (f t : FFmt) (fi ti : IFmt) (m : CbMode) (w k h : Bool) (g : PredIx),
    Computes (.cvt d a f t g) s (formFp true g d (decide (t = .f64)) [rW (decide (f = .f64)) a])
      (fun _ xs => (toFloat t (s.roundIn .rn) (readFloat f (src64 xs 0))).out)
    ∧ Computes (.cvti d a f ti g) s (formFp true g d (decide (ti = .i64 ∨ ti = .n64)) [rW (decide (f = .f64)) a])
        (fun _ xs =>
          let r := toInteger ti (s.roundIn .rz) (readFloat f (src64 xs 0))
          { val := BitVec.ofInt 64 r.1, flags := r.2.1, sat := r.2.2 })
    ∧ Computes (.cvtf d a fi t g) s (formFp true g d (decide (t = .f64)) [rW (decide (fi = .i64 ∨ fi = .n64)) a])
        (fun _ xs => (toFloat t (s.roundIn .rn) (FNum.ofInt (readInt fi (src64 xs 0)))).out)
    ∧ Computes (.pack8 d a w k h g) s { formFp false g d false [rW w a, r32 ⟨false, false, d.ix⟩] with bad := d.cls }
        (fun _ xs =>
          let fmt := if w then fmt32 else fmt16
          let n := if w then 32 else 16
          let k8 := if k then fk8b else fk8a
          let e (i : Nat) : FRes := k8.ofNum (s.roundIn .rn) (fmt.decode ((src64 xs 0).toNat / 2 ^ (n * i) % 2 ^ n))
          { val := (ofHalves fun i =>
              if i = (if h then 1 else 0) then BitVec.ofNat 8 (e 1).bits ++ BitVec.ofNat 8 (e 0).bits
              else (src32 xs 1).extractLsb' (16 * i) 16).zeroExtend 64
            flags := (e 0).flags ||| (e 1).flags })
    ∧ Computes (.unpack8 d a w k h g) s (formFp false g d w [r32 a])
        (fun _ xs =>
          let fmt := if w then fmt32 else fmt16
          let n := if w then 32 else 16
          let k8 := if k then fk8b else fk8a
          let e (i : Nat) : Nat := (fmt.ofNum .rn (k8.decode (byteAt (src32 xs 0) (i + if h then 2 else 0)).toNat)).bits
          { val := BitVec.ofNat 64 (e 0 + e 1 * 2 ^ n) })
    ∧ Computes (.cbdec d a m g) s (formFp false g d (match m with | .f32x2 _ => true | _ => false) [r64 a])
        (fun _ xs =>
          let lo := ((src64 xs 0).extractLsb' 0 32 : Word).toNat
          let hi := ((src64 xs 0).extractLsb' 32 32 : Word).toNat
          let pair (fmt : Format) (n : Nat) (j : BitVec 2) : LaneOut :=
            let e (i : Nat) : FRes := cb4Element fmt (s.roundIn .rn) (lo / 2 ^ (4 * (2 * j.toNat + i)) % 16) hi
            { val := BitVec.ofNat 64 ((e 0).bits + (e 1).bits * 2 ^ n), flags := (e 0).flags ||| (e 1).flags }
          match m with
          | .bs => (blockScale lo (hi % 256)).out
          | .f16x2 j => pair fmt16 16 j
          | .f32x2 j => pair fmt32 32 j)

/-- R236, R237, R238: VOTE, BALLOT, ELECT and MATCH over the members that the masks name; a member that is absent counts as
the operation's identity and raises AM in every active lane. Where the masks of the active lanes are illegal, every form
traps with cause 0x07, and LANES holds every active lane. -/
def Obligations.VotesAndMatches : Prop :=
  (∀ (s : State) (d : Dest) (p q : PredIx) (a b : Src) (g : PredIx) (m : BitVec 64) (absent : Bool),
     let toPred : Form := { service := false, helperBad := true, g := g, srcs := [r64 b], pred := some p }
     let toPair : Form := { service := false, helperBad := true, g := g, srcs := [r64 b], dest := some (d, true) }
     let toWord : Form := { service := false, helperBad := true, g := g, srcs := [r64 b], dest := some (d, false) }
     let pairs : Form := { service := false, helperBad := true, g := g, srcs := [r32 a, r64 b], dest := some (d, true) }
     let holds (l : Lane) : Bool := (s.thread l.ref).pred q
     let present (act : List Lane) : List Lane := act.filter fun l => m.getLsbD l.ix
     let value (f : Form) (r : ThreadRef) : Word := src32 (s.srcsOf f r) 0
     let votes (i : Instr) (f : Form) (at_ : Nat) (fn : List Lane → ThreadRef → LaneOut) : Prop :=
       ∀ act, Issues s f act → Roomy s f act (fn act) →
         s.members act (act.map fun l => (s.srcsOf f l.ref).getD at_ 0) = some (m, absent) →
         ∃ t, exec i s = .next t ∧ Delivers s t f act (fn act) fun _ => absent
     votes (.voteOr p q b g) toPred 0 (fun act _ => { pred := (present act).any holds })
     ∧ votes (.voteAnd p q b g) toPred 0 (fun act _ => { pred := (present act).all holds })
     ∧ votes (.voteEq p q b g) toPred 0 (fun act _ => { pred := (present act).all holds || (present act).all fun l => !holds l })
     ∧ votes (.ballot d q b g) toPair 0 (fun act _ => { val := laneMask ((present act).filter holds) })
     ∧ votes (.elect p b g) toPred 0 (fun act r => { pred := decide ((present act).head?.map (·.ix) = some (laneIx act r)) })
     ∧ votes (.matchL d a b g) pairs 1
         (fun act r => { val := laneMask ((present act).filter fun l => decide (value pairs l.ref = value pairs r)) })
     ∧ votes (.voteCnt d q b g) toWord 0 (fun act _ => { val := BitVec.ofNat 64 ((present act).filter holds).length }))
  ∧ (∀ (s : State) (p q : PredIx) (b : Src) (g : PredIx) (act : List Lane),
       let f : Form := { service := false, helperBad := true, g := g, srcs := [r64 b], pred := some p }
       Issues s f act → s.members act (act.map fun l => (s.srcsOf f l.ref).getD 0 0) = none →
         exec (.voteOr p q b g) s = .next ((s.noteGuard g).raiseCause act 0x07)
         ∧ exec (.voteAnd p q b g) s = .next ((s.noteGuard g).raiseCause act 0x07)
         ∧ exec (.voteEq p q b g) s = .next ((s.noteGuard g).raiseCause act 0x07)
         ∧ exec (.elect p b g) s = .next ((s.noteGuard g).raiseCause act 0x07))
  ∧ (∀ (s : State) (d : Dest) (q : PredIx) (a b : Src) (g : PredIx) (act : List Lane),
       let counts (wide : Bool) : Form :=
         { service := false, helperBad := true, g := g, srcs := [r64 b], dest := some (d, wide) }
       let pairs : Form := { service := false, helperBad := true, g := g, srcs := [r32 a, r64 b], dest := some (d, true) }
       let trapsOf (i : Instr) (f : Form) (at_ : Nat) : Prop :=
         Issues s f act → s.members act (act.map fun l => (s.srcsOf f l.ref).getD at_ 0) = none →
           exec i s = .next ((s.noteGuard g).raiseCause act 0x07)
       trapsOf (.ballot d q b g) (counts true) 0 ∧ trapsOf (.voteCnt d q b g) (counts false) 0
       ∧ trapsOf (.matchL d a b g) pairs 1)

/-- R240, R241: the shuffles. A source lane within the group that is not active is absent: the lane keeps its own value
and AM is set in its thread. -/
def Obligations.Shuffles : Prop :=
  ∀ (s : State) (d : Dest) (a b : Src) (g : PredIx),
    let f : Form := { service := false, helperBad := true, g := g, srcs := [r32 a, r32 b], dest := some (d, false) }
    let w := s.groupWidth
    let own (r : ThreadRef) : DWord := (s.srcsOf f r).getD 0 0
    let n (r : ThreadRef) : Nat := (src32 (s.srcsOf f r) 1).toNat
    let shuffles (i : Instr) (from_ : Nat → Nat → Option Nat) : Prop :=
      Shares i s f
        (fun act r => { val := match (from_ (laneIx act r) (n r)).bind fun j => act.find? fun y => decide (y.ix = j) with
          | some y => own y.ref
          | none => own r })
        (fun act r => match from_ (laneIx act r) (n r) with
          | some j => (act.find? fun y => decide (y.ix = j)).isNone
          | none => false)
    shuffles (.shflIdx d a b g) (fun _ n => some (n % w))
    ∧ shuffles (.shflUp d a b g) (fun l n => if l < n then none else some (l - n))
    ∧ shuffles (.shflDn d a b g) (fun l n => if w ≤ l + n then none else some (l + n))
    ∧ shuffles (.shflXor d a b g) (fun l n => some (l ^^^ (n &&& (w - 1))))

/-- R240, R242: reductions and scans over the active lanes in the order of their numbers. -/
def Obligations.ReductionsAndScans : Prop :=
  ∀ (s : State) (d : Dest) (a : Src) (g : PredIx),
    let f : Form := { service := false, helperBad := true, g := g, srcs := [r32 a], dest := some (d, false) }
    let value (l : Lane) : Word := src32 (s.srcsOf f l.ref) 0
    let total (act : List Lane) : Nat := (act.map fun l => (value l).toNat).sum
    let reduces (i : Instr) (fn : Word → Word → Word) : Prop :=
      Shares i s f fun act _ => { val := match act with
        | l :: ls => (ls.foldl (fun acc y => fn acc (value y)) (value l)).zeroExtend 64
        | [] => 0 }
    reduces (.redgMin d a g) (fun x y => BitVec.ofInt 32 (min x.toInt y.toInt))
    ∧ reduces (.redgMinN d a g) (fun x y => BitVec.ofNat 32 (min x.toNat y.toNat))
    ∧ reduces (.redgMax d a g) (fun x y => BitVec.ofInt 32 (max x.toInt y.toInt))
    ∧ reduces (.redgMaxN d a g) (fun x y => BitVec.ofNat 32 (max x.toNat y.toNat))
    ∧ reduces (.redgAnd d a g) (· &&& ·)
    ∧ reduces (.redgOr d a g) (· ||| ·)
    ∧ reduces (.redgXor d a g) (· ^^^ ·)
    ∧ Shares (.redgAdd d a g) s f (fun act _ => { val := (BitVec.ofNat 32 (total act)).zeroExtend 64 })
    ∧ Shares (.redgFadd d a g) s f (fun act _ => (groupSum (act.map fun l => (value l).toNat)).out)
    ∧ Shares (.scangAdd d a g) s f
        (fun act r => { val := (BitVec.ofNat 32 (total (act.filter fun l => decide (l.ix ≤ laneIx act r)))).zeroExtend 64 })
    ∧ Shares (.scangAddx d a g) s f
        (fun act r => { val := (BitVec.ofNat 32 (total (act.filter fun l => decide (l.ix < laneIx act r)))).zeroExtend 64 })


/-! ### Issue, hints, control -/

/-- R57, R58, R60-R62: an instruction that has read its sources and passed: the contexts of its gang stand past it and its
hint words, entries are popped, and nothing else has changed. A hint word joins the hint run of its gang and, but for what
every issue leaves with its group or headland, changes nothing else; the run notes a kind that came twice.
Where those rules leave a choice, the model's own stands: notes/assumptions 36. -/
def Obligations.PassingAndHintWords : Prop :=
  (∀ (s : State) (f : Form) (act : List Lane), (act.map (·.ref)).Nodup → Passes s (s.finish f act) f act)
  ∧ (∀ (s : State) (i : BitVec 22) (g : PredIx) (r o : BitVec 3) (sc p : BitVec 2) (c u k : Bool) (z : BitVec 10) (dist : BitVec 6)
       (z' : BitVec 13),
       let joins (w : Instr) (f : HintRun → HintRun) : Prop := ∃ t, exec w s = .next t
         ∧ (∀ x ∈ s.gang s.cur, (t.ctx x).run = { f (s.ctx x).run with len := (s.ctx x).run.len + 1 }
           ∧ (t.ctx x).pc = (s.ctx x).pc ∧ (t.ctx x).m = (s.ctx x).m ∧ (t.ctx x).stack = (s.ctx x).stack ∧ (t.ctx x).wait = none)
         ∧ (∀ x, x ∉ s.gang s.cur → t.ctx x = s.ctx x)
         ∧ { t with ctxs := s.ctxs, groups := s.groups, teams := s.teams } = s
         ∧ (∀ tk gid, { t.group tk gid with
              wdog := (s.group tk gid).wdog, tagTimer := (s.group tk gid).tagTimer, saved := (s.group tk gid).saved } = s.group tk gid)
         ∧ ∀ tk, { t.team tk with hWdog := (s.team tk).hWdog, hTagTimer := (s.team tk).hTagTimer } = s.team tk
       joins (.limm i) (fun x => { x with limm := some i, twice := x.twice || x.limm.isSome })
       ∧ joins (.pfx g r o sc c u z) (fun x => { x with pfx := some ⟨g, r, o, sc, c, u, z⟩, twice := x.twice || x.pfx.isSome })
       ∧ joins (.sch p k dist z') (fun x => { x with sch := some ⟨p, k, dist⟩, twice := x.twice || x.sch.isSome }))

/-- R29, R71: the checks of an instruction word in their order, on an instruction of each family, and of a word that is no
instruction (R72). With no active lane an instruction of any family retires at once. That RTE and RCLM in a headland are refused
as 0x01, before their privilege is looked at, is the model's reading: notes/assumptions 12.
Where those rules leave a choice, the model's own stands: notes/assumptions 13, 20 and 38. -/
def Obligations.ChecksInOrder : Prop :=
  (∀ (s : State) (d : Dest) (a b : Src) (g p q : PredIx) (o : BitVec 9) (k : Cond) (n : BitVec 4) (x : BitVec 14) (w : Word),
     Refuses (.add d a b g) s (formA g d false [r32 a, r32 b])
     ∧ Refuses (.cmp k p a b g) s { headland := true, g := g, srcs := [r32 a, r32 b], pred := some p }
     ∧ Refuses (.fadd d a b g) s (formFp true g d false [r32 a, r32 b])
     ∧ Refuses (.voteOr p q b g) s { service := false, helperBad := true, g := g, srcs := [r64 b], pred := some p }
     ∧ Refuses (.ld d a o .n32) s { formM a [1] true with dest := some (d, false), bad := d.cls }
     ∧ Refuses (.barSyn n) s (formBar true [])
     ∧ Refuses (.sysc x) s { headland := true, pfxG := true }
     ∧ Refuses .rte s { priv := true, pfxG := true }
     ∧ Refuses (.rclm d a b) s { priv := true, pfxG := true, cpopIsHint := true, srcs := [r64 a, r32 b]
                                 dest := some (d, false), bad := d.cls || a.cls }
     ∧ Refuses (.mxCfg a) s (formMx [r64 a])
     ∧ (∀ act, act ≠ [] → (match illegalGuard s.cctx.run w with
           | some g => s.active s.cur g
           | none => s.lanes s.cur) = act → exec (.illegalEncoding w) s = .next (s.raiseCause act 0x01)))
  ∧ (∀ (s : State) (d : Dest) (a b : Src) (g p q : PredIx) (o : BitVec 9) (k : Cond) (n : BitVec 4) (n2 : BitVec 2) (x : BitVec 14),
       Skips (.add d a b g) s (formA g d false [r32 a, r32 b])
       ∧ Skips (.cmp k p a b g) s { headland := true, g := g, srcs := [r32 a, r32 b], pred := some p }
       ∧ Skips (.fadd d a b g) s (formFp true g d false [r32 a, r32 b])
       ∧ Skips (.voteOr p q b g) s { service := false, helperBad := true, g := g, srcs := [r64 b], pred := some p }
       ∧ Skips (.ld d a o .n32) s { formM a [1] true with dest := some (d, false), bad := d.cls }
       ∧ Skips (.brk g 0 0) s { limm := true, g := g }
       ∧ Skips (.barSyn n) s (formBar true [])
       ∧ Skips (.append n2 a b) s { formWork a with
           bad := b.cls || b.pop || decide (b.ix.toNat % itemWords n2 ≠ 0) || decide (32 < b.ix.toNat + itemWords n2) }
       ∧ Skips (.cpy n2 a) s (formEngine a true)
       ∧ Skips (.sysc x) s { headland := true, pfxG := true }
       ∧ Skips .rte s { priv := true, pfxG := true }
       ∧ Skips (.mxCfg a) s (formMx [r64 a]))

/-- R164, R165, R167: BRA, BRC, CALL, JOIN and BRK. A quad goes on behind the instruction but for the lanes that branch:
BRA branches where the predicate is true in every running lane, BRC and CALL push a path for the lanes that branch while
others go on, JOIN pushes a token, BRK takes lanes out of tokens. CALL leaves the return address in pair 30, and first writes
back the operand regions that it ends (R24, R159): uncorrectable data in a dirty word traps with cause 0x09.
Where those rules leave a choice, the model's own stands: branch targets wrap modulo 2^60 (notes/assumptions 45), and what a
write-back reads (notes/assumptions 108). -/
def Obligations.BranchesAndJoins : Prop :=
  ∀ (s : State) (g : PredIx) (o : BitVec 21) (o' : BitVec 17) (n : BitVec 3),
    Branches (.bra g o) s { headland := true, limm := true } (fun p _ =>
        if ∀ l ∈ s.ctxLanes p, (s.thread l.ref).pred g = true then { s.nextPath p with pc := s.targetAt o } else s.nextPath p)
    ∧ Branches (.brc g o) s { limm := true } (fun p _ => s.takenPath (s.targetAt o) (s.trueLanes p g) p)
    ∧ Branches (.join o) s { limm := true } (fun p _ => s.joinPath (s.targetAt o) p)
    ∧ Branches (.brk g o' n) s { limm := true, g := g } (fun p a => s.brokenPath (s.targetAt o') (n.toNat + 1) a p)
    ∧ (∀ act,
        let f : Form := { headland := true, limm := true, g := g }
        let path (p : Party) : Move := s.takenPath (s.targetAt o) (s.quadActive p act) p
        Issues s f act →
          (s.writesBack act → s.stacksFit path → ∃ t, exec (.call g o) s = .next t
            ∧ Moves s t f act path (fun r i => r ∈ act.map (·.ref) ∧ i ∈ destWords r (s.thread r) ⟨false, 30⟩ true)
            ∧ ((∀ p ∈ s.gang s.cur, 4 ≤ s.spillWord p 0) →
                ∀ l ∈ act, slot64 l.ref (t.thread l.ref) 30 = ((s.ctx s.cur).fetchPc + 4).zeroExtend 64))
          ∧ StopsWritingBack (.call g o) s f act)

/-- R162, R165, R166: RET and JMPR leave each active lane in a path of its target, one path for each target; the others go on.
A target that is misaligned traps with cause 0x04; where none is, one that is not canonical traps with cause 0x06. A RET,
JMPR, BRC, JOIN, BRK or CALL whose stack would grow past its limit traps with cause 0x0E in the active lanes of the quads that
it fails in, and pushes nothing. RET and CALL first write back the operand regions that they end (R24, R159).
Where those rules leave a choice, the model's own stands: notes/assumptions 45 and 108. -/
def Obligations.ReturnsJumpsAndStackLimit : Prop :=
  (∀ (s : State) (g : PredIx) (a : Src) (act : List Lane),
     let f : Form := { headland := true, g := g, srcs := [r64 a] }
     let target (l : Lane) : DWord := (s.srcsOf f l.ref).getD 0 0
     let path : Party → Move := s.spreadPath act target
     Issues s f act →
       ((∀ l ∈ act, (target l).toNat % 4 = 0 ∧ (target l).toNat < 2 ^ 60) →
         (s.stacksFit path →
           (s.writesBack act → ∃ t, exec (.ret g a) s = .next t ∧ Moves s t f act path)
           ∧ ∃ t, exec (.jmpr g a) s = .next t ∧ Moves s t f act path)
         ∧ (¬s.stacksFit path →
           (s.writesBack act →
             exec (.ret g a) s = .next (((s.begun f).regionsClean act).raiseCause (s.overfull act path) 0x0E))
           ∧ exec (.jmpr g a) s = .next ((s.begun f).raiseCause (s.overfull act path) 0x0E))
         ∧ StopsWritingBack (.ret g a) s f act)
       ∧ (∀ l ls, (∀ l ∈ act, (target l).toNat % 4 = 0) →
           (act.filter fun l => decide (2 ^ 60 ≤ (target l).toNat)) = l :: ls →
           let t : Trap := { cause := 0x06, lanes := l :: ls, addr := (target l).toNat, aux := 1 }
           exec (.ret g a) s = .next ((s.begun f).raise t) ∧ exec (.jmpr g a) s = .next ((s.begun f).raise t))
       ∧ (∀ l ls, (act.filter fun l => decide ((target l).toNat % 4 ≠ 0)) = l :: ls →
           let t : Trap := { cause := 0x04, lanes := l :: ls, addr := (target l).toNat }
           exec (.ret g a) s = .next ((s.begun f).raise t) ∧ exec (.jmpr g a) s = .next ((s.begun f).raise t)))
  ∧ (∀ (s : State) (g : PredIx) (o : BitVec 21) (o' : BitVec 17) (n : BitVec 3),
       Overflows (.brc g o) s { limm := true } (fun p _ => s.takenPath (s.targetAt o) (s.trueLanes p g) p)
       ∧ Overflows (.join o) s { limm := true } (fun p _ => s.joinPath (s.targetAt o) p)
       ∧ Overflows (.brk g o' n) s { limm := true, g := g } (fun p a => s.brokenPath (s.targetAt o') (n.toNat + 1) a p)
       ∧ (∀ act,
           let f : Form := { headland := true, limm := true, g := g }
           let path (p : Party) : Move := s.takenPath (s.targetAt o) (s.quadActive p act) p
           Issues s f act → s.writesBack act → ¬s.stacksFit path →
             exec (.call g o) s = .next (((s.begun f).regionsClean act).raiseCause (s.overfull act path) 0x0E)))

/-- R165, R195, R332, R342: EXIT ends the active threads of a group: their streams and leases are gone, their lanes leave the
mask and every entry of their quads. A thread whose recruitment is open traps with cause 0x10; uncorrectable data in a dirty
word of the operand regions that end here traps with cause 0x09 (R24, R159).
Where those rules leave a choice, the model's own stands: notes/assumptions 59 and 108. -/
def Obligations.Exit : Prop :=
  ∀ (s : State) (g : PredIx) (act : List Lane) (tk gid q : Nat),
    let f : Form := { headland := true, g := g }
    Issues s f act → s.cur = .gang tk gid q →
      ((∀ l ∈ act, s.recruitOf l = none) → s.writesBack act → (∀ p ∈ s.gang s.cur, (s.fullStack p).length ≤ 8) →
        ∃ t, exec (.exit g) s = .next t
          ∧ (∀ l ∈ act, (t.thread l.ref).live = false ∧ (t.thread l.ref).streams = [] ∧ (t.thread l.ref).hr = []
              ∧ (t.thread l.ref).lease = none)
          ∧ (∀ p ∈ s.gang s.cur, (t.ctx p).m = (s.ctx p).m &&& ~~~(s.quadActive p act)
              ∧ (t.ctx p).stack.map (·.mask) = (s.fullStack p).map (fun e => e.mask &&& ~~~(s.quadActive p act))
              ∧ (t.ctx p).stack.map (·.pc) = (s.fullStack p).map (·.pc))
          ∧ (∀ p, p ∉ s.gang s.cur → (t.ctx p).m = (s.ctx p).m ∧ (t.ctx p).stack = (s.ctx p).stack)
          ∧ (∀ r i, (t.thread r).word i = (s.thread r).word i) ∧ t.mem = s.mem)
      ∧ ((∀ l ∈ act, s.recruitOf l = none) → StopsWritingBack (.exit g) s f act)
      ∧ (∀ l ls, act.filter (fun l => (s.recruitOf l).isSome) = l :: ls →
          exec (.exit g) s = .next ((s.begun f).raiseCause (l :: ls) 0x10))

/-! ### Loads and stores -/

/-- R154, R155, R363, R365-R368, R388, R389: translating and checking accesses changes translations, the miss tables and what a
walker repairs, and nothing else; outside the page tables no byte of memory changes. The bytes that a lane's load reads are
those of memory, little-endian, where every word is registered to the reader, or valid with no copy of it outside its home
slice and no other request ahead there, and the reader's queue holds no undrained store or atomic; the memory is as it was.
Where those rules leave a choice, the model's own stands: notes/assumptions 7, 10, 14 and 31. -/
def Obligations.LoadsFromMemory : Prop :=
  (∀ (s : State) (p : Party) (k : Access) (n : Nat) (lv : List LaneVa),
     let t := (s.checkAll p k n lv).1
     (Memory.wf s.mem = true → ∀ a, ¬s.tableByte a → mget a t.mem = mget a s.mem)
     ∧ (∀ a, { t.cmem a with tlb := (s.cmem a).tlb } = s.cmem a)
     ∧ SameSpecial s t
     ∧ { t with mem := s.mem, poison := s.poison, coreMem := s.coreMem, clusters := s.clusters, dies := s.dies } = s)
  ∧ (∀ (s : State) (p : Party) (x : LoadPart),
       let o := s.ownerOf p
       let agent := s.agentOf p
       x.size ∈ [1, 2, 4, 8] → x.size ∣ x.pa → (s.cmem agent).ebb = [] →
       (∀ w, w % 4 = 0 → w < x.pa + x.size → x.pa < w + 4 → s.target w = .mem) → s.target x.pa = .mem →
       (∀ w, w % 4 = 0 → w < x.pa % 2 ^ 44 + x.size → x.pa % 2 ^ 44 < w + 4 → s.ownsWord o w = true
         ∨ (s.wordSt w = none ∧ s.poisoned w = false ∧ s.contained w = false ∧ s.unasked w
             ∧ tget w (s.cmem agent).l1 = none ∧ ∀ d, nearDie agent = some d → tget w (s.die d).near = none)) →
       (s.loadPart p x).2 = .done (bytesNat (mgets (x.pa % 2 ^ 44) x.size s.mem)) ∧ (s.loadPart p x).1.mem = s.mem)

/-- R151, R152, R155, R156: LD and LDT, once every active lane's access has passed its checks and every answer is there, and
for an acquire every older load of the group has bound (R394): each lane's destination holds the bytes read, little-endian, as
the form converts them (R98, R99). The PC advances, no byte of memory and no special register changes.
Where those rules leave a choice, the model's own stands: notes/assumptions 7 and 20. -/
def Obligations.Loads : Prop :=
  ∀ (s : State) (d : Dest) (a : Src) (o : BitVec 9) (act : List Lane),
    let loads (i : Instr) (hl : Bool) (size : Nat) (wide : Bool) (conv : Nat → LaneOut) : Prop :=
      let f : Form := { formM a [1] hl with dest := some (d, wide), bad := d.cls }
      let b := s.begun f
      let c := b.checkAll b.cur .read size (act.map fun l => ⟨l, (s.srcsOf f l.ref).getD 0 0 + s.imm o⟩)
      let r := c.1.loadAll b.cur (partsOf size (passedOf c.2))
      Issues s f act → s.slow = false → (isAcq (s.ctx s.cur).run = true → s.olderBound) →
        (∀ x ∈ c.2, ∃ pa, x.2 = .ok pa) → (∀ x ∈ r.2, ∃ n, x.2 = .done n) →
        (∀ x ∈ r.2, ∀ n, x.2 = .done n → trapsOn (s.thread x.1.ref).fmask (conv n).flags = false) →
        ∃ t, exec i s = .next t ∧ Advances s t ∧ t.mem = c.1.mem ∧ SameSpecial s t
          ∧ (∀ x ∈ r.2, ∀ n, x.2 = .done n → destValue x.1.ref (t.thread x.1.ref) d wide = resultOf wide (conv n).val
              ∧ (t.thread x.1.ref).fflags = (s.thread x.1.ref).fflags ||| (conv n).flags)
          ∧ (∀ r i, (r ∈ act.map (·.ref) → i ∉ destWords r (s.thread r) d wide) → (t.thread r).word i = (s.thread r).word i)
          ∧ ∀ r q, (t.thread r).pred q = (s.thread r).pred q
    (∀ k, loads (.ld d a o k) true (ldSize k) (decide (k = .n64)) fun n =>
        { val := match k with
            | .i8 => ((BitVec.ofNat 8 n).signExtend 32).zeroExtend 64
            | .i16 => ((BitVec.ofNat 16 n).signExtend 32).zeroExtend 64
            | _ => BitVec.ofNat 64 n })
    ∧ ∀ k, loads (.ldt d a o k) false (tSize k) (tWide k) (ldtOut k)

/-- R157, R158, R316: LDM and STM of each word count. LDM, where every word is in reach and held by the reader: word i of a lane
goes to slot d + i, and nothing else changes. STM, admitted, with every word in reach and room for every entry: the words of
slots d, d + 1, … of each active lane enter the ebb queue, and no byte of memory changes before they drain.
Where those rules leave a choice, the model's own stands: notes/assumptions 25 and 53. -/
def Obligations.LoadAndStoreMultiple : Prop :=
  (∀ (s : State) (d : Dest) (a : Src) (o : BitVec 9) (n : MultiN) (act : List Lane),
     let f := formMulti d a (multiWords n) true
     let ea (l : Lane) (i : Nat) : DWord := (s.srcsOf f l.ref).getD 0 0 + s.imm o + BitVec.ofNat 64 (4 * i)
     Issues s f act → s.slow = false → (s.ctx s.cur).count = 0 → (s.cmem (s.agentOf s.cur)).ebb = [] →
     (∀ l ∈ act, ∀ i, i < multiWords n → (ea l i).toNat % 4 = 0 ∧ ∃ pa, s.reaches .read (ea l i) pa ∧ s.holdsWord pa) →
     ∃ t, exec (.ldm d a o n) s = .next t ∧ Advances s t ∧ t.mem = s.mem ∧ SameSpecial s t
       ∧ (∀ l ∈ act, ∀ i, i < multiWords n → ∀ pa, s.reaches .read (ea l i) pa →
           slot32 l.ref (t.thread l.ref) (d.ix.toNat + i) = mword (pa % 2 ^ 44) s.mem)
       ∧ ∀ r k, (r ∈ act.map (·.ref) → ∀ i, i < multiWords n → k ≠ slotWord r (s.thread r) (d.ix.toNat + i)) →
           (t.thread r).word k = (s.thread r).word k)
  ∧ (∀ (s : State) (d : Dest) (a : Src) (o : BitVec 9) (n : MultiN) (act : List Lane),
       let f := formMulti d a (multiWords n) false
       let agent := s.agentOf s.cur
       let ea (l : Lane) (i : Nat) : DWord := (s.srcsOf f l.ref).getD 0 0 + s.imm o + BitVec.ofNat 64 (4 * i)
       Issues s f act → (s.ctx s.cur).count = 0 → (s.cmem agent).ebb = [] → act.length * multiWords n ≤ 512 →
       s.admitted s.cur (4 * multiWords n * act.length) = .yes →
       (∀ l ∈ act, ∀ i, i < multiWords n → (ea l i).toNat % 4 = 0 ∧ ∃ pa, s.reaches .write (ea l i) pa) →
       ∃ t, exec (.stm d a o n) s = .next t ∧ Advances s t ∧ t.mem = s.mem ∧ SameSpecial s t
         ∧ (∀ r k, (t.thread r).word k = (s.thread r).word k)
         ∧ ∀ l ∈ act, ∀ i, i < multiWords n → ∀ pa, s.reaches .write (ea l i) pa → ∃ e ∈ (t.cmem agent).ebb,
             e.stream = s.laneStream s.cur l.ref ∧ e.line = pa / 64 * 64 ∧ ∃ bs, e.kind = .store bs false
               ∧ ∀ j, j < 4 → ⟨pa + j, (ea l i).toNat + j, byteAt (slot32 l.ref (s.thread l.ref) (d.ix.toNat + i)) j, l.ix, l.ref, i⟩ ∈ bs)

/-- R151, R152, R156, R311: ST and STT, once every active lane's access has passed its checks, no atomic of its stream is
ahead, the allowance admits the bytes and the queue has room: the lanes' bytes, little-endian as the form converts them,
enter the ebb queue behind the entries that stand in it, and the instruction is past. No byte of memory changes before an
entry drains.
Where those rules leave a choice, the model's own stands: notes/assumptions 53. -/
def Obligations.Stores : Prop :=
  ∀ (s : State) (d : Dest) (a : Src) (o : BitVec 9) (act : List Lane),
    let stores (i : Instr) (hl : Bool) (size : Nat) (wide : Bool) (conv : DWord → LaneOut) : Prop :=
      let f : Form := { formM a [2] hl with srcs := [⟨⟨false, false, d.ix⟩, wide, false⟩, rBase a], bad := d.cls }
      let b := s.begun f
      let agent := s.agentOf s.cur
      let c := b.checkAll b.cur .write size (act.map fun l => ⟨l, (s.srcsOf f l.ref).getD 1 0 + s.imm o⟩)
      let out (l : Lane) : LaneOut := conv ((s.srcsOf f l.ref).getD 0 0)
      let bytes := (passedOf c.2).flatMap fun x => storeBytes x size (out x.1.lane).val
      Issues s f act → isRel (s.ctx s.cur).run = false → (∀ x ∈ c.2, ∃ pa, x.2 = .ok pa) →
        (∀ l ∈ act, trapsOn (s.thread l.ref).fmask (out l).flags = false) →
        c.1.admitted s.cur (size * act.length) = .yes → c.1.atomAhead (passedOf c.2) size = false →
        (s.cmem agent).ebb.length + (c.1.storeEntries s.cur bytes false).length ≤ 512 →
        ∃ t, exec i s = .next t ∧ Advances s t ∧ t.mem = c.1.mem ∧ SameSpecial s t
          ∧ (t.cmem agent).ebb.map (fun e => (e.stream, e.line, e.kind)) =
              (s.cmem agent).ebb.map (fun e => (e.stream, e.line, e.kind))
                ++ (c.1.storeEntries s.cur bytes false).map (fun x => (x.1, x.2.1, x.2.2.2))
          ∧ (∀ r i, (t.thread r).word i = (s.thread r).word i) ∧ (∀ r q, (t.thread r).pred q = (s.thread r).pred q)
          ∧ ∀ l ∈ act, (t.thread l.ref).fflags = (s.thread l.ref).fflags ||| (out l).flags
              ∧ (t.thread l.ref).xstat = (s.thread l.ref).xstat ||| (if (out l).sat then xstatSAT else 0)
    (∀ k, stores (.st d a o k) true (stSize k) (decide (k = .n64)) fun x => { val := x })
    ∧ ∀ k, stores (.stt d a o k) false (tSize k) (tWide k) (sttOut k)

/-- R313, R314, R388, R390: a store entry that is not held and is the oldest of its stream drains to words of this package
that are valid or registered to its owner, with no other request ahead: each byte is stored, the last to an address stands,
the words are then registered to the owner, the entry is gone, with what it had asked for. No register of any thread changes
and no other byte of memory.
Where those rules leave a choice, the model's own stands: notes/assumptions 2. -/
def Obligations.StoreDrains : Prop :=
  ∀ (s : State) (core seq : Nat) (e : EbbEntry) (bs : List BytePart) (strong : Bool),
    Memory.wf s.mem = true → (s.cmem core).ebb.find? (fun x => decide (x.seq = seq)) = some e → e.held = false →
    oldestOfStream (s.cmem core).ebb e = true → e.kind = .store bs strong →
    (∀ b ∈ bs, let w := b.pa % 2 ^ 44 / 4 * 4
      b.pa < 2 ^ 56 ∧ s.target b.pa = .mem ∧ s.target (b.pa / 4 * 4) = .mem ∧ s.poisoned w = false ∧ s.contained w = false
        ∧ s.unasked w ∧ (s.wordSt w = none ∨ s.ownsWord e.owner w = true)) →
    ∃ t, exec (.ebbDrain core seq) s = .next t
      ∧ (∀ a, mget a t.mem =
          (bs.foldl (fun acc b => if b.pa % 2 ^ 44 = a then some b.val else acc) none).getD (mget a s.mem))
      ∧ (∀ b ∈ bs, t.ownsWord e.owner (b.pa % 2 ^ 44 / 4 * 4) = true)
      ∧ (t.cmem core).ebb = (s.cmem core).ebb.filter (fun x => decide (x.seq ≠ seq))
      ∧ { t with mem := s.mem, words := s.words, poison := s.poison, coreMem := s.coreMem, dies := s.dies, queue := s.queue
                 fab := s.fab } = s
      ∧ { t.fab with requests := s.fab.requests } = s.fab

/-- R410, R411, R311: RED and ATOM, once every active lane's access has passed its checks and there is room: their operations
enter the ebb queue, no byte of memory changes before they drain; RED is past, ATOM waits for the old values.
Where those rules leave a choice, the model's own stands: notes/assumptions 24 and 53. -/
def Obligations.AtomicsEnter : Prop :=
  ∀ (s : State) (d : Dest) (a b : Src) (w : Bool) (fn : AtomFn) (act : List Lane),
    let size := if w then 8 else 4
    let agent := s.agentOf s.cur
    let enters (i : Instr) (f : Form) (dest : Dest) (returns : Bool) (rest : State → State → Prop) : Prop :=
      let c := (s.begun f).checkAll s.cur .atomic size (act.map fun l => ⟨l, (s.srcsOf f l.ref).getD 0 0⟩)
      let parts := c.1.atomParts dest b w fn returns (passedOf c.2)
      Issues s f act → isRel (s.ctx s.cur).run = false → (∀ x ∈ c.2, ∃ pa, x.2 = .ok pa) →
        c.1.admitted s.cur (atomAsk w fn act.length) = .yes → c.1.atomAhead (passedOf c.2) size = false →
        (s.cmem agent).ebb.length + (c.1.atomEntries s.cur parts).length ≤ 512 →
        (returns = true → s.guardOf s.cur = 0 ∧ s.inShadow = false) →
        ∃ t, exec i s = .next t ∧ t.mem = c.1.mem ∧ SameSpecial s t
          ∧ (t.cmem agent).ebb.map (fun e => (e.stream, e.line, e.kind)) =
              (s.cmem agent).ebb.map (fun e => (e.stream, e.line, e.kind))
                ++ (c.1.atomEntries s.cur parts).map (fun x => (x.1, x.2.1, x.2.2.2))
          ∧ (∀ r k, (t.thread r).word k = (s.thread r).word k) ∧ (∀ r q, (t.thread r).pred q = (s.thread r).pred q)
          ∧ rest c.1 t
    enters (.red a b w fn) { pfxG := true, ords := [2], scope0 := true, srcs := [r64 a, ⟨b, w, false⟩], bad := a.cls }
      ⟨false, 0⟩ false (fun _ t => Advances s t)
    ∧ enters (.atom d a b w fn)
        { pfxG := true, ords := [1, 2, 3], scope0 := true, srcs := [r64 a, ⟨b, w, false⟩], dest := some (d, w)
          bad := d.cls || a.cls } d true (fun _ t => ∀ p ∈ s.gang s.cur, (t.ctx p).pc = (s.ctx p).pc ∧ (t.ctx p).m = (s.ctx p).m
            ∧ ∃ op refs acq pops, (t.ctx p).wait = some (.atom op d w refs [] [] acq pops))

/-- R152, R259, R260, R390, R411: an atomic of one lane drains to words of this package that are valid or registered to its
owner, with no other request ahead: memory holds the new value, which its function gives from the old value and its operands,
and no other byte changes; where it returns, the old value is with the gang that waits. The reply, once every lane's old value
is there, writes them to the destinations and lets the gang go on.
Where those rules leave a choice, the model's own stands: notes/assumptions 7. -/
def Obligations.AtomicDrainsAndReplies : Prop :=
  (∀ (s : State) (core seq : Nat) (e : EbbEntry) (x : AtomPart) (p : Party) (d : Dest) (refs : List LoadPart),
     let size := if x.wide then 8 else 4
     let pa := x.pa % 2 ^ 44
     let old := BitVec.ofNat 64 (bytesNat (mgets pa size s.mem))
     Memory.wf s.mem = true → (s.cmem core).ebb.find? (fun y => decide (y.seq = seq)) = some e → e.held = false →
     oldestOfStream (s.cmem core).ebb e = true → e.kind = .atoms [x] →
     (s.cmem core).ebb.filter (fun y => decide (y.op = e.op)) = [e] → s.target x.pa = .mem →
     (∀ w ∈ atomWords pa x.wide, s.poisoned w = false ∧ s.contained w = false ∧ s.unasked w
       ∧ (s.wordSt w = none ∨ s.ownsWord e.owner w = true)) →
     ∃ t, exec (.ebbDrain core seq) s = .next t
       ∧ mgets pa size t.mem = natBytes size (atomValue x.fn x.wide old x.operand x.cmp).toNat
       ∧ (∀ a, a < pa ∨ pa + size ≤ a → mget a t.mem = mget a s.mem)
       ∧ e ∉ (t.cmem core).ebb ∧ t.threads = s.threads
       ∧ (x.returns = true → (s.ctx p).wait = some (.atom e.op d x.wide refs [] [] none []) → (s.ctxs.map (·.1)).Nodup →
           (t.ctx p).wait = some (.atom e.op d x.wide refs [(x.ref, old)] [] none [])))
  ∧ (∀ (s : State) (p : Party) (op : Nat) (d : Dest) (wide : Bool) (refs : List LoadPart) (got : List (ThreadRef × DWord)),
       (s.ctx p).wait = some (.atom op d wide refs got [] none []) → refs.length ≤ got.length →
       s.atomsOf (s.agentOf p) op = [] → s.guardOf p = 0 →
       (∀ tk x, s.teamOf p = some tk → (s.team tk).pair ≠ .primary x) → (got.map (·.1)).Nodup → (streamOf p = .headland ∨ d.ix.toNat % 2 = 0 ∨ wide = false) →
       ∃ t, exec (.loadReply p) s = .next t ∧ Advances { s with cur := p } t ∧ t.mem = s.mem ∧ SameSpecial s t
         ∧ (∀ x ∈ got, destValue x.1 (t.thread x.1) ⟨false, d.ix⟩ wide = resultOf wide x.2)
         ∧ ∀ r k, (r ∈ got.map (·.1) → k ∉ destWords r (s.thread r) ⟨false, d.ix⟩ wide) → (t.thread r).word k = (s.thread r).word k)

/-- R389, R394, R396, R450: ACQ, REL and FENCE complete, at every scope. ACQ, once the older loads of its group have bound,
lets the gang go on with exactly the clean copies that the scope and the mask name dropped: at die scope and wider those of
the core's L1, at package scope and wider those of its die's near cache, at system scope guest lines; a mask of 0 drops
nothing. REL and FENCE at group scope, once those loads have bound, let the gang go on and change nothing. At die scope and
wider, outside helpers, where no checkpoint is due, once the older loads have bound and the older entries have drained, and at
system scope no CLOSE is out, they let the gang go on with every open registration of the party's owner in the named regions
closed; REL leaves memory, copies and every other registration, FENCE drops what ACQ drops. REL and FENCE whose release can be
performed are that release, FENCE with the acquire behind it. In a helper REL and FENCE at die scope or wider trap with cause
0x10.
Where those rules leave a choice, the model's own stands: notes/assumptions 17, 61 and 98. -/
def Obligations.AcquiresAndReleases : Prop :=
  ∀ (s : State) (l : Bool) (sc : Scope) (a : Src) (act : List Lane),
    let f := formOrder l a
    let m : DWord := if l then BitVec.allOnes 64 else match act with | x :: _ => (s.srcsOf f x.ref).getD 0 0 | [] => 0
    let named (c : Copy) : Prop := m.getLsbD c.region = true
    let mine (c : Copy) : Prop := c.asn = s.asnOf s.cur ∧ named c
    let agent := s.agentOf s.cur
    let goesOn (t : State) : Prop := Advances s t ∧ t.mem = s.mem ∧ SameSpecial s t
      ∧ (∀ r k, (t.thread r).word k = (s.thread r).word k)
    let discards (t : State) : Prop :=
      (∀ k x, x ∈ (t.cmem k).l1 ↔ x ∈ (s.cmem k).l1 ∧ ¬(k = agent ∧ sc ≠ .group ∧ mine x.2))
      ∧ (∀ die x, (sc = .group ∨ sc = .die ∨ nearDie agent ≠ some die) → (x ∈ (t.die die).near ↔ x ∈ (s.die die).near))
      ∧ (∀ die x, (sc = .package ∨ sc = .system) → nearDie agent = some die →
          (x ∈ (t.die die).near ↔ x ∈ (s.die die).near ∧ (m = 0 ∨ (x.2.asn = s.asnOf s.cur ∧ ¬named x.2))))
      ∧ ∀ x, x ∈ t.guest ↔ x ∈ s.guest ∧ ¬(sc = .system ∧ named x.2)
    let closed (x : Option WordSt) : Option WordSt := x.map fun x => match x with
      | .open_ o k r =>
        if s.sameOwner (s.ownerOf s.cur) o = true ∧ (k ≠ s.asnOf s.cur ∨ m.getLsbD r = true) then .closed o k r false else x
      | _ => x
    let caches (t : State) : Prop := t.coreMem = s.coreMem ∧ t.dies = s.dies ∧ t.guest = s.guest
    let noneOpen : Prop := sc = .system →
      s.fab.requests = [] ∧ ∀ x ∈ s.guestRegs, s.sameOwner (s.ownerOf s.cur) x.2.owner = true → x.2.isOpen = false
    Issues s f act →
      (s.olderBound →
        ∃ t, exec (.acq l sc a) s = .next t ∧ goesOn t ∧ discards t ∧ t.words = s.words ∧ t.guestRegs = s.guestRegs)
      ∧ (sc = .group → s.olderBound →
        (∃ t, exec (.rel l sc a) s = .next t ∧ goesOn t ∧ SameBesides s t)
        ∧ ∃ t, exec (.fence l sc a) s = .next t ∧ goesOn t ∧ SameBesides s t)
      ∧ (sc ≠ .group → streamOf s.cur ≠ .helper → s.guardOf s.cur = 0 → s.olderBound →
        (∀ k, (s.cmem k).ebb = []) → noneOpen →
        (∃ t, exec (.rel l sc a) s = .next t ∧ goesOn t ∧ caches t ∧ ∀ w, tget w t.words = closed (tget w s.words))
        ∧ ∃ t, exec (.fence l sc a) s = .next t ∧ goesOn t ∧ discards t ∧ ∀ w, tget w t.words = closed (tget w s.words))
      ∧ ((streamOf s.cur ≠ .helper ∨ sc = .group) → (s.begun f).canRelease sc m →
        exec (.rel l sc a) s = .next (((s.begun f).released sc m).finish f act)
        ∧ exec (.fence l sc a) s = .next ((((s.begun f).released sc m).acquire s.cur sc m).finish f act))
      ∧ (streamOf s.cur = .helper → sc ≠ .group →
        exec (.rel l sc a) s = .next ((s.begun f).raiseCause act 0x10)
        ∧ exec (.fence l sc a) s = .next ((s.begun f).raiseCause act 0x10))

/-- R160, R243, R318: PREF has no effect that a program can see, whatever its address; GFENCE passes once no older load of
the group is out; EBDR passes once no older entry of an active lane is undrained, and traps with cause 0x10 in a helper.
Where those rules leave a choice, the model's own stands: notes/assumptions 54. -/
def Obligations.HintsAndDrains : Prop :=
  ∀ (s : State) (a : Src) (o : BitVec 9) (v : PrefLevel),
    (∀ act, Issues s { pfxG := true, limm := true, srcs := [rBase a], bad := a.cls } act → ∃ t, exec (.pref a o v) s = .next t
      ∧ Advances s t ∧ SameSpecial s t ∧ t.words = s.words ∧ (Memory.wf s.mem = true → ∀ x, ¬s.tableByte x → mget x t.mem = mget x s.mem)
      ∧ ∀ r k, (t.thread r).word k = (s.thread r).word k)
    ∧ Does .gfence s { pfxG := true } (fun _ b => b.olderBound) (fun act b => b.finish { pfxG := true } act)
    ∧ Does .ebdr s { headland := true, pfxG := true }
        (fun act b => streamOf b.cur ≠ .helper ∧ ¬b.pairWaits ∧ ∀ e ∈ (b.cutNow.cmem (b.cutNow.agentOf b.cur)).ebb, ∀ l ∈ act,
          match e.kind with | .store bs _ => ∀ x ∈ bs, x.ref ≠ l.ref | .atoms xs => ∀ x ∈ xs, x.ref ≠ l.ref)
        (fun act b => b.cutNow.finish { headland := true, pfxG := true } act)
    ∧ Does .ebdr s { headland := true, pfxG := true } (fun _ b => streamOf b.cur = .helper) (fun act b => b.raiseCause act 0x10)

/-! ### Scratchpad, regrouping, helpers -/

/-- R252, R254-R261: LDS and STS of every form, with the accesses of all lanes aligned and inside the scratchpad, no waiter
ahead and the tags as the form wants them. LDS reads its bytes, little-endian, and its FE form leaves its words empty; STS
writes the lanes' bytes in lane order, and its tagging forms leave its words full. Memory is as it was. ATOMS performs its
lanes one after another in lane order: the lowest lane's destination holds what the scratchpad held before, and where it is
alone, the scratchpad then holds the new value and is otherwise as it was. What is read holds no uncorrectable data, and an
acquire finds the group's older loads bound.
Where those rules leave a choice, the model's own stands: notes/assumptions 32. -/
def Obligations.ScratchpadAccesses : Prop :=
  (∀ (s : State) (d : Dest) (a : Src) (o : BitVec 9) (lf : LdsForm) (sf : StsForm) (w : Bool) (act : List Lane) (tk : Nat),
     let size := if w then 8 else 4
     let fl : Form := { formM a [1] true with dest := some (d, w), bad := d.cls }
     let fs : Form := { formM a [2] true with srcs := [⟨⟨false, false, d.ix⟩, w, false⟩, rBase a], bad := d.cls }
     let el (l : Lane) : Nat := ((s.srcsOf fl l.ref).getD 0 0 + s.imm o).toNat
     let es (l : Lane) : Nat := ((s.srcsOf fs l.ref).getD 1 0 + s.imm o).toNat
     let fits (x : Nat) : Prop := x % size = 0 ∧ x + size ≤ (s.team tk).launch.z
     let inWords (ea : Lane → Nat) (x : Nat) : Prop := ∃ l ∈ act, x % 4 = 0 ∧ ea l ≤ x ∧ x < ea l + size
     s.teamOf s.cur = some tk → s.tagAhead tk s.tagOrder = false → (isAcq (s.ctx s.cur).run = true → s.olderBound) →
       (Issues s fl act → (∀ l ∈ act, fits (el l)) → (∀ l ∈ act, (s.team tk).badRange (el l) size = false) → (lf ≠ .plain → ∀ x, inWords el x → x ∈ (s.team tk).full) →
         ∃ t, exec (.lds d a o lf w) s = .next t ∧ Advances s t ∧ t.mem = s.mem ∧ SameSpecial s t
           ∧ (∀ l ∈ act, destValue l.ref (t.thread l.ref) d w = BitVec.ofNat 64 ((s.team tk).padRead (el l) size))
           ∧ (∀ r k, (r ∈ act.map (·.ref) → k ∉ destWords r (s.thread r) d w) → (t.thread r).word k = (s.thread r).word k)
           ∧ (t.team tk).pad = (s.team tk).pad
           ∧ ∀ x, x ∈ (t.team tk).full ↔ x ∈ (s.team tk).full ∧ ¬(lf = .fe ∧ inWords el x))
       ∧ (Issues s fs act → isRel (s.ctx s.cur).run = false → (∀ l ∈ act, fits (es l)) →
         (sf = .ef → ∀ x, inWords es x → x ∉ (s.team tk).full) →
         ∃ t, exec (.sts d a o sf w) s = .next t ∧ Advances s t ∧ t.mem = s.mem ∧ SameSpecial s t
           ∧ (∀ r k, (t.thread r).word k = (s.thread r).word k)
           ∧ (∀ x, tgetD x 0 (t.team tk).pad = (act.foldl (fun acc l =>
               if es l ≤ x ∧ x < es l + size then some (BitVec.ofNat 8 (((s.srcsOf fs l.ref).getD 0 0).toNat / 256 ^ (x - es l)))
               else acc) none).getD (tgetD x 0 (s.team tk).pad))
           ∧ ∀ x, x ∈ (t.team tk).full ↔ x ∈ (s.team tk).full ∨ (sf ≠ .plain ∧ inWords es x)))
  ∧ (∀ (s : State) (d : Dest) (a b : Src) (w : Bool) (fn : AtomFn) (l : Lane) (ls : List Lane) (tk : Nat),
       let size := if w then 8 else 4
       let f : Form := { pfxG := true, ords := [1, 2, 3], srcs := [r64 a, ⟨b, w, false⟩], dest := some (d, w)
                         bad := d.cls || a.cls }
       let ea (l : Lane) : Nat := ((s.srcsOf f l.ref).getD 0 0).toNat
       let old : DWord := BitVec.ofNat 64 ((s.team tk).padRead (ea l) size)
       let new := atomValue fn w old ((s.srcsOf f l.ref).getD 1 0)
         (if w then slot64 l.ref (s.thread l.ref) d.ix.toNat else (slot32 l.ref (s.thread l.ref) d.ix.toNat).zeroExtend 64)
       s.teamOf s.cur = some tk → s.tagAhead tk s.tagOrder = false → Issues s f (l :: ls) → isRel (s.ctx s.cur).run = false →
       (isAcq (s.ctx s.cur).run = true → s.olderBound) →
       (∀ l' ∈ l :: ls, ea l' % size = 0 ∧ ea l' + size ≤ (s.team tk).launch.z ∧ (s.team tk).badRange (ea l') size = false) →
         ∃ t, exec (.atoms d a b w fn) s = .next t ∧ Advances s t ∧ t.mem = s.mem ∧ SameSpecial s t
           ∧ destValue l.ref (t.thread l.ref) d w = old ∧ (t.team tk).full = (s.team tk).full
           ∧ (∀ r k, (r ∈ (l :: ls).map (·.ref) → k ∉ destWords r (s.thread r) d w) → (t.thread r).word k = (s.thread r).word k)
           ∧ (ls = [] → ∀ x, tgetD x 0 (t.team tk).pad =
               if ea l ≤ x ∧ x < ea l + size then BitVec.ofNat 8 (new.toNat / 256 ^ (x - ea l)) else tgetD x 0 (s.team tk).pad))

/-- R214, R252, R262: TAG.F and TAG.E set the tags of each lane's range of words and nothing else of the scratchpad; PRSW
passes once every line of its ranges is present. An access of LDS, STS, ATOMS, TAG or PRSW that is misaligned traps with cause
0x04 (PRSW has no alignment), one that is aligned and reaches past the scratchpad with cause 0x06, at the offset of the lowest
lane that meets it; an LDS or ATOMS that passes both and reads uncorrectable data traps with cause 0x09 where the team is not
guarded. -/
def Obligations.TagsAndScratchpadTraps : Prop :=
  (∀ (s : State) (a b : Src) (act : List Lane) (tk : Nat),
     let f := formTag a b
     let off (l : Lane) : Nat := ((s.srcsOf f l.ref).getD 0 0).toNat
     let n (l : Lane) : Nat := ((s.srcsOf f l.ref).getD 1 0).toNat % 2 ^ 32
     let named (x : Nat) : Prop := ∃ l ∈ act, ∃ i, i < n l ∧ x = off l + 4 * i
     s.teamOf s.cur = some tk → Issues s f act →
       (s.tagAhead tk s.tagOrder = false → (∀ l ∈ act, off l % 4 = 0 ∧ off l + 4 * n l ≤ (s.team tk).launch.z) →
         (∃ t, exec (.tagF a b) s = .next t ∧ Advances s t ∧ t.mem = s.mem ∧ (t.team tk).pad = (s.team tk).pad
             ∧ (∀ r k, (t.thread r).word k = (s.thread r).word k)
             ∧ ∀ x, x ∈ (t.team tk).full ↔ x ∈ (s.team tk).full ∨ named x)
         ∧ ∃ t, exec (.tagE a b) s = .next t ∧ Advances s t ∧ t.mem = s.mem ∧ (t.team tk).pad = (s.team tk).pad
             ∧ (∀ r k, (t.thread r).word k = (s.thread r).word k)
             ∧ ∀ x, x ∈ (t.team tk).full ↔ x ∈ (s.team tk).full ∧ ¬named x)
       ∧ ((∀ l ∈ act, off l + n l ≤ (s.team tk).launch.z ∧ ∀ x, off l ≤ x → x < off l + n l → (s.team tk).present (x / 64) = true) →
         exec (.prsw a b) s = .next ((s.begun f).finish f act)))
  ∧ (∀ (s : State) (d : Dest) (a b : Src) (o : BitVec 9) (lf : LdsForm) (sf : StsForm) (w : Bool) (fn : AtomFn) (act : List Lane)
       (l : Lane) (ls : List Lane),
       let size := if w then 8 else 4
       let fl : Form := { formM a [1] true with dest := some (d, w), bad := d.cls }
       let fs : Form := { formM a [2] true with srcs := [⟨⟨false, false, d.ix⟩, w, false⟩, rBase a], bad := d.cls }
       let fa : Form := { pfxG := true, ords := [1, 2, 3], srcs := [r64 a, ⟨b, w, false⟩], dest := some (d, w), bad := d.cls || a.cls }
       let ft := formTag a b
       let el (l : Lane) : Nat := ((s.srcsOf fl l.ref).getD 0 0 + s.imm o).toNat
       let es (l : Lane) : Nat := ((s.srcsOf fs l.ref).getD 1 0 + s.imm o).toNat
       let ea (l : Lane) : Nat := ((s.srcsOf fa l.ref).getD 0 0).toNat
       let et (l : Lane) : Nat := ((s.srcsOf ft l.ref).getD 0 0).toNat
       let n (l : Lane) : Nat := (src32 (s.srcsOf ft l.ref) 1).toNat
       let stops (i : Instr) (f : Form) (align : Nat) (at_ size : Lane → Nat) (write : Bool) : Prop := Issues s f act →
         (act.filter (fun l => decide (at_ l % align ≠ 0)) = l :: ls →
           exec i s = .next ((s.begun f).raise { cause := 0x04, lanes := l :: ls, addr := at_ l, write := write }))
         ∧ ((∀ l ∈ act, at_ l % align = 0) → act.filter (fun l => decide (s.padSize < at_ l + size l)) = l :: ls →
           exec i s = .next ((s.begun f).raise { cause := 0x06, lanes := l :: ls, addr := at_ l, write := write }))
       let spoilt (i : Instr) (f : Form) (at_ : Lane → Nat) (write : Bool) : Prop := Issues s f act →
         (∀ l ∈ act, at_ l % size = 0 ∧ at_ l + size ≤ s.padSize) →
         isRel (s.ctx s.cur).run = false → isAcq (s.ctx s.cur).run = false →
         ∀ tk, s.teamOf s.cur = some tk → s.tagAhead tk s.tagOrder = false → (s.team tk).launch.grd = 0 →
         act.filter (fun l => (s.team tk).badRange (at_ l) size) = l :: ls →
         exec i s = .next ((s.begun f).raise { cause := 0x09, lanes := l :: ls, addr := at_ l, write := write })
       stops (.lds d a o lf w) fl size el (fun _ => size) false ∧ stops (.sts d a o sf w) fs size es (fun _ => size) true
       ∧ stops (.atoms d a b w fn) fa size ea (fun _ => size) true
       ∧ stops (.tagF a b) ft 4 et (fun l => 4 * n l) true ∧ stops (.tagE a b) ft 4 et (fun l => 4 * n l) true
       ∧ stops (.prsw a b) ft 1 et n false
       ∧ (lf = .plain → spoilt (.lds d a o lf w) fl el false) ∧ spoilt (.atoms d a b w fn) fa ea true)

/-- R200, R201, R245-R247: RGN writes the window base of each active thread, VIEW a view register of the team; a value outside
the range of R20 or refused by R18 traps with cause 0x17. RGN and REFORM first write back the operand regions that they end;
uncorrectable data in a dirty word traps with cause 0x09 (R24, R159). REFORM files its active threads with the tidepool of its
key, which is the PC behind it: they leave their lanes, the entry takes their numbers with the time and the lower age limit.
No older instruction of the group may still write a destination, and no helper may still stand inside a hint run on the
group's lanes.
Where those rules leave a choice, the model's own stands: notes/assumptions 93 and 108. -/
def Obligations.WindowsAndReform : Prop :=
  (∀ (s : State) (w : BitVec 9) (x h : BitVec 5) (n : BitVec 3) (a : Src) (act : List Lane) (tk : Nat),
     let fr : Form := { formRegroup [] with badEnc := decide (28 ≤ h.toNat) }
     let fv := formRegroup [r64 a]
     let v : DWord := match act with | l :: _ => (s.srcsOf fv l.ref).getD 0 0 | [] => 0
     let words := (s.team tk).launch.s / 4
     s.teamOf s.cur = some tk →
       (Issues s fr act → (4 ≤ w.toNat ∧ w.toNat + 28 ≤ words →
           (s.writesBack act → ∃ t, exec (.rgn w x h) s = .next t ∧ Advances s t ∧ SameBesides s t
             ∧ ∀ r, { t.thread r with count := (s.thread r).count } =
                 if r ∈ act.map (·.ref) then { s.thread r with wb := w, dirty := [] } else s.thread r)
           ∧ StopsWritingBack (.rgn w x h) s fr act)
         ∧ (¬(4 ≤ w.toNat ∧ w.toNat + 28 ≤ words) → exec (.rgn w x h) s = .next ((s.begun fr).raiseCause act 0x17)))
       ∧ (Issues s fv act → (viewBad words v = false →
           ∃ t, exec (.view n a) s = .next t ∧ Advances s t ∧ SameBesides s t
             ∧ (∀ m, m < 8 → (t.team tk).view m = if m = n.toNat then v else (s.team tk).view m)
             ∧ ∀ r k, (t.thread r).word k = (s.thread r).word k)
         ∧ (viewBad words v = true → exec (.view n a) s = .next ((s.begun fv).raiseCause act 0x17))))
  ∧ (∀ (s : State) (a : Src) (act : List Lane) (tk gid q e : Nat),
       let core := (s.group tk gid).core
       let key : VAddr := (s.ctx s.cur).fetchPc + 4
       let reforms (i : Instr) (f : Form) (limit : Nat) : Prop :=
         Issues s f act → s.cur = .gang tk gid q → (∀ l ∈ act, s.recruitOf l = none) → s.olderWrites s.cur = false →
         (s.releaseOn tk gid).helpersOn tk gid = [] → (s.team tk).poolFor core key = some e → s.writesBack act → (∀ p ∈ s.gang s.cur, (s.fullStack p).length ≤ 8) →
           ∃ t p, exec i s = .next t ∧ tget e (t.team tk).pools = some p ∧ p.key = key ∧ t.mem = s.mem
             ∧ (match (tget e (s.team tk).pools).filter fun old => decide (old.threads ≠ []) with
                 | some old => p.limit = Nat.min old.limit limit
                     ∧ p.threads = old.threads ++ act.map (fun l => ((s.thread l.ref).tid, s.time.toNat))
                 | none => p.core = core ∧ p.limit = limit ∧ p.threads = act.map fun l => ((s.thread l.ref).tid, s.time.toNat))
             ∧ (∀ l ∈ act, (t.thread l.ref).gid = noGid ∧ (t.thread l.ref).lane = 0 ∧ (t.thread l.ref).live = (s.thread l.ref).live)
             ∧ (∀ r k, (t.thread r).word k = (s.thread r).word k)
             ∧ ∀ p ∈ s.gang s.cur, (t.ctx p).m = (s.ctx p).m &&& ~~~(s.quadActive p act) ∧ (t.ctx p).pc = key
       reforms .reform (formRegroup []) 64
       ∧ reforms (.reformAge a) (formRegroup [r32 a]) (match act with
           | l :: _ => Nat.min ((src32 (s.srcsOf (formRegroup [r32 a]) l.ref) 0).toNat) (2 ^ 24 - 1)
           | [] => 64))

/-- R206, R207, R209-R212, R249-R251: RECRUIT gives each active lane the helpers of its grant, with a snapshot of v16-v31,
and its count; a start PC that is misaligned or not canonical, or a recruitment that is still open, traps. HWAIT waits
until every helper has stopped; then it gives the mask of those that did not complete, merges their flags and frees their
frames, and where one faulted it raises cause 0x0F behind itself, with what it wrote. HDONE hands a helper's held entries and
results to its recruiter, and traps in a thread that is no helper. HELPER_START, HELPER_RELEASE and HWAIT_COMPLETE are the
steps between.
Where those rules leave a choice, the model's own stands: notes/assumptions 33, 34 and 92, for cause 0x0F 118. -/
def Obligations.Helpers : Prop :=
  ∀ (s : State) (d : Dest) (a b : Src) (act : List Lane) (core quad : Nat) (p : Party),
    let fr : Form := { service := false, helperBad := true, pfxG := true, srcs := [r64 a, r32 b], late := true, bad := d.cls }
    let fh : Form := { service := false, helperBad := true, pfxG := true, bad := d.cls }
    let fd : Form := { service := false, pfxG := true }
    let start (l : Lane) : DWord := (s.srcsOf fr l.ref).getD 0 0
    let asked (l : Lane) : Nat := min (src32 (s.srcsOf fr l.ref) 1).toNat 32
    let closed (s t : State) (act : List Lane) : Prop :=
      t.mem = s.mem
        ∧ (∀ l ∈ act, ∀ x, s.recruitOf l = some x →
            destValue l.ref (t.thread l.ref) d false = resultOf false (BitVec.ofNat 64 ((x.frames.map fun f =>
              if (s.helper x.core f).st = .completed then 0 else 2 ^ (s.helper x.core f).hix).sum))
            ∧ (t.thread l.ref).fflags =
                x.frames.foldl (fun m f => m ||| (s.thread (.helper x.core f)).fflags) (s.thread l.ref).fflags
            ∧ (t.thread l.ref).xstat =
                x.frames.foldl (fun m f => m ||| (s.thread (.helper x.core f)).xstat) (s.thread l.ref).xstat
            ∧ t.recruitOf l = none ∧ ∀ f ∈ x.frames, tget (x.core, f) t.helpers = none)
        ∧ (∀ l ∈ act, s.recruitOf l = none → destValue l.ref (t.thread l.ref) d false = 0)
        ∧ ∀ tk tid k, (.compute tk tid ∈ act.map (·.ref) → k ∉ destWords (.compute tk tid) (s.thread (.compute tk tid)) d false) →
            (t.thread (.compute tk tid)).word k = (s.thread (.compute tk tid)).word k
    let apart (s : State) (act : List Lane) : Prop :=
      (act.map (·.ref)).Nodup ∧ (∀ l ∈ act, ∃ tk tid, l.ref = .compute tk tid)
        ∧ (act.flatMap fun l => match s.recruitOf l with | some x => x.frames.map fun f => (x.core, f) | none => []).Nodup
    let stopped (s : State) (act : List Lane) : Prop :=
      apart s act ∧ ∀ l ∈ act, ∀ x, s.recruitOf l = some x → ∀ f ∈ x.frames,
        (s.helper x.core f).st = .completed ∨ (s.helper x.core f).st = .released
    (∀ tk gid q, s.cur = .gang tk gid q → Issues s fr act → s.olderBound →
      (∀ l ∈ act, l.ref = .compute tk (s.thread l.ref).tid ∧ s.recruitOf l = none ∧ (start l).toNat % 4 = 0 ∧ (start l).toNat < 2 ^ 60) →
      ∃ t, exec (.recruit d a b) s = .next t ∧ GoesOn s t ∧ t.mem = s.mem
        ∧ (∀ l ∈ act, ∃ g, g ≤ asked l ∧ destValue l.ref (t.thread l.ref) d false = BitVec.ofNat 64 g
            ∧ ((s.team tk).launch.grd = 2 → g = 0) ∧ (g = 0 → t.recruitOf l = none)
            ∧ (0 < g → ∃ x, t.recruitOf l = some x ∧ x.core = (s.group tk gid).core ∧ x.frames.length = g
                ∧ x.snap = (upto 16).map (fun i => slot32 l.ref (s.thread l.ref) (16 + i))
                ∧ ∀ k f, x.frames[k]? = some f → (t.helper x.core f).hix = k ∧ (t.helper x.core f).st = .granted
                    ∧ (t.helper x.core f).pc = (start l).extractLsb' 0 60
                    ∧ ThreadRef.compute (t.helper x.core f).tk (t.helper x.core f).tid = l.ref))
        ∧ ∀ tk tid k, (.compute tk tid ∈ act.map (·.ref) → k ∉ destWords (.compute tk tid) (s.thread (.compute tk tid)) d false) →
            (t.thread (.compute tk tid)).word k = (s.thread (.compute tk tid)).word k)
    ∧ (∀ l ls, Issues s fr act →
        (act.filter (fun l => decide ((start l).toNat % 4 ≠ 0)) = l :: ls → exec (.recruit d a b) s =
          .next ((s.begun fr).raise { cause := 0x04, lanes := l :: ls, addr := (start l).toNat }))
        ∧ ((∀ l ∈ act, (start l).toNat % 4 = 0) →
          (act.filter (fun l => decide (2 ^ 60 ≤ (start l).toNat)) = l :: ls → exec (.recruit d a b) s =
            .next ((s.begun fr).raise { cause := 0x06, lanes := l :: ls, addr := (start l).toNat, aux := 1 }))
          ∧ ((∀ l ∈ act, (start l).toNat < 2 ^ 60) → act.filter (fun l => (s.recruitOf l).isSome) = l :: ls →
            exec (.recruit d a b) s = .next ((s.begun fr).raiseCause (l :: ls) 0x10))))
    ∧ (Issues s fh act → stopped s act → ∃ t, exec (.hwait d) s = .next t ∧ Advances s t ∧ closed s t act)
    ∧ (Issues s fh act → s.hwaitReady act = false → ∃ t, exec (.hwait d) s = .next t ∧ WaitsIn s t (.hwait d))
    ∧ (∀ l ls x f c, Issues s fh act → apart s act → s.hwaitReady act = true →
        let failed (x : Recruitment) (f : Nat) : Bool := match (s.helper x.core f).st with | .faulted _ => true | _ => false
        act.filter (fun l => (s.recruitOf l).any fun x => x.frames.any (failed x)) = l :: ls → s.recruitOf l = some x →
        x.frames.find? (failed x) = some f → (s.helper x.core f).st = .faulted c →
          ∃ u, exec (.hwait d) s = .next (u.raise
              { cause := 0x0F, lanes := l :: ls, after := true, ocause := c, hix := (s.helper x.core f).hix })
            ∧ u.cur = s.cur ∧ u.ctxs = (s.begun fh).ctxs ∧ closed s u act)
    ∧ ((s.ctx p).wait = some (.hwait d) → d.cls = false →
        (stopped s (s.waitLanes p) →
          ∃ t, exec (.hwaitComplete p) s = .next t ∧ Advances { s with cur := p } t ∧ closed s t (s.waitLanes p))
        ∧ (s.hwaitReady (s.waitLanes p) = false → exec (.hwaitComplete p) s = .next { s with cur := p }))
    ∧ (Issues s fd act → s.cur = .helper core quad → ∃ t, exec .hdone s = .next t ∧ t.mem = s.mem
        ∧ (∀ f, .helper core f ∈ act.map (·.ref) → (t.helper core f).st = .completed
            ∧ (∀ e ∈ (t.cmem core).ebb, e.stream = .helper core f → e.held = false)
            ∧ ∀ e ∈ (s.cmem core).ebb, e.held = true → e.stream = .helper core f →
                let r : ThreadRef := .compute (s.helper core f).tk (s.helper core f).tid
                ∃ e' ∈ (t.cmem core).ebb, e'.stream = .group (s.helper core f).tk (s.thread r).gid
                  ∧ e'.kind = e.kind.asRecruiter (s.thread r).lane r)
        ∧ (∀ tk tid, (t.thread (.compute tk tid)).hr = (s.thread (.compute tk tid)).hr ++ act.flatMap fun l => match l.ref with
            | .helper c f => if (s.helper c f).tk = tk ∧ (s.helper c f).tid = tid then (s.thread l.ref).hr else []
            | _ => [])
        ∧ ∀ r k, (t.thread r).word k = (s.thread r).word k)
    ∧ (Issues s fd act → streamOf s.cur ≠ .helper → exec .hdone s = .next ((s.begun fd).raiseCause act 0x10))
    ∧ (∃ t, exec (.helperStart core quad) s = .next t ∧ { t with helpers := s.helpers } = s
        ∧ ∀ k h, tget k s.helpers = some h → tget k t.helpers =
            some (if k.1 = core ∧ h.quad = quad ∧ h.st = .granted then { h with st := .running } else h))
    ∧ ((s.helpers.map (·.1)).Nodup → ∃ t, exec (.helperRelease core quad) s = .next t ∧ t.mem = s.mem
        ∧ ∀ f h, tget (core, f) s.helpers = some h → h.quad = quad →
            (s.releasable core h = true → (t.helper core f).st = .released ∧ (t.thread (.helper core f)).hr = []
              ∧ ∀ e ∈ (t.cmem core).ebb, e.stream = .helper core f → e.held = false)
            ∧ (s.releasable core h = false → t.helper core f = h))

/-- R216, R263-R270: the barrier instructions. BAR.INIT writes an uninitialised record; arrivals count together after a
release at die scope, and the update that fills the phase completes it, with every wait on it over; BAR.SYN and BAR.WT wait
for the phase; a missing or broken barrier traps with cause 0x11 behind the instruction, a count outside 1 to 2048 with cause
0x07; BAR.DRP takes members out of the record; GBAR waits for every thread of the grid. A phase that completed lets the gang
acquire and go on, once the group's older loads have bound; GBAR tells its lanes in p1 whether the grid's barrier broke,
GBAR.T traps.
Where those rules leave a choice, the model's own stands: notes/assumptions 21, 49 and 50, for 0x07 before 0x11 110. -/
def Obligations.BarriersAndWaits : Prop :=
  (∀ (s : State) (n : BitVec 4) (a : Src) (act : List Lane) (tk : Nat),
     let f0 := formBar true []
     let f1 := formBar true [r32 a]
     let fd := formBar false []
     let old := (s.team tk).barrier n.toNat
     let value (l : Lane) : Nat := (src32 (s.srcsOf f1 l.ref) 0).toNat
     let tids : List Nat := act.filterMap fun l => match l.ref with | .compute _ tid => some tid | _ => none
     let full (k : Nat) : Prop := old.exp ≤ old.arr + k
     let gone (k : Nat) : Prop := full k ∧ old.exp ≤ old.drop
     let arrived (t : State) (k : Nat) : Prop :=
       let new := (t.team tk).barrier n.toNat
       new.broken = false ∧ new.init = decide (¬gone k) ∧ new.phase = (if full k then !old.phase else old.phase)
         ∧ new.arr = (if full k then 0 else old.arr + k)
         ∧ new.exp = (if full k then old.exp - old.drop else old.exp) ∧ new.drop = (if full k then 0 else old.drop)
         ∧ new.ovr = (decide (¬gone k) && (old.ovr || decide (full k ∧ old.exp < old.arr + k)))
         ∧ (∀ x, x ∈ new.members ↔ ¬gone k ∧ (x ∈ old.members ∨ x ∈ tids))
         ∧ (∀ m, m ≠ n.toNat → (t.team tk).barrier m = (s.team tk).barrier m)
         ∧ (∀ p, partyOfTeam tk p = true → p ∉ s.gang s.cur → (s.ctx p).wait = some (.barrier n.toNat old.phase none) →
             (t.ctx p).wait = some (.barrier n.toNat old.phase (if full k then some false else none)))
         ∧ t.mem = s.mem ∧ ∀ r i, (t.thread r).word i = (s.thread r).word i
     let usable (f : Form) (k : Nat) : Prop := old.init = true ∧ old.broken = false ∧ (s.begun f).canRelease .die allRegions ∧ 0 < k
     let broken (i : Instr) (f : Form) : Prop := (old.init = false ∨ old.broken = true) →
       exec i s = .next ((s.begun f).raise { cause := 0x11, lanes := act, after := true })
     s.teamOf s.cur = some tk → (s.ctx s.cur).blocked = false →
       (Issues s f1 act → ∀ l ls, act = l :: ls →
         (1 ≤ value l ∧ value l ≤ 2048 → ∃ t, exec (.barInit n a) s = .next t ∧ Advances s t ∧ t.mem = s.mem
           ∧ (t.team tk).barrier n.toNat = (if old.init then old else ⟨false, false, old.phase, true, 0, value l, 0, [], []⟩)
           ∧ (∀ m, m ≠ n.toNat → (t.team tk).barrier m = (s.team tk).barrier m)
           ∧ ∀ r i, (t.thread r).word i = (s.thread r).word i)
         ∧ (¬(1 ≤ value l ∧ value l ≤ 2048) → exec (.barInit n a) s = .next ((s.begun f1).raiseCause act 0x07)))
       ∧ (Issues s f0 act →
         (usable f0 act.length →
           (∃ t, exec (.barArv n) s = .next t ∧ GoesOn s t ∧ arrived t act.length)
           ∧ ∃ t, exec (.barSyn n) s = .next t ∧ arrived t act.length ∧ (full act.length → GoesOn s t)
               ∧ (¬full act.length → WaitsIn s t (.barrier n.toNat old.phase none)))
         ∧ (old.init = true → old.broken = false →
           ∃ t, exec (.barWt n) s = .next t ∧ WaitsIn s t (.barrier n.toNat old.phase none)
             ∧ ∀ m, (t.team tk).barrier m = (s.team tk).barrier m)
         ∧ broken (.barArv n) f0 ∧ broken (.barSyn n) f0 ∧ broken (.barWt n) f0)
       ∧ (Issues s f1 act →
         let k := (act.map value).sum
         ((∀ l ∈ act, 1 ≤ value l ∧ value l ≤ 2048) →
           (usable f1 k →
             (∃ t, exec (.barArvCount n a) s = .next t ∧ GoesOn s t ∧ arrived t k)
             ∧ ∃ t, exec (.barSynCount n a) s = .next t ∧ arrived t k ∧ (full k → GoesOn s t)
                 ∧ (¬full k → WaitsIn s t (.barrier n.toNat old.phase none)))
           ∧ broken (.barArvCount n a) f1 ∧ broken (.barSynCount n a) f1)
         ∧ (∀ l ls, act.filter (fun l => decide (¬(1 ≤ value l ∧ value l ≤ 2048))) = l :: ls →
           exec (.barArvCount n a) s = .next ((s.begun f1).raiseCause (l :: ls) 0x07)
           ∧ exec (.barSynCount n a) s = .next ((s.begun f1).raiseCause (l :: ls) 0x07)))
       ∧ (Issues s fd act → ∃ t, exec (.barDrp n) s = .next t ∧ GoesOn s t ∧ t.mem = s.mem
           ∧ (∀ m, m ≠ n.toNat → (t.team tk).barrier m = (s.team tk).barrier m)
           ∧ (∀ x, x ∈ ((t.team tk).barrier n.toNat).members → x ∈ old.members ∧ x ∉ tids)
           ∧ ((∀ x ∈ tids, x ∉ old.members) → (old.broken = true → old.members ≠ []) → (t.team tk).barrier n.toNat = old)
           ∧ (∀ x, tids = [x] → x ∈ old.members → x ∈ old.arrived → old.broken = false → (t.team tk).barrier n.toNat =
               { old with members := old.members.filter (fun y => decide (y ≠ x))
                          arrived := old.arrived.filter (fun y => decide (y ≠ x)), drop := old.drop + 1 })
           ∧ ∀ r i, (t.thread r).word i = (s.thread r).word i)
       ∧ (Issues s fd act → (s.begun fd).canRelease .package allRegions → ∀ tm, tget tk s.teams = some tm → tm.ended = false →
           (s.teams.map (·.1)).Nodup →
         let here (k x : Nat) (m : Team) : Prop := x ∈ m.gbarArrived ∨ (k = tk ∧ x ∈ tids)
         let all : Prop := s.gridBroken tk = false ∧ (∀ r, s.recordOf tm.launch = some r → r.next = recTeams r.bits)
           ∧ ∀ k m, tget k s.teams = some m → m.launch.sameGrid tm.launch = true → m.ended = false →
               m.withdrawn = [] ∧ ∀ x, x ∈ s.liveTids k → here k x m
         let grid (i : Instr) (traps : Bool) : Prop := ∃ t, exec i s = .next t ∧ t.mem = s.mem
           ∧ (all → WaitsIn s t (.gbar traps (some false)) ∧ (t.team tk).gbarArrived = [])
           ∧ (¬all → WaitsIn s t (.gbar traps none) ∧ ∀ x, x ∈ (t.team tk).gbarArrived ↔ here tk x tm)
           ∧ ∀ r i, (t.thread r).word i = (s.thread r).word i
         grid .gbar false ∧ grid .gbarT true)
       ∧ ∀ (count : Nat) (ids : List Nat),
         (old.init = false ∨ old.broken = true ∨ count = 0 → exec (.barrierRemoteArrival tk n.toNat count ids) s = .next s)
         ∧ (old.init = true → old.broken = false → 0 < count → old.arr + count < old.exp →
           ∃ t, exec (.barrierRemoteArrival tk n.toNat count ids) s = .next t ∧ t.ctxs = s.ctxs
             ∧ ((t.team tk).barrier n.toNat).arr = old.arr + count ∧ ((t.team tk).barrier n.toNat).phase = old.phase)
         ∧ (old.init = true → old.broken = false → 0 < count → old.exp ≤ old.arr + count →
           ∃ t, exec (.barrierRemoteArrival tk n.toNat count ids) s = .next t
             ∧ ((t.team tk).barrier n.toNat).phase = (!old.phase) ∧ ((t.team tk).barrier n.toNat).arr = 0
             ∧ ∀ p, partyOfTeam tk p = true → (s.ctx p).wait = some (.barrier n.toNat old.phase none) →
                 (t.ctx p).wait = some (.barrier n.toNat old.phase (some false))))
  ∧ (∀ (s : State) (p : Party) (n tk : Nat) (ph traps : Bool) (done : Option Bool),
       let c := { s with cur := p }
       let act := s.waitLanes p
       let breaks : Prop := exec (.barrierWaitEnd p) s = .next (c.raise { cause := 0x11, lanes := act, after := true })
       s.teamOf p = some tk → streamOf p ≠ .helper →
         ((s.ctx p).wait = some (.barrier n ph done) →
           ((((s.team tk).barrier n).broken = true ∨ done = some true) → breaks)
           ∧ (((s.team tk).barrier n).broken = false → done = some false → s.olderOut p = true →
             exec (.barrierWaitEnd p) s = .next c)
           ∧ (((s.team tk).barrier n).broken = false → done = some false → s.olderOut p = false →
             ∃ t, exec (.barrierWaitEnd p) s = .next t ∧ GoesOn c t ∧ t.mem = s.mem ∧ ∀ r, SameRegs s t r)
           ∧ (((s.team tk).barrier n).broken = false → done = none → exec (.barrierWaitEnd p) s = .next c))
         ∧ ((s.ctx p).wait = some (.gbar traps done) →
           let broke : Prop := done = some true ∨ s.gridBroken tk = true
           (traps = true → done ≠ some false → broke → breaks)
           ∧ ((done = some false ∨ (traps = false ∧ broke)) →
             ∃ t, exec (.barrierWaitEnd p) s = .next t ∧ GoesOn c t ∧ t.mem = s.mem
               ∧ (∀ r i, (t.thread r).word i = (s.thread r).word i)
               ∧ ∀ r q, (t.thread r).pred q =
                   if traps = false ∧ q = 1 ∧ r ∈ act.map (·.ref) then decide (done ≠ some false) else (s.thread r).pred q)
           ∧ (done ≠ some false → ¬broke → exec (.barrierWaitEnd p) s = .next c)))

/-! ### Engines and compaction -/

/-- R319, R320, R326, R335-R337: the engine instructions. Each active lane's command enters its queue with its descriptor
as it stands in the scratchpad; a misaligned descriptor traps; a halted queue takes nothing. QFNC puts one fence into each
open queue; QWT passes once nothing older stands in its queues, and delivers a halted queue's cause; FETCHW empties its
mailbox and leaves the request.
Where those rules leave a choice, the model's own stands: notes/assumptions 55 and 58. -/
def Obligations.EngineInstructions : Prop :=
  ∀ (s : State) (n : BitVec 2) (m : BitVec 4) (a : Src) (act : List Lane) (tk : Nat),
    let q := n.toNat
    let fetching : Form := { formEngine a false with bad := false }
    let regs (t : State) : Prop := t.mem = s.mem ∧ (∀ r i, (t.thread r).word i = (s.thread r).word i)
      ∧ ∀ r p, (t.thread r).pred p = (s.thread r).pred p
    let commands (i : Instr) (k : EngKind) : Prop :=
      let f := formEngine a (decide (k = .cpy) || decide (k = .zro))
      let off (l : Lane) : Nat := ((s.srcsOf f l.ref).getD 0 0).toNat
      let desc (l : Lane) : List (BitVec 8) := (s.team tk).padBytes (off l) (descSize k)
      let c := (s.begun f).cutNow
      Issues s f act →
        (s.guardedHelper = false → ¬(s.begun f).pairWaits →
          (∀ l ∈ act, off l % 64 = 0 ∧ off l + descSize k ≤ (s.team tk).launch.z ∧ (s.team tk).badRange (off l) (descSize k) = false
            ∧ malformed k (hasStreams l.ref) (desc l) = false
            ∧ (∀ x ∈ alignedVals k (desc l), x.1 % x.2 = 0)
            ∧ ∀ x ∈ padRanges k (desc l), 0 ≤ x.2.1 ∧ x.2.2 ≤ ((s.team tk).launch.z : Int)) →
          (((s.team tk).engine q).halted = none → ((s.team tk).engine q).entries.length + act.length ≤ 64 →
            ∃ (t : State) (cs : List EngCmd), exec i s = .next t ∧ GoesOn s t ∧ regs t
              ∧ ((t.team tk).engine q).entries = ((c.team tk).engine q).entries ++ cs.map .cmd
              ∧ cs.map (fun (x : EngCmd) => (x.kind, x.desc, x.ref, x.done)) = act.map fun l => (k, desc l, l.ref, 0))
          ∧ (((s.team tk).engine q).halted ≠ none → ∃ t, exec i s = .next t ∧ GoesOn s t ∧ regs t
              ∧ (t.team tk).engine q = (c.team tk).engine q))
        ∧ (s.guardedHelper = false → ∀ l ls, act = l :: ls → (∀ x ∈ act, off x % 64 ≠ 0) →
          exec i s = .next ((s.begun f).raise { cause := 0x04, lanes := act, addr := off l }))
        ∧ (s.guardedHelper = true → exec i s = .next ((s.begun f).raiseCause act 0x10))
    let ff : Form := { headland := true, service := false, pfxG := true }
    let b := s.begun ff
    let mark := match b.cctx.wait with | some (.queues _ x) => x | _ => s.nextId
    let older (q : Nat) : Prop := ∃ e ∈ ((s.team tk).engine q).entries, e.id < mark
    s.teamOf s.cur = some tk →
      commands (.cpy n a) .cpy ∧ commands (.zro n a) .zro ∧ commands (.gth n a) .gth ∧ commands (.sca n a) .sca
      ∧ (Issues s ff act →
        (∀ q ∈ maskQueues m, ((s.team tk).engine q).halted = none → ((s.team tk).engine q).entries.length < 64) →
        ∃ t, exec (.qfnc m) s = .next t ∧ Advances s t ∧ regs t ∧ ∀ q, q < 4 → (t.team tk).engine q =
          if m.getLsbD q = true ∧ ((s.team tk).engine q).halted = none then
            { (s.team tk).engine q with entries := ((s.team tk).engine q).entries ++ [.fence s.nextId m] }
          else (s.team tk).engine q)
      ∧ (Issues s ff act → s.guardedHelper = false → ¬b.pairWaits →
        ((∃ q ∈ maskQueues m, older q) → ∃ t, exec (.qwt m) s = .next t ∧ WaitsIn s t (.queues m mark) ∧ regs t)
        ∧ ((∀ q ∈ maskQueues m, ¬older q) →
          ((∀ q ∈ maskQueues m, ((s.team tk).engine q).halted = none) → ∃ t, exec (.qwt m) s = .next t ∧ GoesOn s t ∧ regs t)
          ∧ (∀ q h, (maskQueues m).find? (fun q => ((s.team tk).engine q).halted.isSome) = some q →
              ((s.team tk).engine q).halted = some h →
              exec (.qwt m) s = .next ((b.cutNow.onEngine tk q fun e => { e with halted := none }).raise
                { cause := h.1, lanes := act, addr := h.2.1, aux := h.2.2, defer := true }))))
      ∧ (∀ l ls, act = l :: ls → Issues s (fetching) act →
        let off := ((s.srcsOf (fetching) l.ref).getD 0 0).toNat
        s.guardedHelper = false → ¬(s.begun (fetching)).pairWaits → s.inShadow = false →
        ((s.team tk).pair = .none ∨ ∃ x, (s.team tk).pair = .primary x ∧ x ≠ tk ∧ streamOf s.cur ≠ .helper) →
        off % 16 = 0 → off + 16 ≤ (s.team tk).launch.z →
        ∃ t, exec (.fetchw a) s = .next t ∧ GoesOn s t ∧ regs t ∧ (t.team tk).fetches = (s.team tk).fetches ++ [off]
          ∧ (t.team tk).pad = (s.team tk).pad
          ∧ ∀ x, x ∈ (t.team tk).full ↔ x ∈ (s.team tk).full ∧ ∀ i, i < 4 → x ≠ off + 4 * i)

/-- R321-R324, R329, R331-R333, R335, R337: the steps of the engines. A command at the head of its queue performs its next
unit, in order: CPY and ZRO one element, in scratchpad or memory; GTH a row, into scratchpad or memory, or one word of it into
its thread's stream; SCA one add at the home slice. The memory is in reach, valid or registered to the team, with no other
request ahead; no data read is in error. A parked queue tries again after a PTUPD, a fence that all its queues have reached
goes, and the distributor answers a FETCHW with the next team of the grid.
Where those rules leave a choice, the model's own stands: notes/assumptions 56 and 57. -/
def Obligations.EngineSteps : Prop :=
  ∀ (s : State) (tk q : Nat) (c : EngCmd),
    let z := (s.team tk).pad
    let d := copyDesc c.desc
    let g := gatherDesc c.desc
    let src := shapeAddr (d.srcAt c.done)
    let dst := shapeAddr (d.dstAt c.done)
    let padBytes (a n : Nat) : List (BitVec 8) := (upto n).map fun i => tgetD (a + i) 0 z
    let reached (k : Access) (va pa : Nat) : Prop :=
      match ((s.team tk).engine q).trans.find? fun x => decide (x.va = va) && decide (x.kind = k) with
      | some x => x.pa = pa
      | none => va < 2 ^ 60 ∧ ∃ l, tlbFind (s.cmem (s.agentOf (engParty tk q))).tlb (s.team tk).launch.asn va = some l
          ∧ s.checkPa false k l va = .ok pa
    let ready (k : Access) (va pa n : Nat) : Prop := va % n = 0 ∧ pa % n = 0 ∧ s.target pa = .mem ∧ reached k va pa
      ∧ ∀ i, i < n → let w := (pa + i) % 2 ^ 44 / 4 * 4
          s.target ((pa + i) / 4 * 4) = .mem ∧ s.contained w = false ∧ s.poisoned w = false ∧ s.unasked w
            ∧ (s.wordSt w = none ∨ s.ownsWord (s.ownerOf (engParty tk q)) w = true)
    let holds (pad : Bool) (a n : Nat) (bs : List (BitVec 8)) : Prop :=
      if pad then (s.team tk).badRange a n = false ∧ bs = padBytes a n
      else ∃ pa, ready .read a pa n ∧ bs = mgets (pa % 2 ^ 44) n s.mem
    let went (t : State) (c' : EngCmd) : Prop := (t.team tk).engine q =
      { (s.team tk).engine q with
        trans := []
        parked := none
        entries := if c'.units ≤ c'.done ∧ c'.row = [] then ((s.team tk).engine q).entries.drop 1
          else .cmd c' :: ((s.team tk).engine q).entries.drop 1 }
    let wrotePad (t : State) (a : Nat) (bs : List (BitVec 8)) : Prop := t.mem = s.mem ∧ ∀ x, tgetD x 0 (t.team tk).pad =
      if a ≤ x ∧ x < a + bs.length then bs.getD (x - a) 0 else tgetD x 0 z
    let wroteMem (t : State) (a : Nat) (bs : List (BitVec 8)) : Prop := (t.team tk).pad = z
      ∧ ∀ x, mget x t.mem = if a ≤ x ∧ x < a + bs.length then bs.getD (x - a) 0 else mget x s.mem
    let copies (i : Instr) (bytes : List (BitVec 8)) : Prop :=
      (d.dsp = true → (s.team tk).badPart dst d.size = false →
          ∃ t, exec i s = .next t ∧ wrotePad t dst bytes ∧ went t { c with done := c.done + 1 })
      ∧ (∀ pa, d.dsp = false → ready .write dst pa d.size →
          ∃ t, exec i s = .next t ∧ wroteMem t (pa % 2 ^ 44) bytes ∧ went t { c with done := c.done + 1 }
            ∧ t.ownsWord (s.ownerOf (engParty tk q)) (pa % 2 ^ 44 / 4 * 4) = true)
    let index (i r : Nat) : Prop := r < g.nrows ∧ ∃ bs, holds g.isp (g.idxAt i) g.iw bs ∧ r = bytesNat bs
    Memory.wf s.mem = true →
      (s.engineHead tk q .cpy = some c →
        ∀ bs, holds d.ssp src d.size bs → copies (.cpyPerform tk q) bs)
      ∧ (s.engineHead tk q .zro = some c → copies (.zroPerform tk q) (natBytes d.size 0))
      ∧ (s.engineHead tk q .gth = some c →
        (∀ (r : Nat) (pa : Nat → Nat), c.row = [] → c.done < g.nidx → index c.done r → 4 ≤ g.rowb → g.rowb % 4 = 0 →
          (∀ i, i < g.rowb / 4 → ready .read (g.base + r * g.rstr + 4 * i) (pa i) 4) →
          let words := (upto (g.rowb / 4)).map fun i => mword (pa i % 2 ^ 44) s.mem
          (g.dk = 0 → ∃ t, exec (.gthPerform tk q) s = .next t ∧ t.mem = s.mem ∧ (t.team tk).pad = z
            ∧ went t { c with done := c.done + 1, row := words })
          ∧ (g.dk = 1 → ∃ t, exec (.gthPerform tk q) s = .next t
            ∧ wrotePad t (g.data + c.done * g.rowb) (words.flatMap fun w => natBytes 4 w.toNat)
            ∧ went t { c with done := c.done + 1 })
          ∧ ∀ (pb : Nat → Nat), g.dk = 2 →
            (∀ i, i < g.rowb / 4 → ready .write (g.data + c.done * g.rowb + 4 * i) (pb i) 4) →
            ∃ t, exec (.gthPerform tk q) s = .next t ∧ (t.team tk).pad = z ∧ went t { c with done := c.done + 1 }
              ∧ ∀ x, mget x t.mem = ((upto (g.rowb / 4)).foldl (fun acc i =>
                  let at_ := pb i % 2 ^ 44
                  if at_ ≤ x ∧ x < at_ + 4 then some (byteAt (words.getD i 0) (x - at_)) else acc) none).getD (mget x s.mem))
        ∧ (∀ w rest, c.row = w :: rest → (s.thread c.ref).live = false →
          ∃ t, exec (.gthPerform tk q) s = .next t ∧ t.mem = s.mem ∧ went t { c with row := [] })
        ∧ (∀ w rest, c.row = w :: rest → (s.thread c.ref).live = true →
          (tgetD g.gs [] (s.thread c.ref).streams).length < 16 →
          ∃ t, exec (.gthPerform tk q) s = .next t ∧ went t { c with row := rest }
            ∧ tgetD g.gs [] (t.thread c.ref).streams = tgetD g.gs [] (s.thread c.ref).streams ++ [w]))
      ∧ (s.engineHead tk q .sca = some c → ∀ (r pa : Nat) (bs : List (BitVec 8)),
        let per := g.rowb / g.esize
        let va := g.base + r * g.rstr + c.done % per * g.esize
        let at_ := pa % 2 ^ 44
        let x := bytesNat bs
        let old := bytesNat (mgets at_ g.esize s.mem)
        c.done < c.units → holds g.ssp (g.data + c.done / per * g.rowb + c.done % per * g.esize) g.esize bs →
        (if c.done % per = 0 then index (c.done / per) r else r = c.ix) → ready .atomic va pa g.esize →
        ∃ t, exec (.scaPerform tk q) s = .next t ∧ went t { c with done := c.done + 1, ix := r }
          ∧ wroteMem t at_ (natBytes g.esize (if g.sfmt < 2 then old + x
              else (fadd (if g.esize = 8 then fmt64 else fmt32) .rn old x).bits)))
      ∧ (∀ x, ((s.team tk).engine q).parked = some x →
        (x.waiting = true ∧ x.due = true → ∃ t, exec (.engineQueueRetry tk q) s = .next t ∧ t.mem = s.mem
          ∧ (t.team tk).engine q = { (s.team tk).engine q with parked := some { x with waiting := false, due := false } })
        ∧ (¬(x.waiting = true ∧ x.due = true) → exec (.engineQueueRetry tk q) s = .next s))
      ∧ (∀ id, (∀ k, k < 4 → ∀ i, ((s.team tk).engine k).headFence = some i → i = id) →
        (∀ k, k < 4 → ((s.team tk).engine k).holdsFence id = true → ((s.team tk).engine k).headFence = some id) →
        (∀ k, k < 4 → ({ (s.team tk).engine k with entries := ((s.team tk).engine k).entries.drop 1 } : EngQueue).holdsFence id = false) →
        ∃ t, exec (.qfncRelease tk) s = .next t ∧ ∀ k, k < 4 → (t.team tk).engine k =
          if ((s.team tk).engine k).headFence = some id then
            { (s.team tk).engine k with entries := ((s.team tk).engine k).entries.drop 1 }
          else (s.team tk).engine k)
      ∧ (∀ off rest, (s.team tk).fetches = off :: rest → (s.team tk).resident = true →
        (∀ x, (s.team tk).pair = .primary x → x ≠ tk) →
        let answers (vals : List Nat) (t : State) : Prop := exec (.fetchwAnswer tk) s = .next t ∧ (t.team tk).fetches = rest
          ∧ (∀ i, i < 4 → (t.team tk).padRead (off + 4 * i) 4 = vals.getD i 0 % 2 ^ 32 ∧ off + 4 * i ∈ (t.team tk).full)
          ∧ (∀ x, x < off ∨ off + 16 ≤ x → tgetD x 0 (t.team tk).pad = tgetD x 0 z)
        (∀ r, s.recordOf (s.team tk).launch = some r → r.next < recTeams r.bits →
          let k := recDims r.bits
          ∃ t, answers [r.next % k.1, r.next / k.1 % k.2.1, r.next / k.1 / k.2.1, 0] t
            ∧ (t.team tk).withdrawn = (s.team tk).withdrawn ++ [(r.next % k.1, r.next / k.1 % k.2.1, r.next / k.1 / k.2.1)]
            ∧ { r with next := r.next + 1 } ∈ t.pkg.records)
        ∧ ((∀ r, s.recordOf (s.team tk).launch = some r → recTeams r.bits ≤ r.next) → ∃ t, answers [0, 0, 0, 1] t))

/-- R339-R343, R427: APPEND, once its release at package scope is done and there is room, puts each lane's item at the end of
its list; TAKE gives each lane the oldest item of its list, with p1 and a lease, or zeros; QUIES ends its lanes' leases
and returns when its list holds an item (p1 false) or the address space is quiescent (p1 true), and waits otherwise. Without
lists all three trap with cause 0x06, AUX 0x10.
Where those rules leave a choice, the model's own stands: notes/assumptions 59. -/
def Obligations.Compaction : Prop :=
  ∀ (s : State) (d : Dest) (n : BitVec 2) (a b : Src) (act : List Lane) (tk : Nat) (p : Party),
    let asn := s.asnOf s.cur
    let w := itemWords n
    let fa : Form := { formWork a with bad := b.cls || b.pop || decide (b.ix.toNat % w ≠ 0) || decide (32 < b.ix.toNat + w) }
    let ft : Form := { formWork a with bad := d.cls || decide (d.ix.toNat % 4 ≠ 0) }
    let fq := formWork a
    let list (l : Lane) : Nat := (src32 (s.srcsOf fq l.ref) 0).toNat % 256
    let item (l : Lane) : List Word := (upto w).map fun i => slot32 l.ref (s.thread l.ref) (b.ix.toNat + i)
    let items (s : State) (x : Nat) : List (List Word) := (s.workLists asn).items x
    let single : Prop := (s.team tk).pair = .none ∨ ∃ x, (s.team tk).pair = .primary x ∧ x ≠ tk ∧ streamOf s.cur ≠ .helper
    let free (f : Form) : Prop := s.guardedHelper = false ∧ ¬(s.begun f).pairWaits ∧ s.inShadow = false
    let ends (s : State) (act : List Lane) (t : State) (p1 : Bool) : Prop := GoesOn s t ∧ t.mem = s.mem
      ∧ (∀ l ∈ act, (t.thread l.ref).p1 = p1 ∧ (t.thread l.ref).lease = none)
      ∧ (∀ x, items t x = items s x) ∧ ∀ r i, (t.thread r).word i = (s.thread r).word i
    let quiet (s : State) (act : List Lane) : Prop := (∀ x ∈ (s.workLists asn).lists, x.2 = []) ∧ (s.workLists asn).inFlight = []
      ∧ (s.threads.map (·.1)).Nodup
      ∧ ∀ x ∈ s.threads, x.1 ∉ act.map (·.ref) → ∀ l, x.2.lease = some l → l.asn ≠ asn
    let traps (i : Instr) (f : Form) : Prop := Issues s f act → s.guardedHelper = false → (s.workLists asn).valid = false →
      exec i s = .next ((s.begun f).raise { cause := 0x06, lanes := act, aux := 0x10 })
    s.teamOf s.cur = some tk → single →
      (traps (.append n a b) fa ∧ traps (.take d a) ft ∧ traps (.quies a) fq)
      ∧ ((s.workLists asn).valid = true → Issues s fa act → free fa → (s.begun fa).canRelease .package allRegions →
        (∀ x, (items s x).length + (act.filter fun l => decide (list l = x)).length ≤ 2 ^ (s.workLists asn).k) →
        ∃ t, exec (.append n a b) s = .next t ∧ GoesOn s t ∧ t.mem = s.mem
          ∧ (∀ x, items t x = items s x ++ (act.filter fun l => decide (list l = x)).map item)
          ∧ ∀ r i, (t.thread r).word i = (s.thread r).word i)
      ∧ ((s.workLists asn).valid = true → Issues s ft act → free ft → (act.map list).Nodup →
        ∃ t, exec (.take d a) s = .next t ∧ GoesOn s t ∧ t.mem = s.mem
          ∧ (∀ l ∈ act, (t.thread l.ref).p1 = decide (items s (list l) ≠ []) ∧ items t (list l) = (items s (list l)).drop 1
            ∧ (t.thread l.ref).lease = (if items s (list l) = [] then none else some ⟨asn, list l⟩)
            ∧ ∀ i, i < 4 → slot32 l.ref (t.thread l.ref) (d.ix.toNat + i) = ((items s (list l)).headD []).getD i 0)
          ∧ (∀ x, (∀ l ∈ act, list l ≠ x) → items t x = items s x)
          ∧ ∀ r k, (∀ x tid, (s.team tk).pair = .primary x → r ≠ .compute x tid) →
              (r ∈ act.map (·.ref) → ∀ i, i < 4 → k ≠ slotWord r (s.thread r) (d.ix.toNat + i)) →
              (t.thread r).word k = (s.thread r).word k)
      ∧ ((s.workLists asn).valid = true → Issues s fq act → free fq → ∀ l ls, act = l :: ls →
        (items s (list l) ≠ [] → ∃ t, exec (.quies a) s = .next t ∧ ends s act t false)
        ∧ (quiet s act → ∃ t, exec (.quies a) s = .next t ∧ ends s act t true)
        ∧ (items s (list l) = [] → (∃ r o, r ∉ act.map (·.ref) ∧ (s.thread r).lease = some o ∧ o.asn = asn
              ∧ s.shadowRef r = false ∧ (tget r s.threads).isSome = true) →
            ∃ t, exec (.quies a) s = .next t ∧ (∃ pops, WaitsIn s t (.quies (list l) pops))
              ∧ ∀ x ∈ act, (t.thread x.ref).lease = none))
      ∧ (∀ l pops, p = s.cur → (s.ctx p).wait = some (.quies l pops) →
        (s.quiescent asn = false → items s l ≠ [] →
          ∃ t, exec (.quiesWake p) s = .next t ∧ ends s (s.waitLanes p) t false)
        ∧ (quiet s [] → ∃ t, exec (.quiesWake p) s = .next t ∧ ends s (s.waitLanes p) t true)
        ∧ (s.quiescent asn = false → items s l = [] →
            ∃ t, exec (.quiesWake p) s = .next t ∧ WaitsIn s t (.quies l pops) ∧ t.mem = s.mem ∧ t.threads = s.threads))

/-! ### Traps, special registers, system calls, tables -/

/-- R169, R174, R177-R180, R182, R426: TRAP k traps with cause 0x16 and AUX k, and resumes behind itself: a group's record, of
32 bytes at its handle, holds cause, lanes and PC once the device may write there (R480), its gang is faulted and a notice
goes out; the headland has a record of its own; a service thread saves PC, cause and address and goes on at sr.tvec, but a
second trap halts it; helpers stop, faulted.
Where those rules leave a choice, the model's own stands: notes/assumptions 20 and 95. -/
def Obligations.Exceptions : Prop :=
  ∀ (s : State) (k : BitVec 14) (act : List Lane),
    let f : Form := { headland := true, pfxG := true }
    let resume : VAddr := (s.ctx s.cur).pc + BitVec.ofNat 60 (4 * (s.ctx s.cur).run.len) + 4
    let record (lane : Nat) (mask : BitVec 64) : Nat :=
      k.toNat + lane * 2 ^ 36 + 0x16 * 2 ^ 56 + resume.toNat * 2 ^ 64 + mask.toNat * 2 ^ 192
    let recorded (h : Nat) (r : Nat) (t : State) : Prop := Memory.wf s.mem = true → s.devPending = [] →
      (∀ i, i < 32 → let w := (h % 2 ^ 44 + i) / 4 * 4; s.isLost w = false ∧ s.devReady w = true) →
        mgets (h % 2 ^ 44) 32 t.mem = natBytes 32 r
          ∧ ∀ a, a < h % 2 ^ 44 ∨ h % 2 ^ 44 + 32 ≤ a → mget a t.mem = mget a s.mem
    let told (t : State) : Prop := ∃ n : BitVec 512, t.pkg = { s.pkg with notices := s.pkg.notices ++ [n] } ∧ bits n.toNat 7 0 = 0x16
    let stands (t : State) (p : Party) : Prop := (t.ctx p).pc = resume ∧ (t.ctx p).run = HintRun.empty ∧ (t.ctx p).wait = none
      ∧ (t.ctx p).m = (s.ctx p).m ∧ (t.ctx p).stack = (s.ctx p).stack
    let regs (t : State) : Prop := ∀ r, SameRegs s t r
    Issues s f act →
      (∀ tk gid q l ls, s.cur = .gang tk gid q → act = l :: ls → (∀ x ∈ act, x.ix < 64) →
        ∃ t, exec (.trap k) s = .next t ∧ (t.group tk gid).faulted = some (gangQuads (s.gang s.cur))
          ∧ (∀ p ∈ s.gang s.cur, stands t p) ∧ recorded ((s.team tk).ctxBase + 0x80 + 32 * gid) (record l.ix (laneMask act)) t
          ∧ (∀ j, j < 64 → ((laneMask act).getLsbD j = true ↔ ∃ x ∈ act, x.ix = j)) ∧ told t ∧ regs t)
      ∧ (∀ tk, s.cur = .headland tk → ∃ t, exec (.trap k) s = .next t ∧ (t.team tk).hFaulted = true ∧ stands t s.cur
          ∧ recorded ((s.team tk).ctxBase + 0x40) (record 0 1) t ∧ told t ∧ regs t)
      ∧ (∀ n, s.cur = .service n →
        ((s.service n).einfo.getLsbD 63 = false → ∃ t, exec (.trap k) s = .next t ∧ t.mem = s.mem ∧ regs t
          ∧ (t.service n).epc = resume.zeroExtend 64 ∧ (t.service n).eaddr = 0 ∧ (t.service n).tvec = (s.service n).tvec
          ∧ (t.service n).einfo = BitVec.ofNat 64 (0x16 + k.toNat * 2 ^ 16 + 2 ^ 63)
          ∧ (t.ctx s.cur).pc.toNat = (s.service n).tvec.toNat % 2 ^ 60 / 4 * 4 ∧ (t.ctx s.cur).run = HintRun.empty)
        ∧ ((s.service n).einfo.getLsbD 63 = true → ∃ t, exec (.trap k) s = .next t ∧ t.mem = s.mem ∧ regs t
          ∧ (t.service n).halted = true ∧ (t.service n).einfo = (s.service n).einfo ∧ (t.service n).epc = (s.service n).epc
          ∧ (tgetD (n / 64) 0 t.pkg.schalt).getLsbD (n % 64) = true))
      ∧ ∀ c q, s.cur = .helper c q → ∃ t, exec (.trap k) s = .next t ∧ t.mem = s.mem
          ∧ ∀ fr, .helper c fr ∈ act.map (·.ref) → (t.helper c fr).st = .faulted 0x16

/-- R46, R159, R176, R177, R426: RTE goes on at sr.epc, with bits [1:0] of the PC zero, and clears IT. RTE.GRP, after its
release, resumes the stream that its handle names at the PC of the record as it stands, or fails its team with the record's
cause. After the fault of a context save, with the record's PC as it was, the group goes on as it stood and COUNT is that of the
write-back. p1 tells whether the handle named one.
Where those rules leave a choice, the model's own stands: notes/assumptions 26, 101 and 106. -/
def Obligations.Returns : Prop :=
  ∀ (s : State) (n : Nat) (a b : Src) (l : Lane),
    let f : Form := { priv := true, pfxG := true }
    let fg : Form := { priv := true, pfxG := true, srcs := [r64 a, r32 b] }
    let h := ((s.srcsOf fg l.ref).getD 0 0).toNat
    let action := ((s.srcsOf fg l.ref).getD 1 0).toNat % 2 ^ 8
    let rec_ := s.devRead (h % 2 ^ 44) 32
    let ebbc (tk : Nat) : Nat := s.devRead ((s.team tk).ctxBase % 2 ^ 44 + 8) 8
    let told (t : State) (p1 : Bool) : Prop := GoesOn s t ∧ (t.thread l.ref).p1 = p1
    s.cur = .service n →
      (Issues s f [l] → ∃ t, exec .rte s = .next t ∧ t.mem = s.mem ∧ (∀ r, SameRegs s t r)
        ∧ (t.ctx s.cur).pc.toNat = (s.service n).epc.toNat % 2 ^ 60 / 4 * 4 ∧ (t.ctx s.cur).run = HintRun.empty
        ∧ (∀ i, i < 64 → (t.service n).einfo.getLsbD i = (decide (i ≠ 63) && (s.service n).einfo.getLsbD i))
        ∧ { t.service n with einfo := (s.service n).einfo } = s.service n)
      ∧ (Issues s fg [l] → (s.begun fg).canRelease .package allRegions →
        (∀ tk gid qs, s.handleOf h = .group tk gid → (s.group tk gid).faulted = some qs → action = 0 → bits rec_ 65 64 = 0 →
          let pc : VAddr := BitVec.ofNat 60 (bits rec_ 123 64)
          let left : Prop := (s.group tk gid).saved.isSome = true ∧ ∀ q ∈ qs, (s.ctx (.gang tk gid q)).pc = pc
          ∃ t, exec (.rteGrp a b) s = .next t ∧ told t true ∧ (t.group tk gid).faulted = none
            ∧ (¬left → (t.group tk gid).saved = none ∧ ∀ q ∈ qs, (t.ctx (.gang tk gid q)).pc = pc
                ∧ (t.ctx (.gang tk gid q)).count = bits rec_ 35 31 ∧ (t.ctx (.gang tk gid q)).run = HintRun.empty
                ∧ (t.ctx (.gang tk gid q)).m = (s.ctx (.gang tk gid q)).m)
            ∧ (left → (t.group tk gid).saved = some (bits rec_ 35 31)
                ∧ ∀ q ∈ qs, t.ctx (.gang tk gid q) = s.ctx (.gang tk gid q))
            ∧ (t.team tk).allow = ebbc tk % 2 ^ 32 ∧ (t.team tk).pol = (ebbc tk).testBit 32 ∧ t.mem = s.mem)
        ∧ (∀ tk, s.handleOf h = .headland tk → action = 0 → bits rec_ 65 64 = 0 →
          ∃ t, exec (.rteGrp a b) s = .next t ∧ told t true ∧ (t.team tk).hFaulted = false
            ∧ (t.ctx (.headland tk)).pc = BitVec.ofNat 60 (bits rec_ 123 64))
        ∧ (∀ tk gid, s.handleOf h = .group tk gid ∨ s.handleOf h = .headland tk → action ≤ 1 →
            (action = 1 ∨ bits rec_ 65 64 ≠ 0) → (s.team tk).failed = none →
          ∃ t, exec (.rteGrp a b) s = .next t ∧ told t true
            ∧ (t.team tk).failed = some (if action = 1 then BitVec.ofNat 8 (bits rec_ 63 56) else 0x04))
        ∧ ((s.handleOf h = .nothing ∨ 1 < action) → ∃ t, exec (.rteGrp a b) s = .next t ∧ told t false
            ∧ t.mem = s.mem ∧ t.groups = s.groups ∧ t.teams = s.teams))

/-- R8, R104, R173, R174: RDSR gives each active lane the register of its number, WRSR writes it in each active thread with
its reserved fields zero; sr.fflags keeps the flags of matrix steps that no team barrier orders before the WRSR. Neither
changes anything else.
Where those rules leave a choice, the model's own stands: notes/assumptions 89 and 100. -/
def Obligations.SpecialRegisters : Prop :=
  ∀ (s : State) (d : Dest) (a : Src) (r : BitVec 7) (act : List Lane),
    let registers : List (Nat × Sr) := [(0, .fflags), (1, .fmask), (2, .xstat), (3, .wbase), (4, .teamyz), (5, .time),
      (16, .tvec), (17, .epc), (18, .einfo), (19, .eaddr)]
    let wide (x : Sr) : Bool := decide (x ∈ [.time, .tvec, .epc, .einfo, .eaddr])
    let mine (x : Sr) : Bool := decide (x ∈ [.tvec, .epc, .einfo, .eaddr])
    let fr (x : Sr) : Form := { headland := true, pfxG := true, priv := mine x, dest := some (d, wide x), bad := d.cls
                                badEnc := decide (x = .wbase ∧ streamOf s.cur = .headland) }
    let fw (x : Sr) : Form := { headland := true, pfxG := true, priv := mine x, srcs := [⟨a, wide x, false⟩] }
    let value (l : Lane) (x : Sr) : DWord :=
      let t := s.thread l.ref
      let v := match l.ref with | .service n => s.service n | _ => Service.fresh
      match x with
      | .fflags => t.fflags.zeroExtend 64
      | .fmask => t.fmask.zeroExtend 64
      | .xstat => t.xstat.zeroExtend 64
      | .wbase => match l.ref with | .helper _ _ => 0 | _ => t.wb.zeroExtend 64
      | .teamyz => match s.recruiter l.ref with
        | .compute tk _ | .headland tk =>
          BitVec.ofNat 64 ((s.team tk).launch.ty % 2 ^ 16 + (s.team tk).launch.tz % 2 ^ 16 * 2 ^ 16)
        | _ => 0
      | .time => s.time
      | .tvec => v.tvec
      | .epc => v.epc
      | .einfo => v.einfo
      | .eaddr => v.eaddr
    let new (x : Sr) (l : Lane) : DWord := (s.srcsOf (fw x) l.ref).getD 0 0
    ∀ x, (r.toNat, x) ∈ registers →
      (Issues s (fr x) act → ∃ t, exec (.rdsr d r) s = .next t ∧ Advances s t ∧ SameBesides s t
        ∧ (∀ l ∈ act, destValue l.ref (t.thread l.ref) d (wide x) = resultOf (wide x) (value l x))
        ∧ (∀ y i, (y ∈ act.map (·.ref) → i ∉ destWords y (s.thread y) d (wide x)) → (t.thread y).word i = (s.thread y).word i)
        ∧ ∀ y q, (t.thread y).pred q = (s.thread y).pred q ∧ (t.thread y).fflags = (s.thread y).fflags
            ∧ (t.thread y).xstat = (s.thread y).xstat)
      ∧ (Issues s (fw x) act → x ∉ [.wbase, .teamyz, .time] → ∃ t, exec (.wrsr a r) s = .next t ∧ Advances s t
        ∧ SameBesides s { t with services := s.services }
        ∧ (mine x = false → t.services = s.services)
        ∧ (∀ y, { t.thread y with
              streams := (s.thread y).streams, hr := (s.thread y).hr, count := (s.thread y).count } =
            match act.find? fun l => decide (l.ref = y) with
            | none => s.thread y
            | some l => match x with
              | .fflags => { s.thread y with
                  fflags := (s.thread y).mxFlags.foldl (fun f z => f ||| z.flags) 0 ||| (new x l).extractLsb' 0 5 }
              | .fmask => { s.thread y with fmask := (new x l).extractLsb' 0 5 }
              | .xstat => { s.thread y with xstat := (new x l).extractLsb' 0 4 }
              | _ => s.thread y)
        ∧ ∀ n l, s.cur = .service n → act = [l] → t.service n = match x with
            | .tvec => { s.service n with tvec := new x l &&& 0x0FFFFFFFFFFFFFFC }
            | .epc => { s.service n with epc := new x l &&& 0x0FFFFFFFFFFFFFFF }
            | .einfo => { s.service n with einfo := new x l &&& 0x800000FFFFFF00FF }
            | .eaddr => { s.service n with eaddr := new x l &&& 0x0FFFFFFFFFFFFFFF }
            | _ => s.service n)

/-- R170-R172, R175, R428, R431, R432: YIELD passes; SLEEP of n passes and its gang sleeps for n ac, and a
pending wake of a service thread ends it at once; SYSC and SYSC.TRY place one call for all active lanes and wait, and wait
for room, or answer 0x14 with p1 true; the replies go to v0 and v1 once every lane is answered.
Where those rules leave a choice, the model's own stands: notes/assumptions 39 and 46, for the reply slot of a helper 116. -/
def Obligations.SystemCalls : Prop :=
  ∀ (s : State) (a : Src) (k : BitVec 14) (act : List Lane) (p : Party) (c : Call),
    let f : Form := { headland := true, pfxG := true }
    let fs : Form := { headland := true, pfxG := true, srcs := [r32 a] }
    let n := match act with | l :: _ => (src32 (s.srcsOf fs l.ref) 0).toNat | [] => 0
    let wake : Prop := ∃ i, s.cur = .service i ∧ (s.service i).wake = true
    let cut := (s.begun f).cutNow
    let r := (s.begun f).released .package allRegions
    let single : Prop := ∀ tk, s.teamOf s.cur = some tk → ∀ x, (s.team tk).pair = .primary x → x ≠ tk ∧ streamOf s.cur ≠ .helper
    let called (t : State) (try_ : Bool) : Prop := ∃ id, WaitsIn s t (.call id)
      ∧ t.pkg.calls = s.pkg.calls ++ [⟨id, s.cur, try_, act.map fun l => ⟨l.ref, s.replySlot l.ref, false⟩⟩]
      ∧ ∀ y i, (t.thread y).word i = (s.thread y).word i
    let refused (t : State) : Prop := GoesOn s t ∧ t.pkg.calls = s.pkg.calls ∧ t.mem = s.mem
      ∧ ∀ l ∈ act, slot32 l.ref (t.thread l.ref) 0 = 0x14 ∧ (t.thread l.ref).p1 = true
    (∀ act, Issues s f act → ∃ t, exec .yield s = .next t ∧ Passes s t f act)
    ∧ (Issues s fs act →
      (wake → ∃ t, exec (.sleep a) s = .next t ∧ GoesOn s t ∧ t.mem = s.mem ∧ ∀ i, s.cur = .service i → (t.service i).wake = false)
      ∧ (¬wake → n = 0 → ∃ t, exec (.sleep a) s = .next t ∧ Passes s t fs act)
      ∧ (¬wake → 0 < n → ∃ t, exec (.sleep a) s = .next t ∧ t.mem = s.mem ∧ (∀ x, SameRegs s t x)
        ∧ ∀ x ∈ s.gang s.cur, (t.ctx x).wait = some (.sleep (some (s.time.toNat + n))) ∧ (t.ctx x).m = (s.ctx x).m
            ∧ (t.ctx x).pc = (s.ctx x).pc + BitVec.ofNat 60 (4 * (s.ctx x).run.len) + 4 ∧ (t.ctx x).run = HintRun.empty))
    ∧ (∀ d, (s.ctx p).wait = some (.sleep (some d)) →
      (s.time.toNat < d → exec (.sleepDeadline p) s = .next s)
      ∧ (d ≤ s.time.toNat → ∃ t, exec (.sleepDeadline p) s = .next t ∧ t.mem = s.mem ∧ t.threads = s.threads
        ∧ (t.ctx p).wait = none ∧ (t.ctx p).pc = (s.ctx p).pc ∧ (t.ctx p).m = (s.ctx p).m))
    ∧ (Issues s f act → single → s.inShadow = false → (s.begun f).canRelease .package allRegions →
      (act.length ≤ r.callRoom → (∃ t, exec (.sysc k) s = .next t ∧ called t false)
        ∧ (act.length ≤ cut.callRoom → ∃ t, exec (.syscTry k) s = .next t ∧ called t true))
      ∧ (r.callRoom < act.length →
        (∃ t, exec (.sysc k) s = .next t ∧ WaitsIn s t (.ring s.nextId k) ∧ t.pkg.calls = s.pkg.calls ∧ t.mem = s.mem)
        ∧ ∃ t, exec (.syscTry k) s = .next t ∧ refused t))
    ∧ (s.pkg.calls.find? (fun x => decide (x.id = c.id)) = some c → p = c.party → (s.ctx p).wait = some (.call c.id) →
      (c.parts.map (·.ref)).Nodup →
      (∀ tk, s.teamOf p = some tk → ∀ x, (s.team tk).pair = .primary x → x ≠ tk ∧ streamOf p ≠ .helper
        ∧ ∀ y ∈ c.parts, ∀ tid, y.ref ≠ .compute x tid ∧ y.ref ≠ .headland x) →
      (c.parts.all (·.answered) = false → exec (.syscReply c.id) s = .next s)
      ∧ (c.parts.all (·.answered) = true → ∃ t, exec (.syscReply c.id) s = .next t ∧ GoesOn { s with cur := p } t ∧ t.mem = s.mem
        ∧ c ∉ t.pkg.calls
        ∧ ∀ y ∈ c.parts, slot32 y.ref (t.thread y.ref) 0 = BitVec.ofNat 32 (s.devRead (y.slot % 2 ^ 44) 4)
            ∧ slot32 y.ref (t.thread y.ref) 1 = BitVec.ofNat 32 (s.devRead (y.slot % 2 ^ 44 + 4) 4)
            ∧ (t.thread y.ref).p1 = ((s.thread y.ref).p1 && !c.try_)))
    ∧ (∀ o, s.ringWaiters = [(o, p, k)] → s.waitLanes p ≠ [] → p ∈ s.gang p →
      ((s.waitLanes p).length ≤ s.callRoom → ∃ t id, exec .syscWaitlistWake s = .next t ∧ (t.ctx p).wait = some (.call id)
        ∧ t.pkg.calls = s.pkg.calls ++ [⟨id, p, false, (s.waitLanes p).map fun l => ⟨l.ref, s.replySlot l.ref, false⟩⟩])
      ∧ (s.callRoom < (s.waitLanes p).length → exec .syscWaitlistWake s = .next s))

/-- R374-R376, R369-R372, R457-R459: LOCQ gives each lane the locality word of its address, LOCQ.PA the physical address, 0
where no leaf stands: at an address that is not canonical, and for a service thread in bring-up mode; PTUPD hands its block to
the table-update engine after its release and waits, and a malformed block is answered with status 1; RCLM, once its turn at
the home slice has come (R384), gives a lost word whose owner is shut out its new value. The core's TLB holds each lane's
translation.
Where those rules leave a choice, the model's own stands: notes/assumptions 14, 29 and 88. -/
def Obligations.TableInstructions : Prop :=
  ∀ (s : State) (d : Dest) (a b : Src) (act : List Lane) (l : Lane),
    let fl (pa : Bool) : Form :=
      { headland := true, priv := pa, pfxG := true, srcs := [r64 a], dest := some (d, true), bad := d.cls }
    let va (l : Lane) : Nat := ((s.srcsOf (fl false) l.ref).getD 0 0).toNat
    let held (x : Nat) : Option Leaf := tlbFind (s.cmem (s.agentOf s.cur)).tlb (s.asnOf s.cur) x
    let untranslated : Prop := s.bm = true ∧ isService s.cur = true
    let leaf (l : Lane) : Option Leaf := if 2 ^ 60 ≤ va l ∨ (s.bm && isService s.cur) = true then none else held (va l)
    let asks (i : Instr) (pa : Bool) (val : Lane → DWord) : Prop :=
      Issues s (fl pa) act → (∀ l ∈ act, (leaf l).isSome = true ∨ 2 ^ 60 ≤ va l ∨ untranslated) →
        ∃ t, exec i s = .next t ∧ Advances s t ∧ SameBesides s t
          ∧ (∀ l ∈ act, destValue l.ref (t.thread l.ref) d true = val l)
          ∧ (∀ r k, (r ∈ act.map (·.ref) → k ∉ destWords r (s.thread r) d true) → (t.thread r).word k = (s.thread r).word k)
          ∧ ∀ r, (t.thread r).xstat = (s.thread r).xstat
    let fp : Form := { priv := true, pfxG := true, srcs := [r64 a], dest := some (d, false), bad := d.cls }
    let ea := (s.srcsOf fp l.ref).getD 0 0
    let block (pa : Nat) : BitVec 256 := BitVec.ofNat 256 (bytesNat (mgets (pa % 2 ^ 44) 32 s.mem))
    let fr : Form := { priv := true, pfxG := true, cpopIsHint := true, srcs := [r64 a, r32 b], dest := some (d, false)
                       bad := d.cls || a.cls }
    let pa := ((s.srcsOf fr l.ref).getD 0 0).toNat
    let w := pa % 2 ^ 44
    let v := src32 (s.srcsOf fr l.ref) 1
    let status (t : State) (n : Nat) : Prop := GoesOn s t ∧ destValue l.ref (t.thread l.ref) d false = BitVec.ofNat 64 n
    asks (.locq d a) false (fun l => s.localityWord (va l) (leaf l))
    ∧ asks (.locqPa d a) true (fun l => match leaf l with | some x => BitVec.ofNat 64 (x.pa (va l)) | none => 0)
    ∧ (∀ n pa, s.cur = .service n → Issues s fp [l] → ea.toNat % 32 = 0 → s.reaches .read ea pa → pa % 32 = 0 →
      (∀ i, i < 8 → s.holdsWord (pa + 4 * i)) → (s.cmem (s.agentOf s.cur)).ebb = [] →
      (s.begun fp).canRelease .package allRegions →
      (ptMalformed (block pa) = true → ∃ t, exec (.ptupd d a) s = .next t ∧ status t 1 ∧ t.table = s.table ∧ t.mem = s.mem)
      ∧ (ptMalformed (block pa) = false → s.table.command = none → ∃ t, exec (.ptupd d a) s = .next t
        ∧ WaitsIn s t (.ptupd d) ∧ t.table.command = some (n, block pa) ∧ t.mem = s.mem))
    ∧ (Issues s fr [l] →
      (pa % 4 ≠ 0 → exec (.rclm d a b) s = .next ((s.begun fr).raise { cause := 0x04, lanes := [l], addr := pa }))
      ∧ (pa % 4 = 0 → 2 ^ 56 ≤ pa →
        exec (.rclm d a b) s = .next ((s.begun fr).raise { cause := 0x06, lanes := [l], addr := pa, aux := 1 }))
      ∧ (pa % 4 = 0 → pa < 2 ^ 56 →
        (pa / 2 ^ 44 ≠ s.fab.pid.toNat → ∃ t, exec (.rclm d a b) s = .next t ∧ status t 3 ∧ t.mem = s.mem ∧ t.words = s.words)
        ∧ (pa / 2 ^ 44 = s.fab.pid.toNat → assigned w = false →
          exec (.rclm d a b) s = .next ((s.begun fr).raise { cause := 0x06, lanes := [l], addr := pa, aux := 0x20 }))
        ∧ (pa / 2 ^ 44 = s.fab.pid.toNat → assigned w = true → (s.begun fr).canRelease .system allRegions →
          s.unasked w → s.contained w = false →
          (∀ o, s.wordSt w = some (.lost o) →
            (s.shutOut o = true → Memory.wf s.mem = true → ∃ t, exec (.rclm d a b) s = .next t ∧ status t 0
              ∧ t.wordSt w = none ∧ mgets w 4 t.mem = natBytes 4 v.toNat ∧ w ∉ t.poison
              ∧ ∀ x, x < w ∨ w + 4 ≤ x → mget x t.mem = mget x s.mem)
            ∧ (s.shutOut o = false → ∃ t, exec (.rclm d a b) s = .next t ∧ status t 2 ∧ t.mem = s.mem))
          ∧ (s.wordSt w = none → ∃ t, exec (.rclm d a b) s = .next t ∧ status t 1 ∧ t.mem = s.mem))))

/-- R338, R364, R367, R368, R371, R372: a page walk gives a missing translation to the TLBs of those that wait, or notes for
them its absence or that no copy of an entry is sound. The table-update engine answers a table out of range with status 4, a
leaf that is not aligned with 3, a missing upper level with 2; a command that nothing holds up is performed as a whole: the
entry, a leaf in its whole group, or the zeroed table, stands in every replica that is left, frames that a leaf takes over are
zeroed, no TLB and no walk cache keeps a translation, and the thread has status 0.
Where those rules leave a choice, the model's own stands: notes/assumptions 29, 30 and 31. -/
def Obligations.TableEngineSteps : Prop :=
  ∀ (s : State) (n die asn vpn : Nat) (m : Miss) (x : BitVec 256) (d : Dest),
    let c := ptFields x
    let p := Party.service n
    let others (t : State) (a : Nat) : Prop := ¬s.tableByte a → mget a t.mem = mget a s.mem
    let ended (t : State) (status : Nat) : Prop := t.table.command = none ∧ GoesOn { s with cur := p } t
      ∧ ∀ l ∈ s.waitLanes p, destValue l.ref (t.thread l.ref) d false = BitVec.ofNat 64 status
    let flushed (t : State) : Prop := (∀ k, (t.cmem k).tlb = []) ∧ (∀ k, (t.cluster k).tlb = []) ∧ ∀ k, (t.die k).walks = []
    let inGroup (e i : Nat) : Prop := (leafGroup c.va c.lvl (eSpan e)).1 ≤ i ∧ i < (leafGroup c.va c.lvl (eSpan e)).1 + 4 ^ eSpan e
    let aligned : Prop := pfnAligned c.lvl c.e = true ∧ c.va % 2 ^ leafLog c.lvl (eSpan c.e) = 0
    let inEvery (t : State) (tab i e : Nat) : Prop :=
      ∀ k, k < 8 → (s.die k).link = false → mgets (s.entryAddr k tab i) 8 t.mem = natBytes 8 e
    let unhindered (f : State → PtCommand → State × Nat) : Prop :=
      s.staleEntries (f s c).1 = [] ∧ s.staleLoads (f s c).1 = false ∧ s.devPending = []
    ((s.die die).misses.find? (fun y => decide (y.asn = asn) && decide (y.vpn = vpn) && y.found.isNone) = some m →
      (∀ l, (s.walk die asn (vpn * 4096)).2 = .found l → ∃ t, exec (.pageWalk die asn vpn) s = .next t
        ∧ m ∉ (t.die die).misses ∧ ∀ q ∈ m.waiters, (tlbFind (t.cmem (s.agentOf q)).tlb asn (vpn * 4096)).isSome = true)
      ∧ ((s.walk die asn (vpn * 4096)).2 = .absent → ∃ t, exec (.pageWalk die asn vpn) s = .next t
        ∧ { m with found := some .absent } ∈ (t.die die).misses)
      ∧ ((s.walk die asn (vpn * 4096)).2 = .poison → ∃ t, exec (.pageWalk die asn vpn) s = .next t
        ∧ { m with found := some .poison } ∈ (t.die die).misses))
    ∧ (s.table.command = some (n, x) → (s.ctx p).wait = some (.ptupd d) → d.cls = false → Memory.wf s.mem = true →
      (c.op = 0 → (s.tableBad c.asn = true ∨ (eLeaf c.e = false ∧ s.tableBad (eTnum c.e) = true) →
          ∃ t, exec (.ptupdSete n) s = .next t ∧ ended t 4 ∧ t.mem = s.mem)
        ∧ (s.tableBad c.asn = false → eLeaf c.e = true → ¬aligned →
          ∃ t, exec (.ptupdSete n) s = .next t ∧ ended t 3 ∧ t.mem = s.mem)
        ∧ (s.tableBad c.asn = false → (eLeaf c.e = true → aligned) → (eLeaf c.e = false → s.tableBad (eTnum c.e) = false) →
          s.commandTable c = none → ∃ t, exec (.ptupdSete n) s = .next t ∧ ended t 2 ∧ t.mem = s.mem)
        ∧ (∀ tab, s.tableBad c.asn = false → eLeaf c.e = true → aligned → s.commandTable c = some tab →
          unhindered State.sete → ∃ t, exec (.ptupdSete n) s = .next t ∧ ended t 0 ∧ flushed t
            ∧ (c.keep = true → (∀ i, inGroup c.e i → inEvery t tab i c.e) ∧ ∀ a, others t a)
            ∧ (c.keep = false → ∀ f ∈ s.localFrames c, tgetD f 0 t.table.owners = c.asn
                ∧ (tgetD f 0 s.table.owners ≠ c.asn → ∀ a, inFrame f a = true → mget a t.mem = 0)))
        ∧ (∀ tab, s.tableBad c.asn = false → eLeaf c.e = false → s.tableBad (eTnum c.e) = false → s.commandTable c = some tab →
          unhindered State.sete → ∃ t, exec (.ptupdSete n) s = .next t ∧ ended t 0 ∧ flushed t
            ∧ inEvery t tab (vaIndex c.va c.lvl) c.e ∧ ∀ a, others t a))
      ∧ (c.op = 1 → (s.tableBad c.asn = true → ∃ t, exec (.ptupdClre n) s = .next t ∧ ended t 4 ∧ t.mem = s.mem)
        ∧ (s.tableBad c.asn = false → s.commandTable c = none → ∃ t, exec (.ptupdClre n) s = .next t ∧ ended t 2 ∧ t.mem = s.mem)
        ∧ (∀ tab, s.tableBad c.asn = false → s.commandTable c = some tab → unhindered State.clre →
          let e := s.commandEntry c tab
          ∃ t, exec (.ptupdClre n) s = .next t ∧ ended t 0 ∧ flushed t ∧ inEvery t tab (vaIndex c.va c.lvl) 0
            ∧ ((eP e && eLeaf e) = true → ∀ i, inGroup e i → inEvery t tab i 0) ∧ ∀ a, others t a))
      ∧ (c.op = 2 → (s.tableBad c.znum = true → ∃ t, exec (.ptupdZtab n) s = .next t ∧ ended t 4 ∧ t.mem = s.mem)
        ∧ (s.tableBad c.znum = false → unhindered State.ztab → ∃ t, exec (.ptupdZtab n) s = .next t ∧ ended t 0 ∧ flushed t
            ∧ (∀ i, i < 4096 → inEvery t c.znum i 0) ∧ ∀ a, others t a)))

/-! ### Headland and matrix engine -/

/-- R33, R274, R275, R278, R279, R284, R291-R298: QPUSH enters its word or pair into the queue copy of every group; MX.CFG
checks and takes its value, or traps with cause 0x15; MX.LDB, MX.MMA and MX.ZERO enter the engine queue with what they
captured; MX.ZSK and MX.DRAIN wait for the queue and then give the counters, or hp1, and a conversion of MX.DRAIN is performed
at once where the engine that it needs has no other team's work (R285). An engine without a configuration traps
with cause 0x15.
Where those rules leave a choice, the model's own stands: notes/assumptions 91. -/
def Obligations.MatrixInstructions : Prop :=
  ∀ (s : State) (tk : Nat) (a b : Src) (d : Dest) (w r c : Bool) (n : BitVec 2) (n3 : BitVec 3),
    let act : List Lane := [⟨0, .headland tk⟩]
    let arg (o : Operand) : DWord := (s.srcsOf (formMx [o]) (.headland tk)).getD 0 0
    let m := (s.team tk).mx
    let cfg := mxFields m.mxc
    let cv := viewFields ((s.team tk).view cfg.cview)
    let av := viewFields ((s.team tk).view cfg.aview)
    let o := opWord (arg (r64 a))
    let ov := viewFields ((s.team tk).view n3.toNat)
    let fr : Form := { formMx [r64 a] with rm := true }
    let fz : Form := { formMx [] with dest := some (d, true) }
    let fd : Form := { formMx [] with rm := true }
    let rests (t : State) : Prop := Advances s t ∧ t.mem = s.mem ∧ ∀ x i, (t.thread x).word i = (s.thread x).word i
    let off := (arg (r64 a)).toNat % 2 ^ 32
    let two := (s.srcsOf (formMx [r64 a, r64 b]) (.headland tk)).getD 1 0
    let enters (i : Instr) (f : Form) (m' : Mx) : Prop := Issues s f act → m.queue.length < 16 →
      ∃ t, exec i s = .next t ∧ rests t ∧ (t.team tk).mx = m'
    let unset (i : Instr) (f : Form) : Prop := Issues s f act → m.mxc = 0 → exec i s = .next ((s.begun f).raiseCause act 0x15)
    s.cur = .headland tk → (s.groups.map (·.1)).Nodup →
      (Issues s (formMx [⟨a, w, false⟩]) act →
        let ws := chanWords w (arg ⟨a, w, false⟩)
        (∀ g, (s.group tk g).ended = false → (tgetD n.toNat [] (s.group tk g).queues).length + ws.length ≤ 8) →
        ∃ t, exec (.qpush w n a) s = .next t ∧ rests t ∧ ∀ g, tgetD n.toNat [] (t.group tk g).queues =
          if (s.group tk g).ended = false then tgetD n.toNat [] (s.group tk g).queues ++ ws
          else tgetD n.toNat [] (s.group tk g).queues)
      ∧ (Issues s (formMx [r64 a]) act →
        let v := arg (r64 a)
        let k := mxFields v
        let good : Prop := k.mode ≤ 4 ∧ (k.bk8 = true → k.mode = 3) ∧ k.aview ≠ k.cview ∧ v.toNat % 2 ^ 46 = 0
          ∧ k.steps ≤ (if k.mode ≤ 1 then 64 else if k.mode = 2 then 32 else if k.mode = 3 then 16 else 8)
        (good → ∃ t, exec (.mxCfg a) s = .next t ∧ rests t ∧ (t.team tk).mx.mxc = v ∧ (t.team tk).mx.latch = none
          ∧ (t.team tk).mx.slot0.issued = false ∧ (t.team tk).mx.slot1.issued = false ∧ (t.team tk).mx.queue = m.queue
          ∧ (t.team tk).mx.halves = m.halves ∧ (t.team tk).mx.skipped = m.skipped)
        ∧ (¬good → exec (.mxCfg a) s = .next ((s.begun (formMx [r64 a])).raiseCause act 0x15)))
      ∧ (m.mxc ≠ 0 → cfg.mode ≠ 4 → b = ⟨false, false, 0⟩ → off % bSize cfg.mode = 0 →
        off + cfg.k * cfg.n * bSize cfg.mode ≤ (s.team tk).launch.z →
        enters (.mxLdb w a b) (formMx [r64 a])
          { m.onSlot w (fun x => { x with issued := true }) with queue := m.queue ++ [.ldb m.mxc w off 0 0] })
      ∧ (m.mxc ≠ 0 → cfg.mode = 4 → two.toNat / 2 ^ 32 % 4 = 0 →
        (∀ x ∈ bRanges cfg off (two.toNat % 2 ^ 32) (two.toNat / 2 ^ 32), x.1 + x.2 ≤ (s.team tk).launch.z) →
        enters (.mxLdb w a b) (formMx [r64 a, r64 b])
          { m.onSlot w (fun x => { x with issued := true }) with
            queue := m.queue ++ [.ldb m.mxc w off (two.toNat % 2 ^ 32) (two.toNat / 2 ^ 32)] })
      ∧ (m.mxc ≠ 0 → viewMissing [3] cv = false → s.accBad tk cfg cv o = false → (m.slot w).issued = true →
        (r = false → viewMissing [2] av = false ∧ aViewBad cfg av = false) → (r = true → m.latch = some o.gid) →
        enters (.mxMma r w a) fr { m with
          latch := some o.gid
          queue := m.queue ++ [.mma ⟨m.mxc, (s.team tk).view cfg.aview, (s.team tk).view cfg.cview, s.mxRows tk o.gid, o.gid, w,
            r, o.cb, s.roundIn .rn, 0, [], s.onHigher tk o.gid⟩] })
      ∧ (m.mxc ≠ 0 → viewMissing [3] cv = false → s.accBad tk cfg cv o = false →
        enters (.mxZero a) (formMx [r64 a])
          { m with queue := m.queue ++ [.zero m.mxc ((s.team tk).view cfg.cview) (s.mxRows tk o.gid) o.cb (s.onHigher tk o.gid)] })
      ∧ (Issues s fz act → m.mxc ≠ 0 →
        (m.queue = [] → ∃ t, exec (.mxZsk d c) s = .next t ∧ Advances s t ∧ t.mem = s.mem
          ∧ slot64 (.headland tk) (t.thread (.headland tk)) d.ix.toNat = m.halves ++ m.skipped
          ∧ (t.team tk).mx.halves = (if c then 0 else m.halves) ∧ (t.team tk).mx.skipped = (if c then 0 else m.skipped))
        ∧ (m.queue ≠ [] → ∃ t, exec (.mxZsk d c) s = .next t ∧ WaitsIn s t (.zsk d c)))
      ∧ (Issues s fd act →
        (m.queue = [] → ∃ t, exec .mxDrain s = .next t ∧ rests t ∧ (t.thread (.headland tk)).p1 = m.pending
          ∧ (t.team tk).mx.pending = false)
        ∧ (m.queue ≠ [] → ∃ t, exec .mxDrain s = .next t ∧ WaitsIn s t (.drain none)))
      ∧ (Issues s fr act → m.mxc ≠ 0 → viewMissing [3] cv = false → viewMissing [1, 2] ov = false → s.accBad tk cfg cv o = false →
        outFmtOk cfg.mode ov.fmt = true → o.cb + cfg.n ≤ ov.elems → convClash cfg cv ov o.cb = false →
        let conv : MxConv := ⟨m.mxc, (s.team tk).view cfg.cview, (s.team tk).view n3.toNat, s.mxRows tk o.gid, o.cb, s.roundIn .rn,
          s.onHigher tk o.gid⟩
        let alone : Prop := ∀ x ∈ s.teams, x.1 ≠ tk → s.mxReadyOn ((s.team tk).mxCore conv.high) x.1 = false
        (m.queue ≠ [] ∨ (s.team tk).mxRuns = false → ∃ t, exec (.mxDrainConv n3 a) s = .next t ∧ WaitsIn s t (.drain (some conv)))
        ∧ (m.queue = [] → (s.team tk).mxRuns = true → alone → (conv.rows.map (·.2)).Nodup → s.convError tk conv = false →
          ∃ t, exec (.mxDrainConv n3 a) s = .next t ∧ Advances s t ∧ t.mem = s.mem
          ∧ (t.team tk).mx.pending = false
          ∧ ∀ row ∈ conv.rows, (s.thread (.compute tk row.2)).live = true → (t.thread (.compute tk row.2)).regs =
              ((upto cfg.n).foldl (fun (x : Thread) k => x.setElem ov (o.cb + k) (outConvert ov.fmt (s.roundIn .rn)
                ((accFormat cfg.mode).decode ((s.thread (.compute tk row.2)).elem cv (o.cb + k)))).bits)
                (s.thread (.compute tk row.2))).regs))
      ∧ unset (.mxLdb w a b) (formMx [r64 a]) ∧ unset (.mxMma r w a) fr ∧ unset (.mxZero a) (formMx [r64 a])
      ∧ unset (.mxZsk d c) fz ∧ unset (.mxDrainConv n3 a) fr

/-- R105, R281, R284, R285, R288, R289, R294-R298, R308: the steps of the matrix engine, which a core's engine takes for the
team whose turn it is there: none while a team of a higher class has work ready on it, nor a second in a row while one of its
own class has. Work that names a group of a pair's higher core is that core's engine's, all else the lower core's. A read of
B, the oldest operation or the one behind a multiply that reads the other slot, takes it from the present lines of the
scratchpad; a step of a multiply, the oldest or behind a read of B into the other slot, adds kstep products to each row's
accumulators, rounded as R105 says; MX.ZERO writes zeros; MX.ZSK and MX.DRAIN end once the queue is empty. A team without a
guard level fails with cause 0x09 where its step would consume uncorrectable data.
Where those rules leave a choice, the model's own stands: notes/assumptions 91. -/
def Obligations.MatrixSteps : Prop :=
  ∀ (s : State) (tk : Nat) (x : MxMma) (ahead rest : List MxOp) (cfg cview : DWord) (one : Bool) (off soff poff cb : Nat)
    (rows : List (Nat × Nat)) (d : Dest) (clr : Bool) (conv : Option MxConv) (hi : Bool),
    let m := (s.team tk).mx
    let c := mxFields cfg
    let row (r : Nat × Nat) : Thread := s.thread (.compute tk r.2)
    let wrote (t : State) (r : Nat × Nat) (v : ViewFields) (outs : List (Nat × FRes)) : Prop :=
      if (row r).live = true then
        (t.thread (.compute tk r.2)).regs = (outs.foldl (fun (y : Thread) e => y.setElem v e.1 e.2.bits) (row r)).regs
          ∧ (t.thread (.compute tk r.2)).fflags = outs.foldl (fun f e => f ||| e.2.flags) (row r).fflags
          ∧ (t.thread (.compute tk r.2)).mxFlags = addFlags (outs.foldl (fun f e => f ||| e.2.flags) 0) (row r).mxFlags
      else t.thread (.compute tk r.2) = row r
    let stays (t : State) (rows : List (Nat × Nat)) : Prop := t.mem = s.mem ∧ t.ctxs = s.ctxs
      ∧ ∀ y, (∀ r ∈ rows, y ≠ .compute tk r.2) → t.thread y = s.thread y
    let high : Bool := match conv with | some y => y.high | none => false
    let stands (h : Bool) : Prop :=
      (h = false → exec (.mxLdbRead tk) s = .next s ∧ exec (.mxZskRead tk) s = .next s)
      ∧ (∀ y put, mmaJob m.queue = some (y, put) → y.high = h → exec (.mxStep tk) s = .next s)
      ∧ (m.queue = .zero cfg cview rows cb h :: rest → exec (.mxZeroPerform tk) s = .next s)
      ∧ ((s.ctx (.headland tk)).wait = some (.drain conv) → high = h → exec (.mxDrainComplete tk) s = .next s)
    let other (h : Bool) (y : Nat) (z : Team) : Prop :=
      tget y s.teams = some z ∧ s.mxReadyOn ((s.team tk).mxCore h) y = true ∧ y < 2 ^ 63
    let fails (i : Instr) : Prop := (s.team tk).launch.grd = 0 →
      ∃ t, exec i s = .next t ∧ (s.noneAtBarrier tk = true → t.mem = s.mem) ∧ (t.team tk).failed = some 0x09
    (s.mxTurn tk hi = false → stands hi)
    ∧ ((s.team tk).resident = false ∨ (s.team tk).failed ≠ none → stands hi)
    ∧ (∀ y z, other hi y z → tk < 2 ^ 63 → z.launch.cls ≤ 3 →
        ((s.team tk).launch.cls < z.launch.cls → stands hi)
        ∧ ((s.team tk).launch.cls = z.launch.cls → y ≠ tk → (s.core ((s.team tk).mxCore hi)).mxLast = tk → stands hi))
    ∧ (s.mxTurn tk hi = true →
      (hi = false → m.queue = ahead ++ .ldb cfg one off soff poff :: rest → (ahead = [] ∨ ∃ y, ahead = [.mma y] ∧ y.slot1 ≠ one) →
        (∀ y ∈ bRanges c off soff poff, ∀ l ∈ linesOf y.1 y.2, (s.team tk).present l = true) →
        ((∀ y ∈ bRanges c off soff poff, (s.team tk).badRange y.1 y.2 = false) →
          ∃ t, exec (.mxLdbRead tk) s = .next t ∧ t.threads = s.threads ∧ t.mem = s.mem ∧ (t.team tk).mx =
            { m.onSlot one (fun y => { y with
                b := (upto c.n).flatMap fun n => (upto c.k).map fun k => (s.team tk).bElem c off soff poff k n
                bad := false })
              with queue := ahead ++ rest })
        ∧ ((∃ y ∈ bRanges c off soff poff, (s.team tk).badRange y.1 y.2 = true) → fails (.mxLdbRead tk)))
      ∧ (m.queue = ahead ++ .mma x :: rest → (ahead = [] ∨ (ahead = [.ldb cfg one off soff poff] ∧ one ≠ x.slot1)) →
          hi = x.high → s.stepError tk x = true → fails (.mxStep tk))
      ∧ (m.queue = ahead ++ .mma x :: rest → (ahead = [] ∨ (ahead = [.ldb cfg one off soff poff] ∧ one ≠ x.slot1)) →
        hi = x.high → (x.rows.map (·.2)).Nodup → s.stepError tk x = false →
        let k := mxFields x.cfg
        let f := accFormat k.mode
        let v := viewFields x.cview
        let as := if x.step ≠ 0 then x.a else if x.reuse then m.latchA
          else x.rows.map fun r => (r.1, (row r).rowA k (viewFields x.aview))
        let bs := (m.slot x.slot1).b
        ∃ t, exec (.mxStep tk) s = .next t ∧ stays t x.rows
          ∧ (∀ r ∈ x.rows, wrote t r v ((upto k.n).map fun n => (x.cb + n, f.mxStep x.rm ((row r).elem v (x.cb + n))
              ((upto (kstep k.mode)).map fun i => (fmt64.decode ((tgetD r.1 [] as).getD (x.step * kstep k.mode + i) 0),
                fmt64.decode (bs.getD (n * k.k + (x.step * kstep k.mode + i)) 0))))))
          ∧ (t.team tk).mx.queue = (if x.step + 1 < k.steps then ahead ++ .mma { x with a := as, step := x.step + 1 } :: rest else ahead ++ rest)
          ∧ (t.team tk).mx.latchA = (if x.reuse then m.latchA else as)
          ∧ (t.team tk).mx.halves = (if k.mode ≤ 1 then m.halves else m.halves + BitVec.ofNat 32 (2 * x.rows.length)))
      ∧ (m.queue = .zero cfg cview rows cb hi :: rest → (rows.map (·.2)).Nodup →
        ∃ t, exec (.mxZeroPerform tk) s = .next t ∧ stays t rows ∧ (t.team tk).mx.queue = rest
          ∧ ∀ r ∈ rows, wrote t r (viewFields cview) ((upto c.n).map fun n => (cb + n, ⟨0, 0⟩)))
      ∧ (hi = false → m.queue = [] → (s.ctx (.headland tk)).wait = some (.zsk d clr) →
        ∃ t, exec (.mxZskRead tk) s = .next t ∧ GoesOn { s with cur := .headland tk } t ∧ t.mem = s.mem
          ∧ slot64 (.headland tk) (t.thread (.headland tk)) d.ix.toNat = m.halves ++ m.skipped
          ∧ (t.team tk).mx.halves = if clr then 0 else m.halves)
      ∧ (hi = high → m.queue = [] → (s.ctx (.headland tk)).wait = some (.drain conv) →
        (∀ y, conv = some y → s.convError tk y = true) → conv ≠ none → fails (.mxDrainComplete tk))
      ∧ (hi = high → m.queue = [] → (s.ctx (.headland tk)).wait = some (.drain conv) →
        (∀ y, conv = some y → s.convError tk y = false) →
        ∃ t, exec (.mxDrainComplete tk) s = .next t ∧ GoesOn { s with cur := .headland tk } t ∧ t.mem = s.mem
          ∧ (t.team tk).mx.pending = false ∧ (conv = none → (t.thread (.headland tk)).p1 = m.pending)))
    ∧ (m.queue ≠ [] → exec (.mxZskRead tk) s = .next s ∧ exec (.mxDrainComplete tk) s = .next s)

/-! ### Events of groups, teams and the package -/

/-- R195-R197, R201-R203: a free live context goes to the standby group that has waited longest; with none free, every 4096 ac
while standby groups wait the Ready group that has held its context longest makes room for it and stands in the standby order
itself. A tidepool entry is due once a thread has waited its limit; a draw takes the threads filed earliest, at most W, and
forms a fresh group of the lowest free gid with the threads in ascending order of their numbers. The group takes a free live
context unless standby groups wait for one, and where none is free that of the group of its team on the core which has been
parked or faulted longest; else it is Standby.
Where those rules leave a choice, the model's own stands: notes/assumptions 48 and 93, for the quad of a standby group's
return 19. -/
def Obligations.ContextsAndTidepools : Prop :=
  ∀ (s : State) (core tk e gid : Nat) (o i : (Nat × Nat) × Group) (p : Tidepool),
    let isOut (x : (Nat × Nat) × Group) : Prop := x ∈ s.liveGroups core ∧ s.groupReady x.1.1 x.1.2 = true
      ∧ s.atBoundary x.1.1 x.1.2 = true
    let oldestOut : Prop := isOut o ∧ ∀ y, isOut y → y ≠ o → o.2.since < y.2.since
    let oldestIn : Prop := i ∈ s.standby core ∧ ∀ y ∈ s.standby core, y ≠ i → i.2.since < y.2.since
    let granted (t : State) : Prop := t.group i.1.1 i.1.2 = { s.group i.1.1 i.1.2 with
      live := true, standby := false, since := s.time.toNat, quad0 := i.1.2 * ((s.group i.1.1 i.1.2).width / 4) % 16 }
    let w := (s.team tk).launch.w
    let n := min w p.threads.length
    let isParked (x : (Nat × Nat) × Group) : Prop := x ∈ s.liveGroups p.core ∧ x.1.1 = tk ∧ s.groupReady tk x.1.2 = false
    let longest : Prop := isParked o ∧ ∀ y, isParked y → y ≠ o → o.2.parkedAt < y.2.parkedAt
    (s.standby core = [] → exec (.standbyRotation core) s = .next s ∧ exec (.liveContextGrant core) s = .next s)
    ∧ ((s.groups.map (·.1)).Nodup → oldestIn →
      (s.contextFree core = true → exec (.standbyRotation core) s = .next s
        ∧ ∃ t, exec (.liveContextGrant core) s = .next t ∧ granted t ∧ { t with groups := s.groups } = s
          ∧ ∀ k g, (k, g) ≠ i.1 → t.group k g = s.group k g)
      ∧ (s.contextFree core = false → exec (.liveContextGrant core) s = .next s
        ∧ (oldestOut → (s.time.toNat < max (s.core core).rotated i.2.since + 4096 → exec (.standbyRotation core) s = .next s)
          ∧ (max (s.core core).rotated i.2.since + 4096 ≤ s.time.toNat →
            ∃ t, exec (.standbyRotation core) s = .next t ∧ granted t ∧ t.mem = s.mem ∧ (t.core core).rotated = s.time.toNat
            ∧ t.group o.1.1 o.1.2 = { s.group o.1.1 o.1.2 with live := false, standby := true, since := s.time.toNat }
            ∧ (∀ k g, (k, g) ≠ i.1 → (k, g) ≠ o.1 → t.group k g = s.group k g)
            ∧ (∀ k g q, t.ctx (.gang k g q) = s.ctx (.gang k g q))
            ∧ ∀ k x, t.thread (.compute k x) = s.thread (.compute k x)))))
    ∧ (tget e (s.team tk).pools = some p → (s.team tk).resident = true → (p.threads.map (·.1)).Nodup →
      ((∃ x ∈ p.threads, x.2 + p.limit ≤ s.time.toNat) → ∃ t, exec (.tidepoolAgeLimit tk e) s = .next t
        ∧ tget e (t.team tk).pools = some { p with due := true } ∧ { t with teams := s.teams } = s)
      ∧ ((∀ x ∈ p.threads, s.time.toNat < x.2 + p.limit) → exec (.tidepoolAgeLimit tk e) s = .next s)
      ∧ (p.threads = [] ∨ (p.due = false ∧ p.threads.length < w) → exec (.tidepoolDraw tk e) s = .next s)
      ∧ (p.threads ≠ [] → (p.due = true ∨ w ≤ p.threads.length) → gid < 256 → (s.group tk gid).ended = true →
        (∀ g, g < gid → (s.group tk g).ended = false) →
        ∃ t, ∃ drawn rest : List (Nat × Nat), exec (.tidepoolDraw tk e) s = .next t ∧ t.mem = s.mem
          ∧ drawn.length = n ∧ (∀ x ∈ drawn, x ∈ p.threads)
          ∧ (∀ x, x ∈ rest ↔ x ∈ p.threads ∧ x ∉ drawn)
          ∧ (∀ x ∈ drawn, ∀ y ∈ rest, x.2 < y.2 ∨ (x.2 = y.2 ∧ x.1 < y.1))
          ∧ tget e (t.team tk).pools = some { p with threads := rest, due := false }
          ∧ (∀ x ∈ drawn, t.thread (.compute tk x.1) = { s.thread (.compute tk x.1) with
              gid := gid, lane := (drawn.filter fun y => decide (y.1 < x.1)).length })
          ∧ (∀ k x, (k ≠ tk ∨ ∀ y ∈ drawn, y.1 ≠ x) → t.thread (.compute k x) = s.thread (.compute k x))
          ∧ (∀ q, q < w / 4 → (t.ctx (.gang tk gid q)).pc = p.key ∧ (t.ctx (.gang tk gid q)).stack = []
              ∧ (t.ctx (.gang tk gid q)).spilled = 0 ∧ (t.ctx (.gang tk gid q)).wait = none
              ∧ ((t.ctx (.gang tk gid q)).idle = true ↔ n ≤ 4 * q)
              ∧ ∀ j, j < 4 → ((t.ctx (.gang tk gid q)).m.getLsbD j = true ↔ 4 * q + j < n))
          ∧ (t.group tk gid).queues = [] ∧ (t.group tk gid).ended = false ∧ (t.group tk gid).faulted = none
          ∧ (t.group tk gid).core = p.core ∧ (t.group tk gid).width = w
          ∧ (s.contextFree p.core = true → s.standby p.core = [] → (t.group tk gid).live = true)
          ∧ (s.contextFree p.core = true → s.standby p.core ≠ [] → (t.group tk gid).live = false ∧ (t.group tk gid).standby = true)
          ∧ ((s.groups.map (·.1)).Nodup → s.contextFree p.core = false →
            (longest → (t.group tk gid).live = true ∧ (t.group o.1.1 o.1.2).live = false ∧ (t.group o.1.1 o.1.2).standby = false)
            ∧ ((∀ x, ¬isParked x) → (t.group tk gid).live = false ∧ (t.group tk gid).standby = true))))

/-- R150, R179-R182, R233, R256, R316: DEFERRED_CAUSE delivers the first cause that stands with a group at its boundary,
with the lanes of the threads of every deferred cause of the same code and word; where such a thread has exited the team
fails with it. WATCHDOG_EXPIRY gives a group that has waited the watchdog's limit in a wait that is counted and not over
cause 0x0D, TAG_WAIT_TIMEOUT one that has waited for tags cause 0x0C: the group's record holds the cause, the lanes and the
PC of its instruction. EBB_WINDOW starts the counters of a core's teams anew.
Where those rules leave a choice, the model's own stands: notes/assumptions 40, 94 and 104. -/
def Obligations.TimeoutsAndDeferredCauses : Prop :=
  ∀ (s : State) (tk gid q core : Nat) (d : Deferred) (rest : List Deferred) (w : Wait),
    let p : Party := .gang tk gid q
    let b : State := { s with cur := p }
    let h := ((s.team tk).ctxBase + 0x80 + 32 * gid) % 2 ^ 44
    let r (t : State) : Nat := bytesNat (mgets h 32 t.mem)
    let faults (t : State) (cause : BitVec 8) (mask : BitVec 64) : Prop :=
      (t.group tk gid).faulted = some (gangQuads (b.gang p))
      ∧ (∀ x ∈ b.gang p, (t.ctx x).pc = (s.ctx p).pc ∧ (t.ctx x).wait = none ∧ (t.ctx x).run = HintRun.empty
          ∧ (t.ctx x).m = (s.ctx x).m ∧ (t.ctx x).stack = (s.ctx x).stack)
      ∧ (∀ y, SameRegs s t y)
      ∧ (Memory.wf s.mem = true → s.devPending = [] →
          (∀ i, i < 32 → s.isLost ((h + i) / 4 * 4) = false ∧ s.devReady ((h + i) / 4 * 4) = true) →
          bits (r t) 63 56 = cause.toNat ∧ bits (r t) 127 64 = (s.ctx p).pc.toNat ∧ bits (r t) 255 192 = mask.toNat
          ∧ ∀ a, a < h ∨ h + 32 ≤ a → mget a t.mem = mget a s.mem)
      ∧ ∃ n : BitVec 512, t.pkg = { s.pkg with notices := s.pkg.notices ++ [n] } ∧ bits n.toNat 7 0 = cause.toNat
    let same (x : Deferred) : Prop := x ∈ d :: rest ∧ x.cause = d.cause ∧ x.addr = d.addr
    let limit := 600 * (s.core (s.group tk gid).core).wdog
    gid < 1000 →
      ((s.ctx p).mayIssue = true → (s.ctx p).wait = none → (s.ctx p).run.len = 0 → (s.group tk gid).faulted = none →
        ((s.group tk gid).deferred = [] → exec (.deferredCause p) s = .next b)
        ∧ ((s.group tk gid).deferred = d :: rest →
          ((∀ x, same x → ∀ y ∈ x.refs, (s.thread y).live = true) →
            ∃ t, ∃ mask : BitVec 64, exec (.deferredCause p) s = .next t ∧ faults t d.cause mask
              ∧ (∀ i, i < 64 → (mask.getLsbD i = true ↔ ∃ x, same x ∧ ∃ y ∈ x.refs, (s.thread y).lane = i))
              ∧ ∀ x, x ∈ (t.group tk gid).deferred ↔ x ∈ rest ∧ ¬same x)
          ∧ ((∃ x, same x ∧ ∃ y ∈ x.refs, (s.thread y).live = false) → ∃ t, exec (.deferredCause p) s = .next t
            ∧ (t.team tk).failed = some ((s.team tk).failed.getD d.cause))))
      ∧ ((s.ctx p).wait = some w → (∀ l ∈ b.waitLanes p, l.ix < 64) →
        (w.counted = true → s.waitOver p = false → (s.group tk gid).faulted = none → limit ≠ 0 →
          limit ≤ (s.group tk gid).wdog → ∃ t, exec (.watchdogExpiry p) s = .next t ∧ faults t 0x0D (laneMask (b.waitLanes p)))
        ∧ (w.counted = false ∨ s.waitOver p = true ∨ (s.group tk gid).faulted ≠ none ∨ limit = 0
            ∨ (s.group tk gid).wdog < limit → exec (.watchdogExpiry p) s = .next s)
        ∧ (w.isTag = true →
          (limit ≠ 0 → limit ≤ (s.group tk gid).tagTimer → s.tagBefore p = false →
            ∃ t, exec (.tagWaitTimeout p) s = .next t ∧ faults t 0x0C (laneMask (b.waitLanes p)) ∧ (t.group tk gid).tagTimer = 0)
          ∧ (limit = 0 ∨ (s.group tk gid).tagTimer < limit ∨ s.tagBefore p = true →
            exec (.tagWaitTimeout p) s = .next b)))
      ∧ ((s.ctx p).wait = none → (∀ l ∈ b.waitLanes p, l.ix < 64) →
        (s.cutStopped p = true → (s.group tk gid).faulted = none → limit ≠ 0 → limit ≤ (s.group tk gid).wdog →
          ∃ t, exec (.watchdogExpiry p) s = .next t ∧ faults t 0x0D (laneMask (b.waitLanes p)))
        ∧ (s.cutStopped p = false → exec (.watchdogExpiry p) s = .next s))
      ∧ ∃ t, exec (.ebbWindow core) s = .next t ∧ { t with teams := s.teams } = s
        ∧ ∀ x m, tget x s.teams = some m → t.team x =
          if core ∈ m.cores then
            { m with used := if m.usedWindow = s.time.toNat / 1024 then m.used else [], usedWindow := s.time.toNat / 1024 }
          else m

/-- R230, R232, R313, R344-R347, R349: the two copies of a pair that stand at checkpoints with equal counts have a common
cut. Their comparison, where the signatures agree, commits: the primary's held entries may drain, the shadow's are
discarded, the gangs that waited at the cut go on. A first mismatch takes both copies back to their frames and is counted
in the primary's cluster; a second one, or one of an interval that is not rollbackable, fails both with cause 0x12 and marks
both clusters suspect. An interval that has been rolled back twice fails both with cause 0x09 instead of going back.
Where those rules leave a choice, the model's own stands: notes/assumptions 62, 63, 64 and 65. -/
def Obligations.Pairs : Prop :=
  ∀ (s : State) (tk x : Nat) (f g : Frame),
    let a := s.team tk
    let b := s.team x
    let cl (y : Nat) : Nat := clusterOfAgent (s.team y).core
    let both : Prop := a.cut = true ∧ b.cut = true
    let ours (p : Party) : Prop := partyOfTeam tk p = true ∨ partyOfTeam x p = true
    let calm : Prop := s.noneAtBarrier tk = true ∧ s.noneAtBarrier x = true
    a.pair = .primary x → b.pair = .shadow tk → tk ≠ x →
      (a.atCut = true → b.atCut = true → s.cutCounts tk = s.cutCounts x →
        ∃ t, exec (.pairCheckpointCut tk) s = .next t ∧ t.team tk = { a with cut := true } ∧ t.team x = { b with cut := true }
          ∧ { t with teams := s.teams } = s)
      ∧ (a.atCut = false ∨ b.atCut = false ∨ s.cutCounts tk ≠ s.cutCounts x → exec (.pairCheckpointCut tk) s = .next s)
      ∧ (¬both → exec (.breakwaterCompare tk) s = .next s)
      ∧ (both → s.teamSig tk = s.teamSig x → ∃ t, exec (.breakwaterCompare tk) s = .next t ∧ t.mem = s.mem
        ∧ (t.team tk).atCut = false ∧ (t.team tk).cut = false ∧ (t.team x).atCut = false ∧ (t.team x).cut = false
        ∧ (t.team tk).failed = a.failed ∧ (t.team x).failed = b.failed
        ∧ (∀ r k, (t.thread r).word k = (s.thread r).word k)
        ∧ (∀ c y, y ∈ (t.cmem c).ebb → (y.ofTeam tk = true → y.held = false) ∧ (y.tk = some x → y.held = false))
        ∧ (∀ p, ours p → (s.ctx p).wait = some .cut → t.ctx p = { s.ctx p with wait := some .cutDone })
        ∧ ∀ p, (s.ctx p).wait ≠ some .cut → t.ctx p = s.ctx p)
      ∧ (both → s.teamSig tk ≠ s.teamSig x →
        (a.spent = false → b.spent = false → a.mismatched = false → tget tk s.frames = some f →
          tget x s.frames = some g → (∀ y ∈ f.ctxs, partyOfTeam tk y.1 = true) → (∀ y ∈ g.ctxs, partyOfTeam x y.1 = true) →
          ∃ t, exec (.breakwaterCompare tk) s = .next t ∧ t.mem = s.mem
            ∧ (t.team tk).mismatched = true ∧ (t.team x).mismatched = true
            ∧ (t.team tk).rollbacks = a.rollbacks + 1 ∧ (t.team x).rollbacks = b.rollbacks + 1
            ∧ (t.cluster (cl tk)).mism = min ((s.cluster (cl tk)).mism + 1) (2 ^ 32 - 1)
            ∧ (∀ p, partyOfTeam tk p = true → t.ctx p = tgetD p (Ctx.absent p) f.ctxs)
            ∧ ∀ p, partyOfTeam x p = true → t.ctx p = tgetD p (Ctx.absent p) g.ctxs)
        ∧ (a.nonRollback = true ∨ b.nonRollback = true ∨ a.mismatched = true →
          ∃ t, exec (.breakwaterCompare tk) s = .next t ∧ (calm → t.mem = s.mem)
            ∧ (t.team tk).failed = some (a.failed.getD 0x12) ∧ (t.team x).failed = some (b.failed.getD 0x12)
            ∧ (t.cluster (cl tk)).suspect = true ∧ (t.cluster (cl x)).suspect = true
            ∧ (t.cluster (cl tk)).mism =
                if a.mismatched = true then (s.cluster (cl tk)).mism else min ((s.cluster (cl tk)).mism + 1) (2 ^ 32 - 1))
        ∧ (a.nonRollback = false → b.nonRollback = false → a.mismatched = false → a.spent = true ∨ b.spent = true →
          ∃ t, exec (.breakwaterCompare tk) s = .next t ∧ (calm → t.mem = s.mem)
            ∧ (t.team tk).failed = some (a.failed.getD 0x09) ∧ (t.team x).failed = some (b.failed.getD 0x09)))

/-- R220-R223, R359, R369, R380, R435-R437: an uncorrectable error poisons the words of its line that hold their data at the
home slice; with a failed row, column, pin or bank it is entered in the repair list and takes a spare row, or for want of one
its 4 KiB frame reads as poison from then on. A die's limit halves its rate, twice at most, and counts a trip; a coolant
failure stops every placement. The standby table-update engine takes over. The failure of a physical lane is counted and
marked; the spare takes its place in the map, else its logical lane is an orphan, else the core is out of service. A cluster
that is lost is marked; the last enabled one of a die makes a fatal error of the die. Both are entered in the repair list, and
a remap posts a notice of kind 2. The team that runs on cores that are no more is saved as at pre-emption where it can be.
Where those rules leave a choice, the model's own stands: notes/assumptions 67, 69, 70, 71, 108 and 109. -/
def Obligations.FailuresOfParts : Prop :=
  (∀ (s : State) (line kind die : Nat),
     let l := line % 2 ^ 44 / 64 * 64
     let m := memoryOf l
     let spoils (t : State) (named : Nat → Prop) : Prop := t.mem = s.mem ∧ t.words = s.words
       ∧ ∀ w, w ∈ t.poison ↔ w ∈ s.poison ∨ (named w ∧ s.wordSt w = none)
     let ofLine (w : Nat) : Prop := ∃ i, i < 16 ∧ w = l + 4 * i
     (isLocalMem l = false → exec (.uncorrectableMemoryError line kind) s = .next s)
     ∧ (isLocalMem l = true → kind = 0 ∨ 4 < kind → ∃ t, exec (.uncorrectableMemoryError line kind) s = .next t
         ∧ spoils t ofLine ∧ { t with poison := s.poison } = s)
     ∧ (isLocalMem l = true → 1 ≤ kind → kind ≤ 4 → ∃ t, exec (.uncorrectableMemoryError line kind) s = .next t
         ∧ (s.pkg.repairs.length < 65536 → t.pkg.repairs = s.pkg.repairs ++ [⟨kind, BitVec.ofNat 64 l, false⟩])
         ∧ (65536 ≤ s.pkg.repairs.length → t.pkg.repairs = s.pkg.repairs ∧ t.pkg.ovf = true)
         ∧ spoils t ofLine
         ∧ (tgetD m 0 s.pkg.spares < Config.spareRows → tgetD m 0 t.pkg.spares = tgetD m 0 s.pkg.spares + 1
           ∧ t.pkg.badFrames = s.pkg.badFrames)
         ∧ (Config.spareRows ≤ tgetD m 0 s.pkg.spares → t.pkg.spares = s.pkg.spares
           ∧ ∀ w, t.poisoned w = true ↔ s.poisoned w = true ∨ (ofLine w ∧ s.wordSt w = none) ∨ w / 4096 = l / 4096))
     ∧ (die < 8 → (s.die die).throttle < 2 → ∃ t, exec (.thermalLimit die) s = .next t
         ∧ t.die die = { s.die die with throttle := (s.die die).throttle + 1 }
         ∧ t.pkg = { s.pkg with trips := min (s.pkg.trips + 1) (2 ^ 32 - 1) } ∧ ∀ d, d ≠ die → t.die d = s.die d)
     ∧ (8 ≤ die ∨ 2 ≤ (s.die die).throttle → exec (.thermalLimit die) s = .next s)
     ∧ (die < 8 → ∃ t, exec (.thermalLimitCleared die) s = .next t ∧ t.die die = { s.die die with throttle := 0 }
         ∧ { t with dies := s.dies } = s ∧ ∀ d, d ≠ die → t.die d = s.die d)
     ∧ (∃ t, exec .coolantFailure s = .next t ∧ (∀ l core less, t.fits l core less = false)
         ∧ { t with pkg := s.pkg } = s ∧ { t.pkg with coolantFailed := s.pkg.coolantFailed } = s.pkg)
     ∧ ∃ t, exec .shoreDieFailure s = .next t ∧ t.table = { s.table with shoreDie := 1 } ∧ { t with table := s.table } = s)
  ∧ (∀ (s : State) (core lane l die cluster : Nat),
       let c := s.core core
       let fails (t : State) (lanes : Table Nat Nat) (spare orphan : Nat) (deg out : Bool) : Prop := t.core core =
         { c with lerrs := min (c.lerrs + 1) (2 ^ 32 - 1), spf := c.spf || decide (lane = 64)
                  lfail := if lane < 64 then c.lfail ||| BitVec.ofNat 64 (2 ^ lane) else c.lfail
                  lanes := lanes, spare := spare, orphan := orphan, deg := deg, out := out }
       let listed (t : State) (r : Repair) : Prop := s.pkg.repairs.length < 65536 → t.pkg.repairs = s.pkg.repairs ++ [r]
       let serves : Prop := l < 64 ∧ c.physLane l = lane ∧ ¬(c.deg = true ∧ l = c.orphan)
         ∧ ∀ k, k < 64 → c.physLane k = lane → ¬(c.deg = true ∧ k = c.orphan) → k = l
       let goes (t : State) (on : Nat → Prop) : Prop := ∀ tk m, tget tk s.teams = some m → m.pair = .none →
         (∃ a ∈ m.cores, on a) → (∀ a ∈ m.cores, (s.cmem a).ebb = []) → s.savable tk = true → s.saveFault tk = none →
         (∀ y z, tget y s.teams = some z → y ≠ tk → z.resident = true → ∀ a ∈ z.cores, ¬on a ∧ s.coreGone a = false) →
         (t.team tk).preempted = true
       let told (t : State) : Prop := s.pkg.repairs.length < 65536 → ∃ n : BitVec 512, t.pkg.notices = s.pkg.notices ++ [n]
         ∧ bits n.toNat 15 8 = 2 ∧ bits n.toNat 7 0 = 0x18 ∧ bits n.toNat 63 32 = core
       let spare := if lane = 64 then 0x7F else c.spare
       let lost (t : State) : Prop := listed t ⟨5, BitVec.ofNat 64 (core + lane * 2 ^ 16), false⟩
       (512 ≤ core ∨ 64 < lane ∨ c.out = true → exec (.laneFailure core lane) s = .next s)
       ∧ (core < 512 → lane ≤ 64 → c.out = false →
         ((∀ k, k < 64 → c.physLane k = lane → c.deg = true ∧ k = c.orphan) → ∃ t, exec (.laneFailure core lane) s = .next t
           ∧ fails t c.lanes spare c.orphan c.deg false ∧ lost t ∧ t.mem = s.mem)
         ∧ (serves → c.deg = false → c.spare = 0x7F → c.spf = false → lane < 64 → ∃ t, exec (.laneFailure core lane) s = .next t
           ∧ fails t (tset l 64 c.lanes) l c.orphan false false ∧ lost t ∧ told t ∧ t.mem = s.mem)
         ∧ (serves → c.deg = false → c.spare ≠ 0x7F ∨ c.spf = true ∨ lane = 64 → ∃ t, exec (.laneFailure core lane) s = .next t
           ∧ fails t c.lanes spare l true false ∧ lost t ∧ told t ∧ t.mem = s.mem)
         ∧ (serves → c.deg = true → ∃ t, exec (.laneFailure core lane) s = .next t
           ∧ (t.core core).out = true ∧ (t.core core).deg = true ∧ lost t ∧ goes t (fun a => a = core)))
       ∧ (8 ≤ die ∨ 16 ≤ cluster ∨ (s.die die).clout.getLsbD cluster = true ∨ (s.die die).clen.getLsbD cluster = false →
         exec (.clusterLoss die cluster) s = .next s)
       ∧ (die < 8 → cluster < 16 → (s.die die).clout.getLsbD cluster = false → (s.die die).clen.getLsbD cluster = true →
         ∃ t, exec (.clusterLoss die cluster) s = .next t
           ∧ (∀ k, k < 16 → (t.die die).clout.getLsbD k = ((s.die die).clout.getLsbD k || decide (k = cluster)))
           ∧ listed t ⟨6, BitVec.ofNat 64 (die * 2 ^ 8 + cluster), false⟩
           ∧ ((∃ k, k < 16 ∧ k ≠ cluster ∧ (s.die die).clen.getLsbD k = true ∧ (s.die die).clout.getLsbD k = false) →
             (t.die die).fatal = (s.die die).fatal ∧ goes t (fun a => a / 64 = die ∧ a % 64 / 4 = cluster))
           ∧ ((∀ k, k < 16 → k ≠ cluster → (s.die die).clen.getLsbD k = false ∨ (s.die die).clout.getLsbD k = true) →
             (s.die die).link = false → (t.die die).fatal = true
               ∧ ((s.die die).fatal = false → (t.die die).containing = true ∧ t.fab.recov = true))))

/-- R380, R381, R415, R454: a fatal die error fails the teams on the die with cause 0x0A, drops the contents of its cores'
caches and queues, loses the words registered to them, marks the die and posts a notice of kind 3; while it is contained the
package is in recovery. From a die that is unreachable every word of its home slices is lost, and the slice map leads round
it. The end of containment ends the recovery.
Where those rules leave a choice, the model's own stands: notes/assumptions 68. -/
def Obligations.FatalDieErrors : Prop :=
  ∀ (s : State) (die : Nat) (gone : Bool),
    let ran (o : Owner) : Prop := o.pkg = s.fab.pid.toNat ∧ o.agent < 512 ∧ o.agent / 64 = die
    let heldBy (w : Nat) : Prop := ∃ o a r, ran o ∧ (s.wordSt w = some (.open_ o a r) ∨ ∃ x, s.wordSt w = some (.closed o a r x))
    (8 ≤ die ∨ (s.die die).link = true ∨ ((s.die die).fatal = true ∧ gone = false) →
      exec (.fatalDieError die gone) s = .next s)
    ∧ (die < 8 → (s.die die).link = false → (s.die die).fatal = false ∨ gone = true →
      ∃ t, exec (.fatalDieError die gone) s = .next t ∧ t.fab.recov = true
        ∧ ((∀ x ∈ s.teams, s.noneAtBarrier x.1 = true) → t.mem = s.mem ∧ ∀ w, heldBy w → t.isLost w = true)
        ∧ (t.die die).fatal = true ∧ (t.die die).link = gone ∧ (t.die die).containing = true
        ∧ (∀ tk m, tget tk s.teams = some m → m.resident = true → m.failed = none → m.pair = .none → m.core / 64 = die →
            (t.team tk).failed = some 0x0A)
        ∧ (∀ c, c < 512 → c / 64 = die → t.cmem c = CoreMem.fresh)
        ∧ (∃ n : BitVec 512, t.pkg.notices.getLast? = some n ∧ bits n.toNat 15 8 = 3 ∧ bits n.toNat 7 0 = 0x18)
        ∧ (gone = true → (∀ w, s.homeDie w = die → t.isLost w = true)
          ∧ ((∃ d, d < 8 ∧ d ≠ die ∧ (s.die d).link = false) → ∀ k, k < 256 → t.l2.slice k / 32 ≠ die)))
    ∧ ((s.die die).containing = true → ∃ t, exec (.containmentEnd die) s = .next t ∧ t.fab = { s.fab with recov := false }
        ∧ t.die die = { s.die die with containing := false } ∧ { t with fab := s.fab, dies := s.dies } = s)
    ∧ ((s.die die).containing = false → exec (.containmentEnd die) s = .next s)

/-- R384, R389, R391, R404, R405, R411, R413, R449: requests of an owner of another package at the home slice of a word. READ
is answered with the data, and a local owner that held the word closed gives up every word of the line that it held so, and
keeps clean copies; WRITE registers the word to the writer and answers with its data; ATOMIC performs its function on memory
and answers with the old value, once a registration of its sender has come back. A word open to another owner is a race, which
is counted, one that is lost or poisoned an error: the sender takes the cause that the answer names. A word that another
package holds closed is forwarded to it for a read, which it answers as well, recalled for a write of part of the word, or
revoked for one of all of it, and the request waits at the head of the word's queue; a request behind others joins the end of
it. An answer tells the states of the words that do not stand in V. CLOSE turns an open registration of its sender into a
closed one and is acknowledged, WBACK brings the data back and ends the registration.
Where those rules leave a choice, the model's own stands: notes/assumptions 80 and 83. -/
def Obligations.RequestsAtTheHomeSlice : Prop :=
  ∀ (s : State) (o line i pa mask req : Nat) (strong whole wide : Bool) (fn : AtomFn) (x cmp : DWord) (v : Word) (other : Owner)
    (a r : Nat) (at_ : Bool),
    let own := ownerOfBits o
    let w := line % 2 ^ 44 / 64 * 64 + 4 * i
    let full (w : Nat) : Nat := s.fab.pid.toNat * 2 ^ 44 + w
    let said (t : State) (m : Msg) : Prop := t.fab.sent = m :: s.fab.sent
    let answer (w : Nat) (ws : List (Nat × Word)) (states : List (Nat × BitVec 2)) : Msg :=
      { kind := .data, to_ := own.pkg, line := full w / 64 * 64, words := ws, req := req, states := states }
    let error (c : MemCause) : Msg :=
      { kind := .err, to_ := own.pkg, line := full w / 64 * 64, words := [(full w, 0)], req := req, cause := some c }
    let kept (t : State) : Prop := t.mem = s.mem ∧ t.threads = s.threads ∧ t.ctxs = s.ctxs
    let others (t : State) : Prop := ∀ y, y ≠ w → t.wordSt y = s.wordSt y
    let refused (c : MemCause) (races : Nat) (z : Host.Outcome State Fault Refusal) : Prop := ∃ t, z = .next t ∧ kept t
      ∧ t.words = s.words ∧ said t (error c) ∧ t.l2.races = races
    let rd := exec (.read ⟨o, req⟩ line (2 ^ i)) s
    let wr := exec (.write ⟨o, req⟩ w ⟨strong, whole⟩) s
    let mine : WordSt := if strong then .closed own 0 63 false else .open_ own 0 63
    let registers (z : Host.Outcome State Fault Refusal) : Prop := ∃ t, z = .next t ∧ kept t ∧ others t ∧ t.wordSt w = some mine
      ∧ said t (answer w [(full w, mword w s.mem)] [(full w, if strong then 2 else 1)]) ∧ (whole = true → w ∉ t.poison)
    let theirs (y a r : Nat) : Prop := ∃ k, s.wordSt y = some (.closed other a r k)
    let inLine (y : Nat) : Prop := ∃ k, k < 16 ∧ y = w / 64 * 64 + 4 * k
    let races := min (s.l2.races + 1) (2 ^ 32 - 1)
    let n := if wide then 8 else 4
    let old := BitVec.ofNat 64 (bytesNat (mgets pa n s.mem))
    let local_ (o : Owner) : Prop := o.pkg = s.fab.pid.toNat ∧ o.agent < 0x240
    let deadline := s.time.toNat + 600 * max 1 s.fab.fwdto.toNat
    let waits (m : HomeMsg) (kind : FwdKind) (asks : Option (Nat × Nat)) (z : Host.Outcome State Fault Refusal) : Prop :=
      ∃ t, z = .next t ∧ kept t
      ∧ t.words = s.words ∧ t.held = s.held ++ [⟨w, other, kind, asks, deadline, false⟩] ∧ t.queueOf w = [.message m]
      ∧ said t { kind := .fwd, to_ := other.pkg, line := full w / 64 * 64, words := [(full w, 0)], fwd := some kind, asks := asks }
    let joins (m : HomeMsg) (z : Host.Outcome State Fault Refusal) : Prop := .message m ∉ s.queueOf w → ∃ t, z = .next t ∧ kept t
      ∧ t.words = s.words ∧ t.held = s.held ∧ t.fab = s.fab ∧ t.queueOf w = s.queueOf w ++ [.message m]
    own.pkg ≠ s.fab.pid.toNat → s.fenced own.pkg = false →
      (i < 16 → isLocalMem w = true → s.contained w = false → s.unasked w →
        (s.wordSt w = none → s.poisoned w = false →
          (∃ t, rd = .next t ∧ kept t ∧ t.words = s.words ∧ said t (answer w [(full w, mword w s.mem)] [])) ∧ registers wr)
        ∧ (s.wordSt w = none → s.poisoned w = true → refused causePoison s.l2.races rd
          ∧ (whole = false → refused causePoison s.l2.races wr) ∧ (whole = true → registers wr))
        ∧ (s.wordSt w = some (.open_ other a r) → other ≠ own →
          let c : MemCause :=
            { rank := 7, cause := 0x08, aux := BitVec.ofNat 24 other.bits, word := some (w % 4096), races := 1 }
          refused c races rd ∧ refused c races wr)
        ∧ (s.wordSt w = some (.lost other) → refused causeLost s.l2.races rd ∧ refused causeLost s.l2.races wr)
        ∧ (s.wordSt w = some (.closed other a r at_) → local_ other → s.slow = false →
          (∃ t, rd = .next t ∧ kept t ∧ said t (answer w [(full w, mword w s.mem)] [])
            ∧ (∀ y a r, inLine y → theirs y a r → t.wordSt y = none
                ∧ tget y (t.cmem other.agent).l1 = some ⟨mword y s.mem, a, r⟩)
            ∧ ∀ y, (inLine y → ∀ a r, ¬theirs y a r) → t.wordSt y = s.wordSt y)
          ∧ registers wr ∧ ∃ t, wr = .next t ∧ tget w (t.cmem other.agent).l1 = none)
        ∧ (s.wordSt w = some (.closed other a r at_) → other ≠ own → other.pkg ≠ s.fab.pid.toNat →
          s.fenced other.pkg = false → s.fab.recov = false →
          waits (.read own w req) .forward (some (own.pkg, req)) rd
            ∧ waits (.write own w strong whole req) (if whole then .revoke else .recall) none wr))
      ∧ (i < 16 → isLocalMem w = true → s.fab.recov = false → (∀ h ∈ s.held, h.word = w → h.extended = false) →
        s.heldWord w = true ∨ (∃ y q, s.queueOf w = y :: q) →
        joins (.read own w req) rd ∧ joins (.write own w strong whole req) wr)
      ∧ (pa < 2 ^ 44 → pa % n = 0 → isLocalMem pa = true →
        (Memory.wf s.mem = true →
          (∀ y ∈ atomWords pa wide, s.unasked y ∧ s.contained y = false ∧ s.wordSt y = none ∧ s.poisoned y = false) →
          ∃ t, exec (.atomic ⟨o, req⟩ pa wide fn x cmp) s = .next t ∧ t.threads = s.threads ∧ t.ctxs = s.ctxs
            ∧ mgets pa n t.mem = natBytes n (atomValue fn wide old x cmp).toNat
            ∧ (∀ y, y < pa ∨ pa + n ≤ y → mget y t.mem = mget y s.mem)
            ∧ (∀ y ∈ atomWords pa wide, t.wordSt y = none)
            ∧ said t (answer pa ((full pa, old.extractLsb' 0 32) :: if wide then [(full pa + 4, old.extractLsb' 32 32)] else []) []))
        ∧ ((∃ y ∈ atomWords pa wide, s.ownsWord own y = true) →
          ∃ t, exec (.atomic ⟨o, req⟩ pa wide fn x cmp) s = .next t ∧ kept t ∧ t.words = s.words))
      ∧ (∃ t m, exec (.close ⟨o, req⟩ line mask) s = .next t ∧ kept t ∧ said t m ∧ m.kind = .data ∧ m.to_ = own.pkg ∧ m.req = req
        ∧ ∀ y, ((∃ k, k < 16 ∧ mask.testBit k = true ∧ y = line % 2 ^ 44 / 64 * 64 + 4 * k) →
            ∀ a r, s.wordSt y = some (.open_ own a r) → t.wordSt y = some (.closed own a r false))
          ∧ ((∀ k, k < 16 → mask.testBit k = true → y ≠ line % 2 ^ 44 / 64 * 64 + 4 * k)
              ∨ (∀ a r, s.wordSt y ≠ some (.open_ own a r)) → t.wordSt y = s.wordSt y))
      ∧ (s.wordSt w = some (.open_ own a r) ∨ s.wordSt w = some (.closed own a r at_) → Memory.wf s.mem = true → i < 16 →
        ∃ t, exec (.wback o [(full w, v)]) s = .next t ∧ t.threads = s.threads ∧ t.ctxs = s.ctxs ∧ t.wordSt w = none ∧ others t
          ∧ mgets w 4 t.mem = natBytes 4 v.toNat ∧ (∀ h ∈ t.held, h.word ≠ w)
          ∧ ∀ y, y < w ∨ w + 4 ≤ y → mget y t.mem = mget y s.mem)
      ∧ ((∀ a r, s.wordSt w ≠ some (.open_ own a r)) → (∀ a r k, s.wordSt w ≠ some (.closed own a r k)) → i < 16 →
        exec (.wback o [(full w, v)]) s = .next s)

/-- R391, R448-R456, R473, R480: what comes back over the fabric. A forward from another package's home is answered with the
data of the words that this package holds: those named for a recall or a revoke, and for a read every closed one of the line
that their owner holds, which a reader of a third package receives as well; their registrations end, and after a read the
owner keeps clean copies. One that names a word whose registration is still on its way is kept until it is here; in recovery
it is answered with HOLD and kept. A local owner answers the forward of a word whose home is here. Data of a forwarded word,
from the package that the forward went to and not after its deadline, enters memory and ends the forward. An answer to a
request joins it, registers the word that it asked for, and ends a CLOSE; one that comes after the request's deadline finds it
failed. ERR fails the request with its cause; a CLOSE that it or the timeout ends leaves its release cause 0x0A. The first
HOLD moves a forward's deadline, and a request's, and goes on, with the name of the package in recovery, to the packages whose
requests wait. A forward whose deadline has come is lost, and its waiters learn of it; so does the access of a request.
Where those rules leave a choice, the model's own stands: notes/assumptions 80, 81, 119 and 123. -/
def Obligations.AnswersAndTimeouts : Prop :=
  ∀ (s : State) (line mask pa w req recovering sender n u : Nat) (kind : FwdKind) (asks : Option (Nat × Nat)) (cause : BitVec 8)
    (aux : BitVec 24) (v : Word) (states : List (Nat × BitVec 2)) (h : Held) (x : Request) (a r : Nat) (at_ : Bool),
    let pid := s.fab.pid.toNat
    let full (w : Nat) : Nat := pid * 2 ^ 44 + w
    let home := line / 2 ^ 44
    let inLine (y : Nat) : Prop := ∃ k, k < 16 ∧ y = line / 64 * 64 + 4 * k
    let closed (y : Nat) (g : GuestReg) : Prop := tget y s.guestRegs = some g ∧ g.isOpen = false
    let named (y : Nat) : Prop := ∃ k, k < 16 ∧ mask.testBit k = true ∧ y = line / 64 * 64 + 4 * k
    let asked (y : Nat) (g : GuestReg) : Prop := tget y s.guestRegs = some g ∧ (g.isOpen = false ∨ kind = .recall)
    let gives (y : Nat) (g : GuestReg) : Prop :=
      if kind.takes = true then named y ∧ asked y g
      else inLine y ∧ closed y g ∧ ∃ z k, named z ∧ closed z k ∧ k.owner = g.owner
    let any : Prop := ∃ y g, named y ∧ asked y g
    let early : Prop := ∃ y, named y ∧ s.asksFor y = true
    let fwd := exec (.fwd line ⟨mask, kind, asks⟩) s
    let kept : Fabric := { s.fab with kept := s.fab.kept ++ [(line, ⟨mask, kind, asks⟩)] }
    let only (t : State) : Prop := { t with fab := s.fab } = s
    let requests (t : State) (f : Request → Option Request) : Prop :=
      only t ∧ t.fab = { s.fab with requests := s.fab.requests.filterMap f }
    let onDue (due : Request → Bool) (f : Request → Request) (x : Request) : Option Request :=
      if due x = true ∧ x.result = .wait then (if x.kind = .close then none else some (f x)) else some x
    let moved : Nat := 600 * (1000 * max 1 s.fab.holdlim.toNat)
    let held1 : Prop := h ∈ s.held ∧ h.word = w ∧ ∀ x ∈ s.held, x.word = w → x = h
    let told (t : State) (kind : MsgKind) (holds : Option Nat) (y : Nat) : Prop := ∀ m, .message m ∈ s.queueOf y → m.asks.1.pkg ≠ pid →
      ∃ z ∈ t.fab.sent, z.kind = kind ∧ z.to_ = m.asks.1.pkg ∧ z.req = m.asks.2 ∧ z.line = full y / 64 * 64 ∧ z.holds = holds
    let here := exec (.data ⟨req, [(full w, v)], sender, states⟩) s
    let there := exec (.data ⟨req, [(pa, v)], sender, states⟩) s
    let answered (x : Request) : Bool := decide (x.id = req) && !s.fenced (x.line / 2 ^ 44)
    let noEntry : Prop := ∀ x ∈ s.fab.requests, x.id = req → ∀ a n, x.for_ ≠ .entry a n
    let noClose : Prop := ∀ x ∈ s.fab.requests, x.id = req → x.kind ≠ .close
    let other : List Nat := (states.filter fun x => decide (x.2 ≠ 0)).map (·.1)
    let one : Prop := s.fab.requests.filter (fun y => decide (y.id = req)) = [x] ∧ x.result = .wait
    let loses (i : Instr) : Prop := one → x.kind = .close → x.words = [u] → x.for_ = .party (.service n) →
      ∃ t, exec i s = .next t ∧ t.fab = { s.fab with requests := s.fab.requests.filter fun y => decide (y.id ≠ req) }
        ∧ (t.service n).deferred = (s.service n).deferred ++ [⟨0x0A, u / 4 * 4, (s.lanes (.service n)).map (·.ref), 0⟩]
    (home ≠ pid → s.fenced home = false →
      (any ∨ early → s.fab.recov = true → ∃ t, fwd = .next t ∧ only t ∧ t.fab.kept = kept.kept
        ∧ ∃ ws, (∀ y, (y, (0 : Word)) ∈ ws ↔ named y) ∧ t.fab.sent =
            { kind := .hold, to_ := home, line := line / 64 * 64, words := ws, holds := some pid } :: s.fab.sent)
      ∧ (early → s.fab.recov = false → fwd = .next { s with fab := kept })
      ∧ (any → ¬early → s.fab.recov = false → (∀ p k, asks = some (p, k) → p ≠ pid) →
        ∃ t, ∃ ws : List (Nat × Word), fwd = .next t ∧ t.mem = s.mem
        ∧ (let msg (to_ k : Nat) : Msg := { kind := .data, to_ := to_, line := line / 64 * 64, words := ws, req := k }
           t.fab.sent = match asks with
             | some (p, k) => if p = home then msg home 0 :: s.fab.sent else msg p k :: msg home 0 :: s.fab.sent
             | none => msg home 0 :: s.fab.sent)
        ∧ (∀ y x, (y, x) ∈ ws ↔ ∃ g, gives y g ∧ g.val = x)
        ∧ (∀ y g, gives y g → tget y t.guestRegs = none ∧ tget (farKey y) (t.cmem g.owner.agent).l1 =
            if kind.takes = true then none else some ⟨g.val, g.asn, g.region⟩)
        ∧ ∀ y, (∀ g, ¬gives y g) → tget y t.guestRegs = tget y s.guestRegs))
    ∧ (home ≠ pid → s.fenced home = true ∨ (¬any ∧ ¬early) → fwd = .next s)
    ∧ (held1 → w < 2 ^ 44 → w % 4 = 0 → s.localOwner h.owner = true → s.wordSt w = some (.closed h.owner a r at_) →
      ∃ t, exec (.fwd (full w) ⟨2 ^ (w % 64 / 4), kind, asks⟩) s = .next t ∧ t.mem = s.mem ∧ t.wordSt w = none
        ∧ (∀ x ∈ t.held, x ∈ s.held ∧ x.word ≠ w)
        ∧ tget w (t.cmem h.owner.agent).l1 = if h.kind.takes = true then none else some ⟨mword w s.mem, a, r⟩)
    ∧ (w < 2 ^ 44 → w % 4 = 0 → Memory.wf s.mem = true → s.fenced sender = false →
      h ∈ s.held → h.word / 64 = w / 64 → h.owner.pkg = sender → s.time.toNat ≤ h.deadline →
      (∀ x ∈ s.held, x.word / 64 = w / 64 → x.owner.pkg = sender → x = h) →
      s.wordSt w = some (.closed h.owner a r at_) ∨ (s.wordSt w = some (.open_ h.owner a r) ∧ h.word = w ∧ h.kind = .recall) →
        ∃ t, here = .next t ∧ t.fab = s.fab ∧ t.threads = s.threads ∧ t.wordSt w = none
          ∧ mgets w 4 t.mem = natBytes 4 v.toNat ∧ (∀ x, x ∈ t.held ↔ x ∈ s.held ∧ x.word ≠ w)
          ∧ ∀ y, y < w ∨ w + 4 ≤ y → mget y t.mem = mget y s.mem)
    ∧ (w < 2 ^ 44 → w % 4 = 0 → s.fenced sender = true ∨ (∀ x ∈ s.held, s.time.toNat ≤ x.deadline → x.word / 64 = w / 64 →
          x.owner.pkg = sender → (∀ a r k, s.wordSt w ≠ some (.closed x.owner a r k))
            ∧ (x.word = w → x.kind = .recall → ∀ a r, s.wordSt w ≠ some (.open_ x.owner a r))) →
        here = .next s)
    ∧ (pa / 2 ^ 44 ≠ pid → s.fenced sender = false → noEntry →
      ((∀ x ∈ s.fab.requests, x.id = req → x.kind ≠ .write ∧ s.time.toNat ≤ x.deadline) →
        (∃ t, there = .next t ∧ requests t (onDue answered fun x =>
          { x with answer := some (tset pa v (x.answer.getD [])), registered := x.registered ++ other }))
        ∧ ∃ t, exec (.data ⟨req, [], sender, states⟩) s = .next t ∧ requests t (onDue answered fun x =>
          { x with answer := some (x.answer.getD []), registered := x.registered ++ other }))
      ∧ (noClose → (∃ x ∈ s.fab.requests, answered x = true ∧ x.deadline < s.time.toNat) →
        ∃ t, ∃ c : MemCause, there = .next t ∧ c.cause = 0x0A ∧ requests t (onDue answered fun x => { x with failed := some c }))
      ∧ (one → x.kind = .write → x.words = [pa] → s.time.toNat ≤ x.deadline → s.fenced (x.line / 2 ^ 44) = false →
        s.ownGuest x.owner pa = none → ∃ t, there = .next t ∧ tget pa t.guest = none ∧ t.mem = s.mem
          ∧ tget pa t.guestRegs = some ⟨v, x.owner, !x.strong, x.asn, x.region, false, false⟩))
    ∧ (s.fenced sender = true → there = .next s)
    ∧ (noClose → ∃ t, ∃ c : MemCause, exec (.err req ⟨pa, cause, aux⟩) s = .next t
      ∧ c.cause = (if cause = 0x08 ∨ cause = 0x09 then cause else 0x0A) ∧ c.aux = (if cause = 0x08 then aux else 0)
      ∧ requests t (onDue (fun x => decide (x.id = req)) fun x => { x with failed := some c }))
    ∧ (noClose → ∃ t, ∃ c : MemCause, exec (.requestTimeout req) s = .next t ∧ c.cause = 0x0A ∧ requests t (onDue
        (fun x => decide (x.id = req) && decide (x.deadline ≤ s.time.toNat)) fun x => { x with failed := some c }))
    ∧ loses (.err req ⟨pa, cause, aux⟩)
    ∧ (x.deadline ≤ s.time.toNat → loses (.requestTimeout req))
    ∧ (s.fenced (if pa / 2 ^ 44 = pid then recovering else pa / 2 ^ 44) = true → exec (.hold pa recovering) s = .next s)
    ∧ (s.fenced (pa / 2 ^ 44) = false → pa / 2 ^ 44 ≠ pid → ∃ t, exec (.hold pa recovering) s = .next t ∧ only t
        ∧ t.fab = { s.fab with requests := s.fab.requests.map fun x =>
            if pa / 4 * 4 ∈ x.words ∧ x.extended = false then
              { x with
                deadline := s.time.toNat + moved + (if pa / 2 ^ 44 = recovering then 0 else 600 * max 1 s.fab.fwdto.toNat)
                extended := true }
            else x })
    ∧ (s.fenced recovering = false → pa / 2 ^ 44 = pid → (∀ x ∈ s.held, x.word < 2 ^ 44) →
        ∃ t, exec (.hold pa recovering) s = .next t ∧ t.mem = s.mem ∧ t.words = s.words ∧ t.held = s.held.map (fun x =>
          if x.extended = false ∧ full x.word / 64 * 64 = pa / 64 * 64 ∧ x.owner.pkg = recovering then
            { x with deadline := s.time.toNat + moved, extended := true }
          else x)
        ∧ ∀ x ∈ s.held, x.extended = false → full x.word / 64 * 64 = pa / 64 * 64 → x.owner.pkg = recovering →
            told t .hold (some recovering) x.word)
    ∧ (held1 → w < 2 ^ 44 →
      (s.time.toNat < h.deadline → exec (.forwardTimeout w) s = .next s)
      ∧ (h.deadline ≤ s.time.toNat → ∃ t, exec (.forwardTimeout w) s = .next t ∧ t.mem = s.mem
        ∧ t.wordSt w = some (.lost h.owner) ∧ (∀ x ∈ t.held, x.word ≠ w)
        ∧ t.l2.lost = min (s.l2.lost + 1) (2 ^ 32 - 1) ∧ told t .err none w))
    ∧ ((∀ x ∈ s.held, x.word ≠ w) → exec (.forwardTimeout w) s = .next s)

/-- R393, R418-R423, R428, R432, R433, R454: a kick wakes the service thread of its queue, which latches the regions of ASN 0,
or latches its launch queue with the time at which each record was kicked, a ring new to it with no kicks; one that its sender
may not make does nothing. A queue's next record is taken once the older one's teams are placed and its words are at their home
slices: HEAD goes on, and the record is in progress, or rejected, a version outside the accepted range with code 1. SCRPLY
answers the slots of its address; SRING sets the accepted versions. Where those rules leave a choice, the model's own stands:
notes/assumptions 72, 73, 79 and 126. -/
def Obligations.RecordsAndReplies : Prop :=
  ∀ (s : State) (q asn tail head ring a slot : Nat) (service : Bool) (e : QEntry) (lq : LatchedQueue) (v : DWord),
    let may : Prop := service = true ∨ e.asn = asn ∨ (e.kv = true ∧ e.kasn = asn)
    let n := q - 4096
    let kept (y : LatchedQueue) : Bool := s.inProgress q || s.sameRing q y e
    let old : List (Nat × Nat) := match tget q s.pkg.queues with
      | some y => if kept y then y.kicks else []
      | none => []
    let busy : Prop := ∃ r ∈ s.pkg.records, r.queue = q ∧ r.state = 1
    let le : QEntry := ⟨lq.base, lq.asn, lq.sz, false, 0⟩
    let walked : State := (s.devWalked lq.asn lq.base).devWalked lq.asn (le.slot head)
    let x : BitVec 512 := BitVec.ofNat 512 (walked.devRead a 64)
    let code := walked.rejCode x (launchOf x lq.asn q head s.nextId 0)
    let now : State := (walked.devFetch a 64).1.devWriteNat (ring + 8) 8 (head + 1)
    let crecVa := recBits x 511 448 % 2 ^ 60
    let crec : Option Nat := now.devTranslate lq.asn crecVa
    let recordWord (w : Nat) : Prop := ∃ y, a ≤ y ∧ y < a + 64 ∧ w = y / 4 * 4
    (s.queueEntry q = none → exec (.notifyKick q asn service) s = .next s)
    ∧ (s.queueEntry q = some e → ¬may → exec (.notifyKick q asn service) s = .next s)
    ∧ (s.queueEntry q = some e → may →
      (4096 ≤ q → (∀ x, (s.ctx (.service n)).wait = some (.sleep x) → ∃ t, exec (.notifyKick q asn service) s = .next t
          ∧ t.ctx (.service n) = { s.ctx (.service n) with wait := none } ∧ (∀ p, p ≠ .service n → t.ctx p = s.ctx p)
          ∧ t.service n = { s.service n with regions := s.latchRegions 0 } ∧ (∀ k, k ≠ n → t.service k = s.service k)
          ∧ { t with ctxs := s.ctxs, services := s.services } = s)
        ∧ ((∀ x, (s.ctx (.service n)).wait ≠ some (.sleep x)) → ∃ t, exec (.notifyKick q asn service) s = .next t
          ∧ t.service n = { s.service n with wake := true } ∧ { t with services := s.services } = s))
      ∧ (q < 4096 → ∃ t, exec (.notifyKick q asn service) s = .next t
          ∧ (∀ k, k ≠ q → tget k t.pkg.queues = tget k s.pkg.queues)
          ∧ ∃ z, tget q t.pkg.queues = some z
            ∧ { t with pkg := { t.pkg with queues := s.pkg.queues } } = s.devWalked z.asn z.base
            ∧ (∀ y, tget q s.pkg.queues = some y → z.first = if kept y then y.first else s.nextId)
            ∧ (tget q s.pkg.queues = none ∨ ¬busy → z.base = e.base ∧ z.asn = e.asn ∧ z.sz = e.sz)
            ∧ (busy → ∀ y, tget q s.pkg.queues = some y → z.base = y.base ∧ z.asn = y.asn ∧ z.sz = y.sz)
            ∧ (s.ringEnds z.entry = none → z.kicks = old)
            ∧ ∀ i later, s.ringEnds z.entry = some (tail, head) → head ≤ i → i < tail →
              z.kickedAt later i = ((old.find? fun k => decide (i < k.1) && decide (k.1 ≤ tail)).map (·.2)).getD s.time.toNat))
    ∧ (tget q s.pkg.queues = none → exec (.launchRecordTake q) s = .next s)
    ∧ (tget q s.pkg.queues = some lq → s.ringEnds le = some (tail, head) →
      (tail ≤ head ∨ (∃ r ∈ s.pkg.records, r.queue = q ∧ r.state = 1 ∧ r.next < recTeams r.bits) →
        exec (.launchRecordTake q) s = .next s)
      ∧ (head < tail → (∀ r ∈ s.pkg.records, r.queue = q → r.state = 1 → recTeams r.bits ≤ r.next) →
        s.devTranslate lq.asn lq.base = some ring → s.devTranslate lq.asn (le.slot head) = some a →
        ((∃ w, recordWord w ∧ (s.contained w = true
            ∨ ∃ o n g k, s.wordSt w = some (.closed o n g k) ∧ s.localOwner o = false ∧ s.fenced o.pkg = false)) →
          ∃ t, exec (.launchRecordTake q) s = .next t ∧ t.pkg.records = s.pkg.records ∧ t.mem = walked.mem)
        ∧ ((∀ w, recordWord w → s.contained w = false ∧ s.heldWord w = false
            ∧ ∀ o n g k, s.wordSt w = some (.closed o n g k) → s.localOwner o = true) → recBits x 271 271 = 0 →
        ∃ t, exec (.launchRecordTake q) s = .next t
          ∧ t.pkg.records = s.pkg.records ++ [⟨s.nextId, q, head, lq.asn, x, 0, 0, 0, 0, if code = 0 then 1 else 4,
              lq.kickedAt s.time.toNat head⟩]
          ∧ t.pkg.queues = s.pkg.queues ∧ t.threads = s.threads ∧ t.ctxs = s.ctxs ∧ t.teams = s.teams
          ∧ (recBits x 287 272 ≠ 1 → code = 1)
          ∧ (Memory.wf s.mem = true → s.devPending = [] → walked.mem = s.mem → (now.devWalked lq.asn crecVa).mem = now.mem →
              (∀ i, i < 8 → s.isLost ((ring + 8 + i) / 4 * 4) = false ∧ s.devReady ((ring + 8 + i) / 4 * 4) = true) →
              (∀ c, crec = some c → c + 32 ≤ ring + 8 ∨ ring + 16 ≤ c) →
              mgets (ring + 8) 8 t.mem = natBytes 8 (head + 1)
              ∧ ∀ y, (y < ring + 8 ∨ ring + 16 ≤ y) → (∀ c, crec = some c → y < c ∨ c + 32 ≤ y) → mget y t.mem = mget y s.mem))))
    ∧ (∃ t, exec (.scrplyStore slot) s = .next t ∧ { t with pkg := s.pkg } = s
        ∧ t.pkg = { s.pkg with calls := s.pkg.calls.map fun c =>
            ⟨c.id, c.party, c.try_, c.parts.map fun y => ⟨y.ref, y.slot, y.answered || decide (y.slot = slot)⟩⟩ })
    ∧ (∃ t, exec (.sringWrite v) s = .next t ∧ t.threads = s.threads ∧ t.ctxs = s.ctxs ∧ t.fab.recov = true
        ∧ { t.fab with recov := s.fab.recov, ports := s.fab.ports, noticed := s.fab.noticed } = s.fab
        ∧ t.pkg.svMin.toNat = v.toNat % 2 ^ 16 ∧ t.pkg.svMax.toNat = v.toNat / 2 ^ 16 % 2 ^ 16 ∧ t.pkg.cur = t.pkg.svMax
        ∧ (s.queueEntry 4097 = none → t.mem = s.mem))

/-- R13, R24, R159, R183, R198, R202, R271, R306, R315, R388, R422-R427, R450: TEAM_PLACE puts the next team of the record
whose turn it is on a core that it fits, with a context area from the pool: its threads stand at KENTRY with their numbers and
zeroed registers, its headland at HENTRY. TEAM_PREEMPT saves a team that makes room for one of a higher class; a region
write-back that meets uncorrectable data faults its group with the words completed as COUNT, and the team is not saved; a
guarded team rolls back instead. TEAM_RESTORE puts it back as it was; TEAM_COMPLETE ends a team whose threads have ended, once
every home slice has acknowledged its release, and counts it in its record; a failed one posts a notice for itself and one for
each team that it has withdrawn. Where those rules leave a choice, the model's own stands: notes/assumptions 74, 75, 76, 77 and
108. -/
def Obligations.Teams : Prop :=
  ∀ (s : State) (q core base tk : Nat) (r : Record),
    let l := launchOf r.bits r.asn r.queue r.index r.id r.next
    let new := s.nextId
    let placed (t : State) : Team := t.team new
    let m := s.team tk
    let area (x : Team) (y : Nat) : Prop := x.ctxBase % 2 ^ 44 ≤ y ∧ y < x.ctxBase % 2 ^ 44 + x.ctxSize
    let record (t : State) (gid : Nat) : Nat := bytesNat (mgets ((m.ctxBase + 0x80 + 32 * gid) % 2 ^ 44) 32 t.mem)
    let writable (gid : Nat) : Prop := Memory.wf s.mem = true ∧ s.devPending = [] ∧ ∀ i, i < 32 →
      let w := ((m.ctxBase + 0x80 + 32 * gid) % 2 ^ 44 + i) / 4 * 4
      s.isLost w = false ∧ s.devReady w = true
    let alone : Prop := m.resident = true ∧ m.pair = .none ∧ s.allDrained tk = true
    let done_ : Prop := alone ∧ m.failed = none ∧ s.threadsEnded tk = true ∧ m.launch.grd = 0
    let acknowledged : Prop := (∀ y ∈ s.fab.requests, y.kind = .close → s.owns m y.owner = false)
      ∧ ∀ y ∈ s.guestRegs, s.owns m y.2.owner = true → y.2.isOpen = false
    let told (l : Launch) (cause : Nat) : BitVec 512 := noticeBits 0 l.tx l.ty l.tz l.asn s.time.toNat m.core 4 cause
    (s.nextRecord = none → exec (.teamPlace q core) s = .next s ∧ exec (.teamPreempt tk) s = .next s)
    ∧ (s.nextRecord = some r →
      (r.queue ≠ q ∨ s.fits l core [] = false ∨ s.savedOfClass l.cls = true ∨ s.poolRoom (ctxSize l) = none →
        exec (.teamPlace q core) s = .next s)
      ∧ (r.queue = q → s.fits l core [] = true → s.savedOfClass l.cls = false → s.poolRoom (ctxSize l) = some base → l.grd ≠ 2 →
        ∃ t, exec (.teamPlace q core) s = .next t ∧ t.nextId = s.nextId + 1
          ∧ (placed t).launch = l ∧ (placed t).core = core ∧ (placed t).resident = true ∧ (placed t).failed = none
          ∧ (placed t).ctxBase = base ∧ (placed t).ctxSize = ctxSize l ∧ (placed t).placedAt = s.time.toNat
          ∧ (placed t).pad = [] ∧ (placed t).full = [] ∧ (placed t).views = [] ∧ (placed t).barriers = []
          ∧ (∀ i, i < l.t → let y := t.thread (.compute new i)
              y.tid = i ∧ y.gid = i / l.w ∧ y.lane = i % l.w ∧ y.live = true ∧ y.wb = 4 ∧ y.p1 = false ∧ y.p2 = false ∧ y.p3 = false
                ∧ y.fflags = 0 ∧ y.fmask = 0 ∧ y.xstat = 0 ∧ ∀ k, y.word k = 0)
          ∧ (∀ i j, i < l.t → j = i % l.w / 4 → let c := t.ctx (.gang new (i / l.w) j)
              c.pc = l.kentry ∧ c.stack = [] ∧ c.wait = none ∧ c.idle = false)
          ∧ (∀ i, i < l.t → let g := t.group new (i / l.w)
              g.live = true ∧ g.ended = false ∧ g.faulted = none ∧ g.width = l.w ∧ g.queues = [])
          ∧ (l.hentry ≠ 0 → (placed t).hEnded = false ∧ (t.ctx (.headland new)).pc = l.hentry
              ∧ (t.ctx (.headland new)).wait = none)
          ∧ (l.hentry = 0 → (placed t).hEnded = true)
          ∧ { r with next := r.next + 1 } ∈ t.pkg.records
          ∧ ∀ y, y < base % 2 ^ 44 ∨ base % 2 ^ 44 + 0xB000 ≤ y → mget y t.mem = mget y s.mem)
      ∧ (s.savable tk = true → s.nextVictim l tk = true → ∀ gid n ls, s.saveFault tk = some (gid, n, ls) →
          (m.launch.grd ≠ 0 → exec (.teamPreempt tk) s = .next (s.consumePoison tk))
          ∧ (m.launch.grd = 0 → (∀ x ∈ ls, x.ix < 64) → ∃ t, exec (.teamPreempt tk) s = .next t ∧ t.team tk = m
            ∧ (∀ x rest, ls = x :: rest →
                (t.group tk gid).faulted = some (gangQuads (s.gang (.gang tk gid (x.ix / 4)))))
            ∧ (t.group tk gid).saved = some n ∧ (∀ p, t.ctx p = s.ctx p)
            ∧ (writable gid → bits (record t gid) 35 31 = n ∧ bits (record t gid) 63 56 = 0x09
              ∧ bits (record t gid) 255 192 = (laneMask ls).toNat)))
      ∧ (s.savable tk = true → s.nextVictim l tk = true → s.saveFault tk = none → ∃ t, exec (.teamPreempt tk) s = .next t
          ∧ (t.team tk).preempted = true ∧ (t.team tk).resident = false ∧ (t.team tk).savedAt = s.time.toNat
          ∧ (t.team tk).launch = m.launch
          ∧ (∀ o w a x k, s.owns m o = true → t.wordSt w ≠ some (.open_ o a x) ∧ t.wordSt w ≠ some (.closed o a x k))
          ∧ (∀ k tid, k ≠ tk → t.thread (.compute k tid) = s.thread (.compute k tid))
          ∧ (∀ tid, t.thread (.compute tk tid) = { s.thread (.compute tk tid) with dirty := [] })
          ∧ (∀ k g j, t.ctx (.gang k g j) = s.ctx (.gang k g j))
          ∧ ∀ y, ¬area m y → mget y t.mem = mget y s.mem)
      ∧ (s.savable tk = false ∨ s.nextVictim l tk = false → exec (.teamPreempt tk) s = .next s))
    ∧ (m.preempted = true → m.ended = false → s.firstToRestore tk = true → s.partnerApart tk core = true →
        s.fits m.launch core [] = true → ∃ t, exec (.teamRestore tk core) s = .next t ∧ (t.team tk).resident = true
          ∧ (t.team tk).core = core ∧ (t.team tk).launch = m.launch ∧ (t.team tk).ctxBase = m.ctxBase
          ∧ (t.team tk).pad = m.pad ∧ (t.team tk).full = m.full ∧ (t.team tk).barriers = m.barriers
          ∧ t.threads = s.threads ∧ t.ctxs = s.ctxs ∧ t.mem = s.mem)
    ∧ (m.preempted = false ∨ m.ended = true ∨ s.fits m.launch core [] = false → exec (.teamRestore tk core) s = .next s)
    ∧ (m.resident = false ∨ (m.failed = none ∧ s.threadsEnded tk = false) → exec (.teamComplete tk) s = .next s)
    ∧ (done_ → (∃ y ∈ s.fab.requests, y.kind = .close ∧ s.owns m y.owner = true) →
        ∃ t, exec (.teamComplete tk) s = .next t ∧ t.team tk = m ∧ t.pkg = s.pkg)
    ∧ (alone → acknowledged → ∀ cause, m.failed = some cause → ∃ t, exec (.teamComplete tk) s = .next t
        ∧ (t.team tk).ended = true ∧ (t.team tk).failed = some cause
        ∧ t.pkg.notices = s.pkg.notices ++ told m.launch cause.toNat ::
            m.withdrawn.map fun z => told { m.launch with tx := z.1, ty := z.2.1, tz := z.2.2 } cause.toNat)
    ∧ (done_ → m.endCause = none → s.recordOf m.launch = some r → acknowledged → ∃ t, exec (.teamComplete tk) s = .next t
        ∧ (t.team tk).ended = true ∧ (∀ x, refOfTeam tk x = true → t.thread x = Thread.absent x)
        ∧ (∀ o w a x, s.owns m o = true → x < 64 → t.wordSt w ≠ some (.open_ o a x))
        ∧ let n := r.ndone + 1 + m.withdrawn.length
          { r with ndone := n, state := if recTeams r.bits ≤ n + r.nfail then (if r.nfail = 0 then 2 else 3) else r.state }
            ∈ t.pkg.records)

/-- R224, R228, R379, R443, R454, R456, R465, R470-R472, R478: the registers as writes leave them. A register that a write
names reads as written, with its reserved bits as the register has them, and nothing else changes; a write that its register
refuses changes nothing: PIDR once it is written or of 0xFFF, DTABL below 4096 or with a team or an address space about, LRM
of a failed lane or of one that stands twice, CAPBM of a 1, a store of another size than 8 bytes. A fence loses the words
whose forwards go to its package and fails the requests that wait on it. A package that enters recovery by FRECOV sends a
notice on each port that is up; an accepted image ends recovery and is measured, a rejected one changes nothing but the number
of the images offered. Where those rules leave a choice, the model's own stands: notes/assumptions 90, 99 and 100, for the
masks of PIDR and HRR 113, for a CLOSE that a fence ends 119, for the fuse values of HVER's MIN and MAX 4. -/
def Obligations.RegisterWrites : Prop :=
  ∀ (s : State) (v : DWord) (v32 : Word) (j core die port pa n : Nat),
    let f := s.fab
    let c := s.core core
    let field (l : Nat) : Nat := v32.toNat / 2 ^ (7 * (l % 4)) % 128
    let checked (l : Nat) : Prop := l < 64 ∧ ¬(c.deg = true ∧ l = c.orphan)
    let next (l : Nat) : Nat := if ¬(c.deg = true ∧ l = c.orphan) ∧ l / 4 = j then field l else c.physLane l
    let failed (p : Nat) : Bool := if p = 64 then c.spf else c.lfail.getLsbD p
    let fits : Prop := s.residentOn core = false
      ∧ (∀ l, checked l → l / 4 = j → field l ≤ 64 ∧ failed (field l) = false)
      ∧ ∀ l k, checked l → checked k → next l = next k → l = k
    let idle : Prop := s.anyResident = false ∧ s.asnInUse = false
    let size := if 33 < v.toNat / 2 ^ 56 then (tgetD port 0 f.hbase).toNat / 2 ^ 56 else v.toNat / 2 ^ 56
    let base := v.toNat / 2 ^ 12 % 2 ^ 44
    let hit (o : Owner) : Prop := o.pkg = v.toNat % 2 ^ 12
    let stores (pa : Nat) (p : State → Prop) : Prop := ∃ t, exec (.registerWrite pa 8 v) s = .next t ∧ p t
    let block (u off : Nat) : Nat := u * 4096 + off
    let image (old : List Nat) : List Nat := if s.boot.accepts 1 then old ++ [s.boot.images] else old
    (v.getLsbD 0 = false → ∃ t, exec (.frecovWrite v) s = .next t ∧ t.fab = { f with recov := false } ∧ { t with fab := f } = s)
    ∧ (v.getLsbD 0 = true → f.recov = true → exec (.frecovWrite v) s = .next s)
    ∧ (v.getLsbD 0 = true → f.recov = false → ∃ t, exec (.frecovWrite v) s = .next t ∧ { t with fab := f } = s
        ∧ { t.fab with ports := f.ports } = { f with recov := true, noticed := s.time.toNat }
        ∧ ∀ k, k < 18 → t.fab.port k = if (f.port k).up then (f.port k).push none else f.port k)
    ∧ (∃ t, exec .imageSwitchComplete s = .next t ∧ { t with fab := f, boot := s.boot } = s
        ∧ t.fab = { f with recov := f.recov && !s.boot.accepts 1 } ∧ t.boot.images = s.boot.images + 1
        ∧ tgetD 1 [] t.boot.meas = image (tgetD 1 [] s.boot.meas)
        ∧ tgetD 1 [] t.boot.antiRollback = image (tgetD 1 [] s.boot.antiRollback))
    ∧ (j < 64 → ∃ t, exec (.fenceWrite j v) s = .next t ∧ t.mem = s.mem ∧ t.threads = s.threads
        ∧ (t.fab.reg (0x200 + 8 * j) = v.toNat % 2 ^ 12 + if v.getLsbD 63 then 2 ^ 63 + 2 ^ 62 else 0)
        ∧ (v.getLsbD 63 = true → t.fenced (v.toNat % 2 ^ 12) = true
          ∧ (∀ h ∈ s.held, hit h.owner → t.isLost h.word = true ∧ ∀ x ∈ t.held, x.word ≠ h.word)
          ∧ (∀ r ∈ t.fab.requests, r.line / 2 ^ 44 = v.toNat % 2 ^ 12 → r.result ≠ .wait)
          ∧ (∀ r ∈ f.requests, r.line / 2 ^ 44 = v.toNat % 2 ^ 12 → r.result = .wait → r.kind ≠ .close →
              ∃ x, x.cause = 0x0A ∧ { r with failed := some x } ∈ t.fab.requests)
          ∧ ∀ r ∈ f.requests, r.line / 2 ^ 44 ≠ v.toNat % 2 ^ 12 → r ∈ t.fab.requests)
        ∧ (v.getLsbD 63 = false → t.words = s.words ∧ t.held = s.held ∧ t.fab.requests = f.requests))
    ∧ (f.pidSet = false → v.toNat % 2 ^ 12 ≠ 0xFFF → ∃ t, exec (.pidrWrite v) s = .next t
        ∧ t.fab = { f with pid := BitVec.ofNat 12 v.toNat, pidSet := true } ∧ { t with fab := f } = s)
    ∧ (f.pidSet = true ∨ v.toNat % 2 ^ 12 = 0xFFF → exec (.pidrWrite v) s = .next s)
    ∧ (∃ t, exec (.hverWrite v) s = .next t ∧ { t with fab := f } = s ∧ t.fab.reg 0x030 =
        (if v.toNat / 2 ^ 32 % 2 ^ 16 = 1 then 2 ^ 48 else 0) + v.toNat / 2 ^ 32 % 2 ^ 16 * 2 ^ 32 + 0x00010001)
    ∧ (v.getLsbD 0 = false → ∃ t, exec (.capbmWrite v) s = .next t ∧ t.bm = false ∧ { t with bm := s.bm } = s)
    ∧ (v.getLsbD 0 = true → exec (.capbmWrite v) s = .next s)
    ∧ (core < 512 → j < 16 → fits → ∃ t, exec (.lrmWrite core j v32) s = .next t ∧ { t with cores := s.cores } = s
        ∧ (∀ l, l < 64 → (t.core core).physLane l = next l)
        ∧ { t.core core with lanes := c.lanes, spare := c.spare } = c
        ∧ (∀ l, checked l → next l = 64 → (t.core core).spare = l)
        ∧ ((∀ l, checked l → next l ≠ 64) → (t.core core).spare = 0x7F)
        ∧ ∀ k, k ≠ core → t.core k = s.core k)
    ∧ (¬(core < 512 ∧ j < 16 ∧ fits) → exec (.lrmWrite core j v32) s = .next s)
    ∧ (core < 512 → ∃ t, exec (.lstatWrite core) s = .next t ∧ t.core core = { c with lerrs := 0 }
        ∧ { t with cores := s.cores } = s ∧ ∀ k, k ≠ core → t.core k = s.core k)
    ∧ (die < 8 → idle → 4096 ≤ v.toNat % 2 ^ 20 → ∃ t, exec (.dtablWrite die v) s = .next t
        ∧ t.die die = { s.die die with ntab := v.toNat % 2 ^ 20 } ∧ { t with dies := s.dies } = s)
    ∧ (8 ≤ die ∨ ¬idle ∨ v.toNat % 2 ^ 20 < 4096 → exec (.dtablWrite die v) s = .next s)
    ∧ (port < 2 → base < 2 ^ 32 → (size = 0 ∨ base % 2 ^ (size - 1) = 0) → ∃ t, exec (.hbaseWrite port v) s = .next t
        ∧ { t with fab := f } = s ∧ t.fab.reg (0xC0 + 8 * port) = size * 2 ^ 56 + base * 2 ^ 12)
    ∧ (2 ≤ port ∨ 2 ^ 32 ≤ base ∨ (size ≠ 0 ∧ base % 2 ^ (size - 1) ≠ 0) → exec (.hbaseWrite port v) s = .next s)
    ∧ (n ≠ 8 ∨ pa % 8 ≠ 0 → exec (.registerWrite pa n v) s = .next s)
    ∧ (core < 512 → stores (block (Config.capCC + core) 0x018) fun t =>
        t.core core = { c with wdog := v.toNat % 2 ^ 32 } ∧ { t with cores := s.cores } = s)
    ∧ (stores (block Config.capL2 0x008) fun t => t.l2.reg 0x008 = v.toNat % 2 ^ 56 / 2 ^ 22 * 2 ^ 22 ∧ { t with l2 := s.l2 } = s)
    ∧ (die < 8 → idle → stores (block (Config.capDI + die) 0x010) fun t =>
        (t.die die).reg die 0x010 = v.toNat % 2 ^ 56 / 2 ^ 15 * 2 ^ 15 ∧ { t with dies := s.dies } = s)
    ∧ (s.anyResident = false → (∀ k, k < 3 → stores (block Config.capPK (0x008 + 8 * k)) fun t =>
          t.pkgReg (0x008 + 8 * k) = v.toNat % 2 ^ 56 / 2 ^ 12 * 2 ^ 12 ∧ { t with pkg := s.pkg } = s)
        ∧ stores (block Config.capPK 0x020) fun t => t.pkgReg 0x020 = v.toNat ∧ { t with pkg := s.pkg } = s)
    ∧ (s.anyResident = true → ∀ k, k < 4 → stores (block Config.capPK (0x008 + 8 * k)) fun t => t = s)
    ∧ (stores (block Config.capFB 0x010) fun t => t.fab = { f with fwdto := BitVec.ofNat 32 v.toNat } ∧ { t with fab := f } = s)
    ∧ (stores (block Config.capFB 0x018) fun t => t.fab = { f with holdlim := BitVec.ofNat 32 v.toNat } ∧ { t with fab := f } = s)
    ∧ (stores (block Config.capFB 0x028) fun t =>
        t.fab.reg 0x028 = v.toNat % 2 ^ 56 / 2 ^ 12 * 2 ^ 12 ∧ { t with fab := f } = s)
    ∧ (j < 16 → stores (block Config.capFB (0x040 + 8 * j)) fun t =>
        t.fab.reg (0x040 + 8 * j) = (v &&& 0x80000FFFFFFFFFFF).toNat ∧ { t with fab := f } = s)

/-- R443-R447, R454, R457, R461, R462, R464, R465: the ports. A sound flit that is next in sequence is taken and frees the
flits that it acknowledges, one of an unknown type none; what waited for room in the replay buffer of 512 flits goes out. Any
other flit is counted as a replay, and the sixteenth in a row takes the port down. A port that loses lanes keeps 8, 4 or 2 of
them or goes down, leaves every route, and its undelivered messages go to another port while one is up. Training brings a port
up at the highest version that both ends know. A host port performs the writes of its window and its kicks in the order of
their arrival, and registers what it reads for ownership, while it is up and its version agreed. Where those rules leave a
choice, the model's own stands: notes/assumptions 82, 84 and 85, for the fuse values of the versions 4. -/
def Obligations.Ports : Prop :=
  ∀ (s : State) (port seq kind ack good lanes peer rate width o n : Nat) (sound own : Bool) (lo hi : BitVec 16)
    (b : BitVec 8),
    let f := s.fab
    let p := f.port port
    let widthOf (k : Nat) : Nat := if 8 ≤ k then 3 else if 4 ≤ k then 2 else 1
    let counted : Port := { p with replays := min (p.replays + 1) (2 ^ 32 - 1), same := p.same + 1 }
    let ports (t : State) (q : Port) : Prop := t.fab.port port = q ∧ (∀ k, k ≠ port → t.fab.port k = f.port k)
      ∧ { t with fab := { t.fab with ports := f.ports } } = s
    let routes := f.frtab.toNat * 2 ^ 12 % 2 ^ 44
    let freed : List Flit :=
      if ∃ x ∈ p.buffer, x.seq = ack % 4096 then (p.buffer.dropWhile fun x => decide (x.seq ≠ ack % 4096)).drop 1 else p.buffer
    let go : List (Option (Nat × Nat)) := p.waiting.take (512 - freed.length)
    let down (t : State) (q : Port) : Prop := t.fab.port port = { q with up := false, width := 0, buffer := [], waiting := [] }
      ∧ (∀ x, (∃ y ∈ q.buffer, y.msg = some x) ∨ some x ∈ q.waiting → ∀ k, t.portFor x.1 x.2 = some k →
          (t.fab.port k).up = true → ∃ k, (t.fab.port k).carries x = true)
      ∧ t.words = s.words ∧ t.threads = s.threads
      ∧ (Memory.wf s.mem = true → ∀ id, id < 4096 →
          ((mword (routes + 4 * id) t.mem).toNat.testBit port = false)
          ∧ ∀ k, k ≠ port → (mword (routes + 4 * id) t.mem).toNat.testBit k = (mword (routes + 4 * id) s.mem).toNat.testBit k)
    let ver : BitVec 16 := if hi < 1 then hi else 1
    let least : BitVec 16 := if lo < 1 then 1 else lo
    let h := f.host port
    let open_ : Prop := port < 2 ∧ h.down = false ∧ f.hverOk = true
    let size := (tgetD port 0 f.hbase).toNat / 2 ^ 56
    let at_ : Nat := (tgetD port 0 f.hbase).toNat / 2 ^ 12 % 2 ^ 32 * 2 ^ 12 + o
    let w := at_ / 4 * 4
    let bridge : Owner := ⟨0, f.pid.toNat, 0x240 + port⟩
    let inside : Prop := 1 ≤ size ∧ size ≤ 33 ∧ o < 2 ^ 12 * 2 ^ (size - 1) ∧ isLocalMem at_ = true
    let free : Prop := s.contained w = false ∧ s.wordSt w = none ∧ s.unasked w
    (18 ≤ port ∨ p.up = false → exec (.flitReceive port seq kind ack sound) s = .next s
      ∧ exec (.portLaneFailure port good) s = .next s)
    ∧ (port < 18 → p.up = true →
      (sound = true ∧ seq % 4096 = p.expected → 5 ≤ kind → ∃ t, exec (.flitReceive port seq kind ack sound) s = .next t
        ∧ ports t { p with expected := (p.expected + 1) % 4096, same := 0 })
      ∧ (sound = true ∧ seq % 4096 = p.expected → kind < 5 → p.sent < 4096 →
        ∃ t, exec (.flitReceive port seq kind ack sound) s = .next t
          ∧ ports t { p with
              expected := (p.expected + 1) % 4096, same := 0, sent := (p.sent + go.length) % 4096
              buffer := freed ++ ((upto go.length).zip go).map fun x => ⟨(p.sent + x.1) % 4096, x.2⟩
              waiting := p.waiting.drop (512 - freed.length) })
      ∧ (¬(sound = true ∧ seq % 4096 = p.expected) →
        (p.same < 15 → ∃ t, exec (.flitReceive port seq kind ack sound) s = .next t ∧ ports t counted)
        ∧ (15 ≤ p.same → ∃ t, exec (.flitReceive port seq kind ack sound) s = .next t ∧ down t counted))
      ∧ (2 ≤ good → ∃ t, exec (.portLaneFailure port good) s = .next t ∧ ports t { p with width := min p.width (widthOf good) })
      ∧ (good < 2 → ∃ t, exec (.portLaneFailure port good) s = .next t ∧ down t p))
    ∧ (port < 18 → p.up = false → f.pidSet = true →
      (ver < least → ∃ t, exec (.linkTraining port lanes peer lo hi) s = .next t
        ∧ ports t { p with up := false, width := 0, verr := true })
      ∧ (¬ver < least → 2 ≤ lanes → ∃ t, exec (.linkTraining port lanes peer lo hi) s = .next t
        ∧ ports t { p with up := true, width := widthOf lanes, verr := false, ver := ver, peer := BitVec.ofNat 12 peer
                           expected := 0, sent := 0, buffer := [], same := 0 })
      ∧ (¬ver < least → lanes < 2 → exec (.linkTraining port lanes peer lo hi) s = .next s))
    ∧ (18 ≤ port ∨ p.up = true ∨ f.pidSet = false → exec (.linkTraining port lanes peer lo hi) s = .next s)
    ∧ (f.recov = false → exec .recoveryNotice s = .next s)
    ∧ (f.recov = true → ∃ t, exec .recoveryNotice s = .next t
        ∧ { t with fab := { t.fab with ports := f.ports, noticed := f.noticed } } = s ∧ t.fab.noticed = s.time.toNat
        ∧ ∀ k, k < 18 → let q := f.port k
          (q.up = false → t.fab.port k = q)
          ∧ (q.up = true → 512 ≤ q.buffer.length → t.fab.port k = { q with waiting := q.waiting ++ [none] })
          ∧ (q.up = true → q.buffer.length < 512 → q.waiting = [] →
            t.fab.port k = { q with sent := (q.sent + 1) % 4096, buffer := q.buffer ++ [⟨q.sent, none⟩] }))
    ∧ (port < 2 → ∃ t, exec (.hostPortDown port) s = .next t ∧ t.fab.host port = ⟨true, 0, 0, []⟩
        ∧ { t with fab := { t.fab with hosts := f.hosts } } = s)
    ∧ (port < 2 → rate ∈ [128, 64, 32, 16, 10, 5] → width ∈ [1, 4, 8, 16] → ∃ t, exec (.hostPortTraining port rate width) s = .next t
        ∧ t.fab.host port = { h with down := false, rate := rate, width := width }
        ∧ { t with fab := { t.fab with hosts := f.hosts } } = s)
    ∧ (2 ≤ port ∨ rate ∉ [128, 64, 32, 16, 10, 5] ∨ width ∉ [1, 4, 8, 16] →
        exec (.hostPortTraining port rate width) s = .next s)
    ∧ (¬open_ → exec (.hostCxlMemRead port o n own) s = .next s ∧ exec (.hostCxlMemWrite port o [b]) s = .next s
        ∧ exec (.hostBar0Kick port o) s = .next s)
    ∧ (open_ →
      (¬inside → exec (.hostCxlMemRead port o 1 own) s = .next s)
      ∧ (inside → free → s.inHrr w = true → ∃ t, exec (.hostCxlMemRead port o 1 true) s = .next t ∧ t.mem = s.mem
        ∧ t.wordSt w = some (.closed bridge 0 63 false) ∧ ∀ y, y ≠ w → t.wordSt y = s.wordSt y)
      ∧ (inside → free → s.inHrr w = false ∨ own = false → ∃ t, exec (.hostCxlMemRead port o 1 own) s = .next t
        ∧ { t with queue := s.queue } = s)
      ∧ (h.writes = [] → inside → free → s.poisoned w = false → Memory.wf s.mem = true →
        ∃ t, exec (.hostCxlMemWrite port o [b]) s = .next t ∧ mget at_ t.mem = b ∧ t.wordSt w = none
          ∧ (t.fab.host port).writes = [] ∧ ∀ a, a ≠ at_ → mget a t.mem = mget a s.mem)
      ∧ (∀ x v xs, h.writes = .byte x v :: xs → s.heldWord (x / 4 * 4) = true → o < 0x8800 →
        ∃ t, exec (.hostBar0Kick port o) s = .next t ∧ (t.fab.host port).writes = h.writes ++ [.kick (o / 8)]
          ∧ t.mem = s.mem ∧ t.ctxs = s.ctxs ∧ t.pkg = s.pkg)
      ∧ (h.writes = [] → 0x8800 ≤ o → ∃ t, exec (.hostBar0Kick port o) s = .next t
        ∧ (t.fab.host port).writes = [] ∧ { t with fab := s.fab } = s)
      ∧ (h.writes = [] → o < 0x8800 → s.queueEntry (o / 8) ≠ none → 0x8000 ≤ o →
        (∀ x, (s.ctx (.service (o / 8 - 4096))).wait = some (.sleep x) → ∃ t, exec (.hostBar0Kick port o) s = .next t
          ∧ (t.ctx (.service (o / 8 - 4096))).wait = none ∧ t.mem = s.mem)))

/-- R472, R414, R379, R224-R229, R438: the registers right after reset, with no translation for service threads, service
thread 0 at the image entry and every other one in SLEEP with no deadline (R470). The image entry, and what the fuses give
(LFAIL, SPARE, DEG, OUT and the lane map, R226, R227), are the model's choice (notes/assumptions/4.md), as is that memory that
nothing has written reads 0 (notes/assumptions/1.md). -/
def Obligations.ResetState : Prop :=
  let s := State.reset
  let off (r : Nat → Nat) (k : Nat) : Nat := r (8 * k)
  s.bm = true ∧ Memory.wf s.mem = true ∧ s.table.command = none ∧ s.table.shoreDie = 0
    ∧ (s.ctx (.service 0)).wait = none ∧ (s.ctx (.service 0)).pc = Config.imageEntry
    ∧ (∀ n, 1 ≤ n → (s.ctx (.service n)).wait = some (.sleep none))
    ∧ (∀ n, s.service n = ⟨0, 0, 0, 0, false, false, [], []⟩)
    ∧ (∀ r, (∀ n, r ≠ .service n) → (s.thread r).live = false)
    ∧ off s.fab.reg 1 = 0 ∧ off s.fab.reg 2 = 200 ∧ off s.fab.reg 3 = 2000 ∧ off s.fab.reg 4 = 1 ∧ off s.fab.reg 5 = 0
    ∧ off s.fab.reg 7 = 3 ∧ (∀ k, 8 ≤ k → k < 128 → off s.fab.reg k = 0)
    ∧ (∀ k, 1 ≤ k → k < 5 → off s.pkgReg k = 0) ∧ (∀ k, 6 ≤ k → k < 512 → off s.pkgReg k = 0)
    ∧ off s.l2.reg 0 = 0 ∧ off s.l2.reg 1 = 0 ∧ (∀ k, k < 256 → s.l2.slice k = k)
    ∧ (∀ d k, 1 ≤ k → k < 512 → off ((s.die d).reg d) k = 0)
    ∧ (∀ c, (s.cluster c).suspect = false ∧ (s.cluster c).mism = 0)
    ∧ (∀ c, (s.core c).lfail = 0 ∧ (s.core c).lerrs = 0 ∧ (s.core c).spare = 0x7F ∧ (s.core c).deg = false
      ∧ (s.core c).out = false ∧ (s.core c).wdog = 100000 ∧ ∀ l, (s.core c).physLane l = l)
    ∧ ∀ a, mget a s.mem = 0

/-- R436, R467-R470: RESET leaves the registers as reset has them and nothing of the run, but for what the fuses and the MRAM
keep: the lane maps, the clusters that a spare replaces, the repairs that found none, the attestation indices, the
anti-rollback counters, which the images that it boots raise; a service image that is rejected is not measured, and service
thread 0 does not run. ATREQ advances the leaf index, then writes the report for the index that it took; with every tree
spent, or where the write of the index fails, it writes nothing. What of memory and of the agenda a reset leaves is the
model's choice (notes/assumptions/1.md, 2.md, 6.md, 86.md, 87.md). -/
def Obligations.ResetAndAttestation : Prop :=
  ∀ (s : State) (nonce : BitVec 256) (pa : Nat),
    let b := s.boot
    let report (ident leaf : Nat) : List (BitVec 8) :=
      Config.report nonce s.fab.pid.toNat ((upto 4).map b.measValue) b.counters ident leaf
    let a := pa % 2 ^ 44
    let here : Prop := s.target pa = .mem
    let booted : Bool := Config.imageSigned (b.images + 1)
      && decide (tgetD 1 0 b.counters ≤ Config.imageVersion (b.images + 1))
    let written (t : State) (bytes : List (BitVec 8)) : Prop := t.threads = s.threads ∧ t.ctxs = s.ctxs
      ∧ (here → Memory.wf s.mem = true → s.devPending = [] →
          (∀ i, i < bytes.length → s.isLost ((a + i) / 4 * 4) = false ∧ s.devReady ((a + i) / 4 * 4) = true) →
          mgets a bytes.length t.mem = bytes)
      ∧ (∀ x, (¬here ∨ x < a ∨ a + bytes.length ≤ x) → mget x t.mem = mget x s.mem)
    (∃ t, exec .reset s = .next t ∧ t.fab = State.reset.fab ∧ t.threads = [] ∧ t.teams = [] ∧ t.groups = [] ∧ t.words = []
      ∧ t.poison = [] ∧ t.held = [] ∧ t.queue = [] ∧ t.devPending = [] ∧ t.coreMem = [] ∧ t.l2 = State.reset.l2 ∧ t.table = State.reset.table ∧ t.bm = true
      ∧ t.services = (if booted then [] else [(0, { Service.fresh with halted := true })]) ∧ t.ctxs = State.reset.ctxs ∧ { t.pkg with repairs := [] } = Package.reset
      ∧ (∀ c, t.core c = { s.core c with
          lerrs := 0, wdog := 100000, rotated := 0, mxLast := 0, portAt := 0, words := 0, busy := [], hword := false, hslot := 0 })
      ∧ (∀ d, (t.die d).clout = 0 ∧ (t.die d).fatal = false ∧ (t.die d).link = false ∧ (t.die d).ntab = 0
        ∧ ((s.die d).clout = 0 → (t.die d).clen = (s.die d).clen ∧ (t.die d).nspare = (s.die d).nspare)
        ∧ ∀ k, k < 16 → (s.die d).clout.getLsbD k = true → (t.die d).clen.getLsbD k = false)
      ∧ (∀ r ∈ t.pkg.repairs, (r.kind = 5 ∨ r.kind = 6) ∧ r.fail = true)
      ∧ (∀ r ∈ s.pkg.repairs, r.kind = 5 → s.laneFused r = false → { r with fail := true } ∈ t.pkg.repairs)
      ∧ (∀ i, i < 2 → let image := if i = 0 ∨ booted = true then [b.images + i] else []
        tgetD i [] t.boot.meas = image ∧ tgetD i [] t.boot.antiRollback = tgetD i [] b.antiRollback ++ image)
      ∧ t.boot.images = b.images + 2 ∧ t.boot.identityLeaf = b.identityLeaf ∧ t.boot.attestTree = b.attestTree
      ∧ t.boot.attestLeaf = b.attestLeaf)
    ∧ (b.writeFails = true → b.attestLeaf < 1024 → b.attestTree < 1024 → ∃ t, exec (.atreq nonce pa) s = .next t
        ∧ t.boot = { b with writeFails := false } ∧ { t with boot := b } = s)
    ∧ (b.writeFails = false → b.attestLeaf < 1024 → b.attestTree < 1024 → ∃ t, exec (.atreq nonce pa) s = .next t
        ∧ t.boot = { b with attestLeaf := b.attestLeaf + 1 }
        ∧ written t (report b.identityLeaf (b.attestTree * 1024 + b.attestLeaf)))
    ∧ (b.writeFails = false → 1024 ≤ b.attestLeaf → b.attestTree < 1023 → ∃ t, exec (.atreq nonce pa) s = .next t
        ∧ t.boot = { b with attestTree := b.attestTree + 1, attestLeaf := 1, identityLeaf := b.identityLeaf + 1 }
        ∧ written t (report (b.identityLeaf + 1) ((b.attestTree + 1) * 1024)))
    ∧ (1024 ≤ b.attestTree ∨ (1024 ≤ b.attestLeaf ∧ b.attestTree = 1023) → exec (.atreq nonce pa) s = .next s)

/-! ### Steps, encodings, invariants -/

/-- R46, R47, R61, R71, R479: a step in which a party issues fetches the word at its PC, past the hint words of its run, and
is exec of the instruction that the word decodes to, with what follows every instruction at its boundary; a word that is no
instruction runs as one. A party that waited for the word waits no longer. Where that would bring two updates of a barrier
record in the same ac out of order (R217), the party issues in the next ac instead. The word is that of memory where the party
holds it, and where it is valid without a copy in the party's caches. Which party issues next is the agenda's, the model's own
(notes/assumptions/2.md). -/
def Obligations.StepRunsTheDecodedInstruction : Prop :=
  ∀ (s : State) (p : Party) (slow : Bool) (rest : List Turn) (w : Word) (pa : Nat),
    let turn : State := { s with agenda := rest }
    let b : State := { turn with cur := p, slow := slow }.startHelpers p
    let l := pa % 2 ^ 44
    let pc := (b.ctx p).fetchPc
    s.agenda = .issue p slow :: rest → turn.canIssue p = true → b.hasDeferred p = false →
      (∀ t, b.fetch = (t, .word w) →
        let x := t.fetched
        let runs (i : Sys2Proof.Instr) : Prop := ∀ u, exec i x = .next u →
          let after := u.forgetDone p (b.gang p)
          (after.misordered = false → step s = .next after.settle)
          ∧ (after.misordered = true → step s = settled ({ turn with time := turn.time + 1 }.issueWord p slow))
        (t.cctx.wait = none → x = t)
        ∧ (∀ i, decode x.cctx.run.uns w = some i → runs i)
        ∧ (decode x.cctx.run.uns w = none → runs (.illegalEncoding w)))
      ∧ (pc.toNat % 4 = 0 → b.reaches .fetch (pc.zeroExtend 64) pa →
        (b.holdsWord pa → b.fetch = (b, .word (mword l s.mem)))
        ∧ (b.target pa = .mem → b.wordSt l = none → b.inL1 (b.asker p pc.toNat) [l] = none →
          b.inNear (b.asker p pc.toNat) [l] = none → b.poisoned l = false →
          b.contained l = false → b.unasked l → ∃ t, b.fetch = (t, .word (mword l s.mem))
            ∧ { t with coreMem := b.coreMem, dies := b.dies, queue := b.queue } = b))

/-- R46-R70: words written out from the encoding tables and the spec's own examples decode to the instructions that they
stand for. -/
def Obligations.DecodeWords : Prop :=
  let v (n : BitVec 5) : Src := ⟨false, false, n⟩
  decode false 0x20206514 = some (.addi ⟨false, 2⟩ (v 3) 0x145 0)
  ∧ decode false 0xFC000091 = some (.limm 0x91)
  ∧ decode false 0xFC440800 = some (.pfx 0 2 0 0 true false 0)
  ∧ decode false 0x6040A1A1 = some (.fmaF32 ⟨false, 4⟩ (v 5) (v 6) ⟨true, 1⟩)
  ∧ decode false 0x0400000F = none ∧ decode false 0x00000000 = none
  ∧ decode false 0x14906100 = some (.cmp .lt 1 (v 3) (v 4) 0)
  ∧ decode true 0x38A040C4 = some (.dp4aN ⟨false, 10⟩ (v 2) (v 3) ⟨false, 4⟩)
  ∧ decode false 0x4440C200 = some (.faddF64 ⟨false, 4⟩ (v 6) (v 8) 0)
  ∧ decode false 0x4CA02080 = some (.fcmpF32 .lt 2 (v 1) (v 2) 0)
  ∧ decode false 0x54206200 = some (.cvt ⟨false, 2⟩ (v 3) .f32 .f16 0)
  ∧ decode false 0x5450C401 = some (.cvti ⟨false, 5⟩ (v 6) .f64 .i32 0)
  ∧ decode false 0x58A10402 = some (.cbdec ⟨false, 10⟩ (v 8) (.f16x2 0) 0)
  ∧ decode false 0x80310104 = some (.ld ⟨false, 3⟩ (v 8) 16 .n32)
  ∧ decode false 0x84411F85 = some (.st ⟨false, 4⟩ (v 8) 0x1F8 .n64)
  ∧ decode false 0x98804081 = some (.ldm ⟨false, 8⟩ (v 2) 8 .w4)
  ∧ decode false 0x9C514182 = some (.atoms ⟨false, 5⟩ (v 10) (v 6) false .add)
  ∧ decode false 0xC0604203 = some (.ballot ⟨false, 6⟩ 2 (v 8) 0)
  ∧ decode false 0xC490800C = some (.redgFadd ⟨false, 9⟩ (v 4) 0)
  ∧ decode false 0xC8500581 = some (.rgn 40 0 11)
  ∧ decode false 0xD0200002 = some (.barSyn 2)
  ∧ decode false 0xE4214000 = some (.gth 2 (v 10))
  ∧ decode false 0xE8300000 = some (.qfnc 3)
  ∧ decode false 0xF00001C0 = some (.trap 7)
  ∧ decode false 0xF0400143 = some (.rdsr ⟨false, 4⟩ 5)
  ∧ decode false 0xF020C20A = some (.rclm ⟨false, 2⟩ (v 6) (v 8))
  ∧ decode false 0xF820A006 = some (.qpush false 2 (v 5))

/-- R46-R70: decoding the word of any well-formed instruction gives that instruction, with every operand at every value that
its encoding admits; the forms that PFX UNS selects decode under it. -/
def Obligations.DecodeEncode : Prop :=
  ∀ (i : Sys2Proof.Instr) (w : Sys2Proof.Word), i.wf = true → Sys2Proof.encode i = some w →
    Sys2Proof.decode (Sys2Proof.unsOf i) w = some i

/-- Every step keeps memory in its canonical form, the model's own (notes/assumptions/1.md), and no step stops: an
instruction that cannot have its effect takes an exception (R178, R180) or parks (R189, R194). -/
def Obligations.EveryStepAnswersAndKeepsMemory : Prop :=
  (∀ s t, Memory.wf s.mem = true → step s = .next t → Memory.wf t.mem = true) ∧ ∀ s, ∃ t, step s = .next t
end

