-- ==== Sys2Proof/Laws/State.lean ====
section
/-! SUPPORT. What each update of the state does to each of its fields: one lemma per update and field, so that no proof
unfolds a record update. -/
namespace Sys2Proof.Machine

variable (s : State)

/-! ### setThread -/

@[simp] theorem State.setThread_mem (r : ThreadRef) (t : Thread) : (s.setThread r t).mem = s.mem := rfl
@[simp] theorem State.setThread_words (r : ThreadRef) (t : Thread) : (s.setThread r t).words = s.words := rfl
@[simp] theorem State.setThread_poison (r : ThreadRef) (t : Thread) : (s.setThread r t).poison = s.poison := rfl
@[simp] theorem State.setThread_held (r : ThreadRef) (t : Thread) : (s.setThread r t).held = s.held := rfl
@[simp] theorem State.setThread_queue (r : ThreadRef) (t : Thread) : (s.setThread r t).queue = s.queue := rfl
@[simp] theorem State.setThread_devPending (r : ThreadRef) (t : Thread) : (s.setThread r t).devPending = s.devPending := rfl
@[simp] theorem State.setThread_guest (r : ThreadRef) (t : Thread) : (s.setThread r t).guest = s.guest := rfl
@[simp] theorem State.setThread_guestRegs (r : ThreadRef) (t : Thread) : (s.setThread r t).guestRegs = s.guestRegs := rfl
@[simp] theorem State.setThread_threads (r : ThreadRef) (t : Thread) : (s.setThread r t).threads = tset r t s.threads := rfl
@[simp] theorem State.setThread_ctxs (r : ThreadRef) (t : Thread) : (s.setThread r t).ctxs = s.ctxs := rfl
@[simp] theorem State.setThread_groups (r : ThreadRef) (t : Thread) : (s.setThread r t).groups = s.groups := rfl
@[simp] theorem State.setThread_helpers (r : ThreadRef) (t : Thread) : (s.setThread r t).helpers = s.helpers := rfl
@[simp] theorem State.setThread_recruits (r : ThreadRef) (t : Thread) : (s.setThread r t).recruits = s.recruits := rfl
@[simp] theorem State.setThread_teams (r : ThreadRef) (t : Thread) : (s.setThread r t).teams = s.teams := rfl
@[simp] theorem State.setThread_frames (r : ThreadRef) (t : Thread) : (s.setThread r t).frames = s.frames := rfl
@[simp] theorem State.setThread_cores (r : ThreadRef) (t : Thread) : (s.setThread r t).cores = s.cores := rfl
@[simp] theorem State.setThread_coreMem (r : ThreadRef) (t : Thread) : (s.setThread r t).coreMem = s.coreMem := rfl
@[simp] theorem State.setThread_l1size (r : ThreadRef) (t : Thread) : (s.setThread r t).l1size = s.l1size := rfl
@[simp] theorem State.setThread_clusters (r : ThreadRef) (t : Thread) : (s.setThread r t).clusters = s.clusters := rfl
@[simp] theorem State.setThread_dies (r : ThreadRef) (t : Thread) : (s.setThread r t).dies = s.dies := rfl
@[simp] theorem State.setThread_services (r : ThreadRef) (t : Thread) : (s.setThread r t).services = s.services := rfl
@[simp] theorem State.setThread_pkg (r : ThreadRef) (t : Thread) : (s.setThread r t).pkg = s.pkg := rfl
@[simp] theorem State.setThread_l2 (r : ThreadRef) (t : Thread) : (s.setThread r t).l2 = s.l2 := rfl
@[simp] theorem State.setThread_table (r : ThreadRef) (t : Thread) : (s.setThread r t).table = s.table := rfl
@[simp] theorem State.setThread_fab (r : ThreadRef) (t : Thread) : (s.setThread r t).fab = s.fab := rfl
@[simp] theorem State.setThread_boot (r : ThreadRef) (t : Thread) : (s.setThread r t).boot = s.boot := rfl
@[simp] theorem State.setThread_bm (r : ThreadRef) (t : Thread) : (s.setThread r t).bm = s.bm := rfl
@[simp] theorem State.setThread_time (r : ThreadRef) (t : Thread) : (s.setThread r t).time = s.time := rfl
@[simp] theorem State.setThread_agenda (r : ThreadRef) (t : Thread) : (s.setThread r t).agenda = s.agenda := rfl
@[simp] theorem State.setThread_cur (r : ThreadRef) (t : Thread) : (s.setThread r t).cur = s.cur := rfl
@[simp] theorem State.setThread_slow (r : ThreadRef) (t : Thread) : (s.setThread r t).slow = s.slow := rfl
@[simp] theorem State.setThread_nonce (r : ThreadRef) (t : Thread) : (s.setThread r t).nonce = s.nonce := rfl
@[simp] theorem State.setThread_nextId (r : ThreadRef) (t : Thread) : (s.setThread r t).nextId = s.nextId := rfl

/-! ### setCtx -/

@[simp] theorem State.setCtx_mem (p : Party) (c : Ctx) : (s.setCtx p c).mem = s.mem := rfl
@[simp] theorem State.setCtx_words (p : Party) (c : Ctx) : (s.setCtx p c).words = s.words := rfl
@[simp] theorem State.setCtx_poison (p : Party) (c : Ctx) : (s.setCtx p c).poison = s.poison := rfl
@[simp] theorem State.setCtx_held (p : Party) (c : Ctx) : (s.setCtx p c).held = s.held := rfl
@[simp] theorem State.setCtx_queue (p : Party) (c : Ctx) : (s.setCtx p c).queue = s.queue := rfl
@[simp] theorem State.setCtx_devPending (p : Party) (c : Ctx) : (s.setCtx p c).devPending = s.devPending := rfl
@[simp] theorem State.setCtx_guest (p : Party) (c : Ctx) : (s.setCtx p c).guest = s.guest := rfl
@[simp] theorem State.setCtx_guestRegs (p : Party) (c : Ctx) : (s.setCtx p c).guestRegs = s.guestRegs := rfl
@[simp] theorem State.setCtx_threads (p : Party) (c : Ctx) : (s.setCtx p c).threads = s.threads := rfl
@[simp] theorem State.setCtx_ctxs (p : Party) (c : Ctx) : (s.setCtx p c).ctxs = tset p c s.ctxs := rfl
@[simp] theorem State.setCtx_groups (p : Party) (c : Ctx) : (s.setCtx p c).groups = s.groups := rfl
@[simp] theorem State.setCtx_helpers (p : Party) (c : Ctx) : (s.setCtx p c).helpers = s.helpers := rfl
@[simp] theorem State.setCtx_recruits (p : Party) (c : Ctx) : (s.setCtx p c).recruits = s.recruits := rfl
@[simp] theorem State.setCtx_teams (p : Party) (c : Ctx) : (s.setCtx p c).teams = s.teams := rfl
@[simp] theorem State.setCtx_frames (p : Party) (c : Ctx) : (s.setCtx p c).frames = s.frames := rfl
@[simp] theorem State.setCtx_cores (p : Party) (c : Ctx) : (s.setCtx p c).cores = s.cores := rfl
@[simp] theorem State.setCtx_coreMem (p : Party) (c : Ctx) : (s.setCtx p c).coreMem = s.coreMem := rfl
@[simp] theorem State.setCtx_l1size (p : Party) (c : Ctx) : (s.setCtx p c).l1size = s.l1size := rfl
@[simp] theorem State.setCtx_clusters (p : Party) (c : Ctx) : (s.setCtx p c).clusters = s.clusters := rfl
@[simp] theorem State.setCtx_dies (p : Party) (c : Ctx) : (s.setCtx p c).dies = s.dies := rfl
@[simp] theorem State.setCtx_services (p : Party) (c : Ctx) : (s.setCtx p c).services = s.services := rfl
@[simp] theorem State.setCtx_pkg (p : Party) (c : Ctx) : (s.setCtx p c).pkg = s.pkg := rfl
@[simp] theorem State.setCtx_l2 (p : Party) (c : Ctx) : (s.setCtx p c).l2 = s.l2 := rfl
@[simp] theorem State.setCtx_table (p : Party) (c : Ctx) : (s.setCtx p c).table = s.table := rfl
@[simp] theorem State.setCtx_fab (p : Party) (c : Ctx) : (s.setCtx p c).fab = s.fab := rfl
@[simp] theorem State.setCtx_boot (p : Party) (c : Ctx) : (s.setCtx p c).boot = s.boot := rfl
@[simp] theorem State.setCtx_bm (p : Party) (c : Ctx) : (s.setCtx p c).bm = s.bm := rfl
@[simp] theorem State.setCtx_time (p : Party) (c : Ctx) : (s.setCtx p c).time = s.time := rfl
@[simp] theorem State.setCtx_agenda (p : Party) (c : Ctx) : (s.setCtx p c).agenda = s.agenda := rfl
@[simp] theorem State.setCtx_cur (p : Party) (c : Ctx) : (s.setCtx p c).cur = s.cur := rfl
@[simp] theorem State.setCtx_slow (p : Party) (c : Ctx) : (s.setCtx p c).slow = s.slow := rfl
@[simp] theorem State.setCtx_nonce (p : Party) (c : Ctx) : (s.setCtx p c).nonce = s.nonce := rfl
@[simp] theorem State.setCtx_nextId (p : Party) (c : Ctx) : (s.setCtx p c).nextId = s.nextId := rfl

/-! ### onThread -/

@[simp] theorem State.onThread_mem (r : ThreadRef) (f : Thread → Thread) : (s.onThread r f).mem = s.mem := rfl
@[simp] theorem State.onThread_words (r : ThreadRef) (f : Thread → Thread) : (s.onThread r f).words = s.words := rfl
@[simp] theorem State.onThread_poison (r : ThreadRef) (f : Thread → Thread) : (s.onThread r f).poison = s.poison := rfl
@[simp] theorem State.onThread_held (r : ThreadRef) (f : Thread → Thread) : (s.onThread r f).held = s.held := rfl
@[simp] theorem State.onThread_queue (r : ThreadRef) (f : Thread → Thread) : (s.onThread r f).queue = s.queue := rfl
@[simp] theorem State.onThread_devPending (r : ThreadRef) (f : Thread → Thread) : (s.onThread r f).devPending = s.devPending := rfl
@[simp] theorem State.onThread_guest (r : ThreadRef) (f : Thread → Thread) : (s.onThread r f).guest = s.guest := rfl
@[simp] theorem State.onThread_guestRegs (r : ThreadRef) (f : Thread → Thread) : (s.onThread r f).guestRegs = s.guestRegs := rfl
@[simp] theorem State.onThread_threads (r : ThreadRef) (f : Thread → Thread) : (s.onThread r f).threads = tset r (f (s.thread r)) s.threads := rfl
@[simp] theorem State.onThread_ctxs (r : ThreadRef) (f : Thread → Thread) : (s.onThread r f).ctxs = s.ctxs := rfl
@[simp] theorem State.onThread_groups (r : ThreadRef) (f : Thread → Thread) : (s.onThread r f).groups = s.groups := rfl
@[simp] theorem State.onThread_helpers (r : ThreadRef) (f : Thread → Thread) : (s.onThread r f).helpers = s.helpers := rfl
@[simp] theorem State.onThread_recruits (r : ThreadRef) (f : Thread → Thread) : (s.onThread r f).recruits = s.recruits := rfl
@[simp] theorem State.onThread_teams (r : ThreadRef) (f : Thread → Thread) : (s.onThread r f).teams = s.teams := rfl
@[simp] theorem State.onThread_frames (r : ThreadRef) (f : Thread → Thread) : (s.onThread r f).frames = s.frames := rfl
@[simp] theorem State.onThread_cores (r : ThreadRef) (f : Thread → Thread) : (s.onThread r f).cores = s.cores := rfl
@[simp] theorem State.onThread_coreMem (r : ThreadRef) (f : Thread → Thread) : (s.onThread r f).coreMem = s.coreMem := rfl
@[simp] theorem State.onThread_l1size (r : ThreadRef) (f : Thread → Thread) : (s.onThread r f).l1size = s.l1size := rfl
@[simp] theorem State.onThread_clusters (r : ThreadRef) (f : Thread → Thread) : (s.onThread r f).clusters = s.clusters := rfl
@[simp] theorem State.onThread_dies (r : ThreadRef) (f : Thread → Thread) : (s.onThread r f).dies = s.dies := rfl
@[simp] theorem State.onThread_services (r : ThreadRef) (f : Thread → Thread) : (s.onThread r f).services = s.services := rfl
@[simp] theorem State.onThread_pkg (r : ThreadRef) (f : Thread → Thread) : (s.onThread r f).pkg = s.pkg := rfl
@[simp] theorem State.onThread_l2 (r : ThreadRef) (f : Thread → Thread) : (s.onThread r f).l2 = s.l2 := rfl
@[simp] theorem State.onThread_table (r : ThreadRef) (f : Thread → Thread) : (s.onThread r f).table = s.table := rfl
@[simp] theorem State.onThread_fab (r : ThreadRef) (f : Thread → Thread) : (s.onThread r f).fab = s.fab := rfl
@[simp] theorem State.onThread_boot (r : ThreadRef) (f : Thread → Thread) : (s.onThread r f).boot = s.boot := rfl
@[simp] theorem State.onThread_bm (r : ThreadRef) (f : Thread → Thread) : (s.onThread r f).bm = s.bm := rfl
@[simp] theorem State.onThread_time (r : ThreadRef) (f : Thread → Thread) : (s.onThread r f).time = s.time := rfl
@[simp] theorem State.onThread_agenda (r : ThreadRef) (f : Thread → Thread) : (s.onThread r f).agenda = s.agenda := rfl
@[simp] theorem State.onThread_cur (r : ThreadRef) (f : Thread → Thread) : (s.onThread r f).cur = s.cur := rfl
@[simp] theorem State.onThread_slow (r : ThreadRef) (f : Thread → Thread) : (s.onThread r f).slow = s.slow := rfl
@[simp] theorem State.onThread_nonce (r : ThreadRef) (f : Thread → Thread) : (s.onThread r f).nonce = s.nonce := rfl
@[simp] theorem State.onThread_nextId (r : ThreadRef) (f : Thread → Thread) : (s.onThread r f).nextId = s.nextId := rfl

/-! ### onCtx -/

@[simp] theorem State.onCtx_mem (p : Party) (f : Ctx → Ctx) : (s.onCtx p f).mem = s.mem := rfl
@[simp] theorem State.onCtx_words (p : Party) (f : Ctx → Ctx) : (s.onCtx p f).words = s.words := rfl
@[simp] theorem State.onCtx_poison (p : Party) (f : Ctx → Ctx) : (s.onCtx p f).poison = s.poison := rfl
@[simp] theorem State.onCtx_held (p : Party) (f : Ctx → Ctx) : (s.onCtx p f).held = s.held := rfl
@[simp] theorem State.onCtx_queue (p : Party) (f : Ctx → Ctx) : (s.onCtx p f).queue = s.queue := rfl
@[simp] theorem State.onCtx_devPending (p : Party) (f : Ctx → Ctx) : (s.onCtx p f).devPending = s.devPending := rfl
@[simp] theorem State.onCtx_guest (p : Party) (f : Ctx → Ctx) : (s.onCtx p f).guest = s.guest := rfl
@[simp] theorem State.onCtx_guestRegs (p : Party) (f : Ctx → Ctx) : (s.onCtx p f).guestRegs = s.guestRegs := rfl
@[simp] theorem State.onCtx_threads (p : Party) (f : Ctx → Ctx) : (s.onCtx p f).threads = s.threads := rfl
@[simp] theorem State.onCtx_ctxs (p : Party) (f : Ctx → Ctx) : (s.onCtx p f).ctxs = tset p (f (s.ctx p)) s.ctxs := rfl
@[simp] theorem State.onCtx_groups (p : Party) (f : Ctx → Ctx) : (s.onCtx p f).groups = s.groups := rfl
@[simp] theorem State.onCtx_helpers (p : Party) (f : Ctx → Ctx) : (s.onCtx p f).helpers = s.helpers := rfl
@[simp] theorem State.onCtx_recruits (p : Party) (f : Ctx → Ctx) : (s.onCtx p f).recruits = s.recruits := rfl
@[simp] theorem State.onCtx_teams (p : Party) (f : Ctx → Ctx) : (s.onCtx p f).teams = s.teams := rfl
@[simp] theorem State.onCtx_frames (p : Party) (f : Ctx → Ctx) : (s.onCtx p f).frames = s.frames := rfl
@[simp] theorem State.onCtx_cores (p : Party) (f : Ctx → Ctx) : (s.onCtx p f).cores = s.cores := rfl
@[simp] theorem State.onCtx_coreMem (p : Party) (f : Ctx → Ctx) : (s.onCtx p f).coreMem = s.coreMem := rfl
@[simp] theorem State.onCtx_l1size (p : Party) (f : Ctx → Ctx) : (s.onCtx p f).l1size = s.l1size := rfl
@[simp] theorem State.onCtx_clusters (p : Party) (f : Ctx → Ctx) : (s.onCtx p f).clusters = s.clusters := rfl
@[simp] theorem State.onCtx_dies (p : Party) (f : Ctx → Ctx) : (s.onCtx p f).dies = s.dies := rfl
@[simp] theorem State.onCtx_services (p : Party) (f : Ctx → Ctx) : (s.onCtx p f).services = s.services := rfl
@[simp] theorem State.onCtx_pkg (p : Party) (f : Ctx → Ctx) : (s.onCtx p f).pkg = s.pkg := rfl
@[simp] theorem State.onCtx_l2 (p : Party) (f : Ctx → Ctx) : (s.onCtx p f).l2 = s.l2 := rfl
@[simp] theorem State.onCtx_table (p : Party) (f : Ctx → Ctx) : (s.onCtx p f).table = s.table := rfl
@[simp] theorem State.onCtx_fab (p : Party) (f : Ctx → Ctx) : (s.onCtx p f).fab = s.fab := rfl
@[simp] theorem State.onCtx_boot (p : Party) (f : Ctx → Ctx) : (s.onCtx p f).boot = s.boot := rfl
@[simp] theorem State.onCtx_bm (p : Party) (f : Ctx → Ctx) : (s.onCtx p f).bm = s.bm := rfl
@[simp] theorem State.onCtx_time (p : Party) (f : Ctx → Ctx) : (s.onCtx p f).time = s.time := rfl
@[simp] theorem State.onCtx_agenda (p : Party) (f : Ctx → Ctx) : (s.onCtx p f).agenda = s.agenda := rfl
@[simp] theorem State.onCtx_cur (p : Party) (f : Ctx → Ctx) : (s.onCtx p f).cur = s.cur := rfl
@[simp] theorem State.onCtx_slow (p : Party) (f : Ctx → Ctx) : (s.onCtx p f).slow = s.slow := rfl
@[simp] theorem State.onCtx_nonce (p : Party) (f : Ctx → Ctx) : (s.onCtx p f).nonce = s.nonce := rfl
@[simp] theorem State.onCtx_nextId (p : Party) (f : Ctx → Ctx) : (s.onCtx p f).nextId = s.nextId := rfl

/-! ### onGroup -/

@[simp] theorem State.onGroup_mem (tk gid : Nat) (f : Group → Group) : (s.onGroup tk gid f).mem = s.mem := rfl
@[simp] theorem State.onGroup_words (tk gid : Nat) (f : Group → Group) : (s.onGroup tk gid f).words = s.words := rfl
@[simp] theorem State.onGroup_poison (tk gid : Nat) (f : Group → Group) : (s.onGroup tk gid f).poison = s.poison := rfl
@[simp] theorem State.onGroup_held (tk gid : Nat) (f : Group → Group) : (s.onGroup tk gid f).held = s.held := rfl
@[simp] theorem State.onGroup_queue (tk gid : Nat) (f : Group → Group) : (s.onGroup tk gid f).queue = s.queue := rfl
@[simp] theorem State.onGroup_devPending (tk gid : Nat) (f : Group → Group) : (s.onGroup tk gid f).devPending = s.devPending := rfl
@[simp] theorem State.onGroup_guest (tk gid : Nat) (f : Group → Group) : (s.onGroup tk gid f).guest = s.guest := rfl
@[simp] theorem State.onGroup_guestRegs (tk gid : Nat) (f : Group → Group) : (s.onGroup tk gid f).guestRegs = s.guestRegs := rfl
@[simp] theorem State.onGroup_threads (tk gid : Nat) (f : Group → Group) : (s.onGroup tk gid f).threads = s.threads := rfl
@[simp] theorem State.onGroup_ctxs (tk gid : Nat) (f : Group → Group) : (s.onGroup tk gid f).ctxs = s.ctxs := rfl
@[simp] theorem State.onGroup_groups (tk gid : Nat) (f : Group → Group) : (s.onGroup tk gid f).groups = tset (tk, gid) (f (s.group tk gid)) s.groups := rfl
@[simp] theorem State.onGroup_helpers (tk gid : Nat) (f : Group → Group) : (s.onGroup tk gid f).helpers = s.helpers := rfl
@[simp] theorem State.onGroup_recruits (tk gid : Nat) (f : Group → Group) : (s.onGroup tk gid f).recruits = s.recruits := rfl
@[simp] theorem State.onGroup_teams (tk gid : Nat) (f : Group → Group) : (s.onGroup tk gid f).teams = s.teams := rfl
@[simp] theorem State.onGroup_frames (tk gid : Nat) (f : Group → Group) : (s.onGroup tk gid f).frames = s.frames := rfl
@[simp] theorem State.onGroup_cores (tk gid : Nat) (f : Group → Group) : (s.onGroup tk gid f).cores = s.cores := rfl
@[simp] theorem State.onGroup_coreMem (tk gid : Nat) (f : Group → Group) : (s.onGroup tk gid f).coreMem = s.coreMem := rfl
@[simp] theorem State.onGroup_l1size (tk gid : Nat) (f : Group → Group) : (s.onGroup tk gid f).l1size = s.l1size := rfl
@[simp] theorem State.onGroup_clusters (tk gid : Nat) (f : Group → Group) : (s.onGroup tk gid f).clusters = s.clusters := rfl
@[simp] theorem State.onGroup_dies (tk gid : Nat) (f : Group → Group) : (s.onGroup tk gid f).dies = s.dies := rfl
@[simp] theorem State.onGroup_services (tk gid : Nat) (f : Group → Group) : (s.onGroup tk gid f).services = s.services := rfl
@[simp] theorem State.onGroup_pkg (tk gid : Nat) (f : Group → Group) : (s.onGroup tk gid f).pkg = s.pkg := rfl
@[simp] theorem State.onGroup_l2 (tk gid : Nat) (f : Group → Group) : (s.onGroup tk gid f).l2 = s.l2 := rfl
@[simp] theorem State.onGroup_table (tk gid : Nat) (f : Group → Group) : (s.onGroup tk gid f).table = s.table := rfl
@[simp] theorem State.onGroup_fab (tk gid : Nat) (f : Group → Group) : (s.onGroup tk gid f).fab = s.fab := rfl
@[simp] theorem State.onGroup_boot (tk gid : Nat) (f : Group → Group) : (s.onGroup tk gid f).boot = s.boot := rfl
@[simp] theorem State.onGroup_bm (tk gid : Nat) (f : Group → Group) : (s.onGroup tk gid f).bm = s.bm := rfl
@[simp] theorem State.onGroup_time (tk gid : Nat) (f : Group → Group) : (s.onGroup tk gid f).time = s.time := rfl
@[simp] theorem State.onGroup_agenda (tk gid : Nat) (f : Group → Group) : (s.onGroup tk gid f).agenda = s.agenda := rfl
@[simp] theorem State.onGroup_cur (tk gid : Nat) (f : Group → Group) : (s.onGroup tk gid f).cur = s.cur := rfl
@[simp] theorem State.onGroup_slow (tk gid : Nat) (f : Group → Group) : (s.onGroup tk gid f).slow = s.slow := rfl
@[simp] theorem State.onGroup_nonce (tk gid : Nat) (f : Group → Group) : (s.onGroup tk gid f).nonce = s.nonce := rfl
@[simp] theorem State.onGroup_nextId (tk gid : Nat) (f : Group → Group) : (s.onGroup tk gid f).nextId = s.nextId := rfl

/-! ### onTeam -/

@[simp] theorem State.onTeam_mem (tk : Nat) (f : Team → Team) : (s.onTeam tk f).mem = s.mem := rfl
@[simp] theorem State.onTeam_words (tk : Nat) (f : Team → Team) : (s.onTeam tk f).words = s.words := rfl
@[simp] theorem State.onTeam_poison (tk : Nat) (f : Team → Team) : (s.onTeam tk f).poison = s.poison := rfl
@[simp] theorem State.onTeam_held (tk : Nat) (f : Team → Team) : (s.onTeam tk f).held = s.held := rfl
@[simp] theorem State.onTeam_queue (tk : Nat) (f : Team → Team) : (s.onTeam tk f).queue = s.queue := rfl
@[simp] theorem State.onTeam_devPending (tk : Nat) (f : Team → Team) : (s.onTeam tk f).devPending = s.devPending := rfl
@[simp] theorem State.onTeam_guest (tk : Nat) (f : Team → Team) : (s.onTeam tk f).guest = s.guest := rfl
@[simp] theorem State.onTeam_guestRegs (tk : Nat) (f : Team → Team) : (s.onTeam tk f).guestRegs = s.guestRegs := rfl
@[simp] theorem State.onTeam_threads (tk : Nat) (f : Team → Team) : (s.onTeam tk f).threads = s.threads := rfl
@[simp] theorem State.onTeam_ctxs (tk : Nat) (f : Team → Team) : (s.onTeam tk f).ctxs = s.ctxs := rfl
@[simp] theorem State.onTeam_groups (tk : Nat) (f : Team → Team) : (s.onTeam tk f).groups = s.groups := rfl
@[simp] theorem State.onTeam_helpers (tk : Nat) (f : Team → Team) : (s.onTeam tk f).helpers = s.helpers := rfl
@[simp] theorem State.onTeam_recruits (tk : Nat) (f : Team → Team) : (s.onTeam tk f).recruits = s.recruits := rfl
@[simp] theorem State.onTeam_teams (tk : Nat) (f : Team → Team) : (s.onTeam tk f).teams = tset tk (f (s.team tk)) s.teams := rfl
@[simp] theorem State.onTeam_frames (tk : Nat) (f : Team → Team) : (s.onTeam tk f).frames = s.frames := rfl
@[simp] theorem State.onTeam_cores (tk : Nat) (f : Team → Team) : (s.onTeam tk f).cores = s.cores := rfl
@[simp] theorem State.onTeam_coreMem (tk : Nat) (f : Team → Team) : (s.onTeam tk f).coreMem = s.coreMem := rfl
@[simp] theorem State.onTeam_l1size (tk : Nat) (f : Team → Team) : (s.onTeam tk f).l1size = s.l1size := rfl
@[simp] theorem State.onTeam_clusters (tk : Nat) (f : Team → Team) : (s.onTeam tk f).clusters = s.clusters := rfl
@[simp] theorem State.onTeam_dies (tk : Nat) (f : Team → Team) : (s.onTeam tk f).dies = s.dies := rfl
@[simp] theorem State.onTeam_services (tk : Nat) (f : Team → Team) : (s.onTeam tk f).services = s.services := rfl
@[simp] theorem State.onTeam_pkg (tk : Nat) (f : Team → Team) : (s.onTeam tk f).pkg = s.pkg := rfl
@[simp] theorem State.onTeam_l2 (tk : Nat) (f : Team → Team) : (s.onTeam tk f).l2 = s.l2 := rfl
@[simp] theorem State.onTeam_table (tk : Nat) (f : Team → Team) : (s.onTeam tk f).table = s.table := rfl
@[simp] theorem State.onTeam_fab (tk : Nat) (f : Team → Team) : (s.onTeam tk f).fab = s.fab := rfl
@[simp] theorem State.onTeam_boot (tk : Nat) (f : Team → Team) : (s.onTeam tk f).boot = s.boot := rfl
@[simp] theorem State.onTeam_bm (tk : Nat) (f : Team → Team) : (s.onTeam tk f).bm = s.bm := rfl
@[simp] theorem State.onTeam_time (tk : Nat) (f : Team → Team) : (s.onTeam tk f).time = s.time := rfl
@[simp] theorem State.onTeam_agenda (tk : Nat) (f : Team → Team) : (s.onTeam tk f).agenda = s.agenda := rfl
@[simp] theorem State.onTeam_cur (tk : Nat) (f : Team → Team) : (s.onTeam tk f).cur = s.cur := rfl
@[simp] theorem State.onTeam_slow (tk : Nat) (f : Team → Team) : (s.onTeam tk f).slow = s.slow := rfl
@[simp] theorem State.onTeam_nonce (tk : Nat) (f : Team → Team) : (s.onTeam tk f).nonce = s.nonce := rfl
@[simp] theorem State.onTeam_nextId (tk : Nat) (f : Team → Team) : (s.onTeam tk f).nextId = s.nextId := rfl

/-! ### onHelper -/

@[simp] theorem State.onHelper_mem (c h : Nat) (f : Helper → Helper) : (s.onHelper c h f).mem = s.mem := rfl
@[simp] theorem State.onHelper_words (c h : Nat) (f : Helper → Helper) : (s.onHelper c h f).words = s.words := rfl
@[simp] theorem State.onHelper_poison (c h : Nat) (f : Helper → Helper) : (s.onHelper c h f).poison = s.poison := rfl
@[simp] theorem State.onHelper_held (c h : Nat) (f : Helper → Helper) : (s.onHelper c h f).held = s.held := rfl
@[simp] theorem State.onHelper_queue (c h : Nat) (f : Helper → Helper) : (s.onHelper c h f).queue = s.queue := rfl
@[simp] theorem State.onHelper_devPending (c h : Nat) (f : Helper → Helper) : (s.onHelper c h f).devPending = s.devPending := rfl
@[simp] theorem State.onHelper_guest (c h : Nat) (f : Helper → Helper) : (s.onHelper c h f).guest = s.guest := rfl
@[simp] theorem State.onHelper_guestRegs (c h : Nat) (f : Helper → Helper) : (s.onHelper c h f).guestRegs = s.guestRegs := rfl
@[simp] theorem State.onHelper_threads (c h : Nat) (f : Helper → Helper) : (s.onHelper c h f).threads = s.threads := rfl
@[simp] theorem State.onHelper_ctxs (c h : Nat) (f : Helper → Helper) : (s.onHelper c h f).ctxs = s.ctxs := rfl
@[simp] theorem State.onHelper_groups (c h : Nat) (f : Helper → Helper) : (s.onHelper c h f).groups = s.groups := rfl
@[simp] theorem State.onHelper_helpers (c h : Nat) (f : Helper → Helper) : (s.onHelper c h f).helpers = tset (c, h) (f (s.helper c h)) s.helpers := rfl
@[simp] theorem State.onHelper_recruits (c h : Nat) (f : Helper → Helper) : (s.onHelper c h f).recruits = s.recruits := rfl
@[simp] theorem State.onHelper_teams (c h : Nat) (f : Helper → Helper) : (s.onHelper c h f).teams = s.teams := rfl
@[simp] theorem State.onHelper_frames (c h : Nat) (f : Helper → Helper) : (s.onHelper c h f).frames = s.frames := rfl
@[simp] theorem State.onHelper_cores (c h : Nat) (f : Helper → Helper) : (s.onHelper c h f).cores = s.cores := rfl
@[simp] theorem State.onHelper_coreMem (c h : Nat) (f : Helper → Helper) : (s.onHelper c h f).coreMem = s.coreMem := rfl
@[simp] theorem State.onHelper_l1size (c h : Nat) (f : Helper → Helper) : (s.onHelper c h f).l1size = s.l1size := rfl
@[simp] theorem State.onHelper_clusters (c h : Nat) (f : Helper → Helper) : (s.onHelper c h f).clusters = s.clusters := rfl
@[simp] theorem State.onHelper_dies (c h : Nat) (f : Helper → Helper) : (s.onHelper c h f).dies = s.dies := rfl
@[simp] theorem State.onHelper_services (c h : Nat) (f : Helper → Helper) : (s.onHelper c h f).services = s.services := rfl
@[simp] theorem State.onHelper_pkg (c h : Nat) (f : Helper → Helper) : (s.onHelper c h f).pkg = s.pkg := rfl
@[simp] theorem State.onHelper_l2 (c h : Nat) (f : Helper → Helper) : (s.onHelper c h f).l2 = s.l2 := rfl
@[simp] theorem State.onHelper_table (c h : Nat) (f : Helper → Helper) : (s.onHelper c h f).table = s.table := rfl
@[simp] theorem State.onHelper_fab (c h : Nat) (f : Helper → Helper) : (s.onHelper c h f).fab = s.fab := rfl
@[simp] theorem State.onHelper_boot (c h : Nat) (f : Helper → Helper) : (s.onHelper c h f).boot = s.boot := rfl
@[simp] theorem State.onHelper_bm (c h : Nat) (f : Helper → Helper) : (s.onHelper c h f).bm = s.bm := rfl
@[simp] theorem State.onHelper_time (c h : Nat) (f : Helper → Helper) : (s.onHelper c h f).time = s.time := rfl
@[simp] theorem State.onHelper_agenda (c h : Nat) (f : Helper → Helper) : (s.onHelper c h f).agenda = s.agenda := rfl
@[simp] theorem State.onHelper_cur (c h : Nat) (f : Helper → Helper) : (s.onHelper c h f).cur = s.cur := rfl
@[simp] theorem State.onHelper_slow (c h : Nat) (f : Helper → Helper) : (s.onHelper c h f).slow = s.slow := rfl
@[simp] theorem State.onHelper_nonce (c h : Nat) (f : Helper → Helper) : (s.onHelper c h f).nonce = s.nonce := rfl
@[simp] theorem State.onHelper_nextId (c h : Nat) (f : Helper → Helper) : (s.onHelper c h f).nextId = s.nextId := rfl

/-! ### onService -/

@[simp] theorem State.onService_mem (n : Nat) (f : Service → Service) : (s.onService n f).mem = s.mem := rfl
@[simp] theorem State.onService_words (n : Nat) (f : Service → Service) : (s.onService n f).words = s.words := rfl
@[simp] theorem State.onService_poison (n : Nat) (f : Service → Service) : (s.onService n f).poison = s.poison := rfl
@[simp] theorem State.onService_held (n : Nat) (f : Service → Service) : (s.onService n f).held = s.held := rfl
@[simp] theorem State.onService_queue (n : Nat) (f : Service → Service) : (s.onService n f).queue = s.queue := rfl
@[simp] theorem State.onService_devPending (n : Nat) (f : Service → Service) : (s.onService n f).devPending = s.devPending := rfl
@[simp] theorem State.onService_guest (n : Nat) (f : Service → Service) : (s.onService n f).guest = s.guest := rfl
@[simp] theorem State.onService_guestRegs (n : Nat) (f : Service → Service) : (s.onService n f).guestRegs = s.guestRegs := rfl
@[simp] theorem State.onService_threads (n : Nat) (f : Service → Service) : (s.onService n f).threads = s.threads := rfl
@[simp] theorem State.onService_ctxs (n : Nat) (f : Service → Service) : (s.onService n f).ctxs = s.ctxs := rfl
@[simp] theorem State.onService_groups (n : Nat) (f : Service → Service) : (s.onService n f).groups = s.groups := rfl
@[simp] theorem State.onService_helpers (n : Nat) (f : Service → Service) : (s.onService n f).helpers = s.helpers := rfl
@[simp] theorem State.onService_recruits (n : Nat) (f : Service → Service) : (s.onService n f).recruits = s.recruits := rfl
@[simp] theorem State.onService_teams (n : Nat) (f : Service → Service) : (s.onService n f).teams = s.teams := rfl
@[simp] theorem State.onService_frames (n : Nat) (f : Service → Service) : (s.onService n f).frames = s.frames := rfl
@[simp] theorem State.onService_cores (n : Nat) (f : Service → Service) : (s.onService n f).cores = s.cores := rfl
@[simp] theorem State.onService_coreMem (n : Nat) (f : Service → Service) : (s.onService n f).coreMem = s.coreMem := rfl
@[simp] theorem State.onService_l1size (n : Nat) (f : Service → Service) : (s.onService n f).l1size = s.l1size := rfl
@[simp] theorem State.onService_clusters (n : Nat) (f : Service → Service) : (s.onService n f).clusters = s.clusters := rfl
@[simp] theorem State.onService_dies (n : Nat) (f : Service → Service) : (s.onService n f).dies = s.dies := rfl
@[simp] theorem State.onService_services (n : Nat) (f : Service → Service) : (s.onService n f).services = tset n (f (s.service n)) s.services := rfl
@[simp] theorem State.onService_pkg (n : Nat) (f : Service → Service) : (s.onService n f).pkg = s.pkg := rfl
@[simp] theorem State.onService_l2 (n : Nat) (f : Service → Service) : (s.onService n f).l2 = s.l2 := rfl
@[simp] theorem State.onService_table (n : Nat) (f : Service → Service) : (s.onService n f).table = s.table := rfl
@[simp] theorem State.onService_fab (n : Nat) (f : Service → Service) : (s.onService n f).fab = s.fab := rfl
@[simp] theorem State.onService_boot (n : Nat) (f : Service → Service) : (s.onService n f).boot = s.boot := rfl
@[simp] theorem State.onService_bm (n : Nat) (f : Service → Service) : (s.onService n f).bm = s.bm := rfl
@[simp] theorem State.onService_time (n : Nat) (f : Service → Service) : (s.onService n f).time = s.time := rfl
@[simp] theorem State.onService_agenda (n : Nat) (f : Service → Service) : (s.onService n f).agenda = s.agenda := rfl
@[simp] theorem State.onService_cur (n : Nat) (f : Service → Service) : (s.onService n f).cur = s.cur := rfl
@[simp] theorem State.onService_slow (n : Nat) (f : Service → Service) : (s.onService n f).slow = s.slow := rfl
@[simp] theorem State.onService_nonce (n : Nat) (f : Service → Service) : (s.onService n f).nonce = s.nonce := rfl
@[simp] theorem State.onService_nextId (n : Nat) (f : Service → Service) : (s.onService n f).nextId = s.nextId := rfl

/-! ### onCore -/

@[simp] theorem State.onCore_mem (c : Nat) (f : Core → Core) : (s.onCore c f).mem = s.mem := rfl
@[simp] theorem State.onCore_words (c : Nat) (f : Core → Core) : (s.onCore c f).words = s.words := rfl
@[simp] theorem State.onCore_poison (c : Nat) (f : Core → Core) : (s.onCore c f).poison = s.poison := rfl
@[simp] theorem State.onCore_held (c : Nat) (f : Core → Core) : (s.onCore c f).held = s.held := rfl
@[simp] theorem State.onCore_queue (c : Nat) (f : Core → Core) : (s.onCore c f).queue = s.queue := rfl
@[simp] theorem State.onCore_devPending (c : Nat) (f : Core → Core) : (s.onCore c f).devPending = s.devPending := rfl
@[simp] theorem State.onCore_guest (c : Nat) (f : Core → Core) : (s.onCore c f).guest = s.guest := rfl
@[simp] theorem State.onCore_guestRegs (c : Nat) (f : Core → Core) : (s.onCore c f).guestRegs = s.guestRegs := rfl
@[simp] theorem State.onCore_threads (c : Nat) (f : Core → Core) : (s.onCore c f).threads = s.threads := rfl
@[simp] theorem State.onCore_ctxs (c : Nat) (f : Core → Core) : (s.onCore c f).ctxs = s.ctxs := rfl
@[simp] theorem State.onCore_groups (c : Nat) (f : Core → Core) : (s.onCore c f).groups = s.groups := rfl
@[simp] theorem State.onCore_helpers (c : Nat) (f : Core → Core) : (s.onCore c f).helpers = s.helpers := rfl
@[simp] theorem State.onCore_recruits (c : Nat) (f : Core → Core) : (s.onCore c f).recruits = s.recruits := rfl
@[simp] theorem State.onCore_teams (c : Nat) (f : Core → Core) : (s.onCore c f).teams = s.teams := rfl
@[simp] theorem State.onCore_frames (c : Nat) (f : Core → Core) : (s.onCore c f).frames = s.frames := rfl
@[simp] theorem State.onCore_cores (c : Nat) (f : Core → Core) : (s.onCore c f).cores = tset c (f (s.core c)) s.cores := rfl
@[simp] theorem State.onCore_coreMem (c : Nat) (f : Core → Core) : (s.onCore c f).coreMem = s.coreMem := rfl
@[simp] theorem State.onCore_l1size (c : Nat) (f : Core → Core) : (s.onCore c f).l1size = s.l1size := rfl
@[simp] theorem State.onCore_clusters (c : Nat) (f : Core → Core) : (s.onCore c f).clusters = s.clusters := rfl
@[simp] theorem State.onCore_dies (c : Nat) (f : Core → Core) : (s.onCore c f).dies = s.dies := rfl
@[simp] theorem State.onCore_services (c : Nat) (f : Core → Core) : (s.onCore c f).services = s.services := rfl
@[simp] theorem State.onCore_pkg (c : Nat) (f : Core → Core) : (s.onCore c f).pkg = s.pkg := rfl
@[simp] theorem State.onCore_l2 (c : Nat) (f : Core → Core) : (s.onCore c f).l2 = s.l2 := rfl
@[simp] theorem State.onCore_table (c : Nat) (f : Core → Core) : (s.onCore c f).table = s.table := rfl
@[simp] theorem State.onCore_fab (c : Nat) (f : Core → Core) : (s.onCore c f).fab = s.fab := rfl
@[simp] theorem State.onCore_boot (c : Nat) (f : Core → Core) : (s.onCore c f).boot = s.boot := rfl
@[simp] theorem State.onCore_bm (c : Nat) (f : Core → Core) : (s.onCore c f).bm = s.bm := rfl
@[simp] theorem State.onCore_time (c : Nat) (f : Core → Core) : (s.onCore c f).time = s.time := rfl
@[simp] theorem State.onCore_agenda (c : Nat) (f : Core → Core) : (s.onCore c f).agenda = s.agenda := rfl
@[simp] theorem State.onCore_cur (c : Nat) (f : Core → Core) : (s.onCore c f).cur = s.cur := rfl
@[simp] theorem State.onCore_slow (c : Nat) (f : Core → Core) : (s.onCore c f).slow = s.slow := rfl
@[simp] theorem State.onCore_nonce (c : Nat) (f : Core → Core) : (s.onCore c f).nonce = s.nonce := rfl
@[simp] theorem State.onCore_nextId (c : Nat) (f : Core → Core) : (s.onCore c f).nextId = s.nextId := rfl

/-! ### onCmem -/

@[simp] theorem State.onCmem_mem (a : Nat) (f : CoreMem → CoreMem) : (s.onCmem a f).mem = s.mem := rfl
@[simp] theorem State.onCmem_words (a : Nat) (f : CoreMem → CoreMem) : (s.onCmem a f).words = s.words := rfl
@[simp] theorem State.onCmem_poison (a : Nat) (f : CoreMem → CoreMem) : (s.onCmem a f).poison = s.poison := rfl
@[simp] theorem State.onCmem_held (a : Nat) (f : CoreMem → CoreMem) : (s.onCmem a f).held = s.held := rfl
@[simp] theorem State.onCmem_queue (a : Nat) (f : CoreMem → CoreMem) : (s.onCmem a f).queue = s.queue := rfl
@[simp] theorem State.onCmem_devPending (a : Nat) (f : CoreMem → CoreMem) : (s.onCmem a f).devPending = s.devPending := rfl
@[simp] theorem State.onCmem_guest (a : Nat) (f : CoreMem → CoreMem) : (s.onCmem a f).guest = s.guest := rfl
@[simp] theorem State.onCmem_guestRegs (a : Nat) (f : CoreMem → CoreMem) : (s.onCmem a f).guestRegs = s.guestRegs := rfl
@[simp] theorem State.onCmem_threads (a : Nat) (f : CoreMem → CoreMem) : (s.onCmem a f).threads = s.threads := rfl
@[simp] theorem State.onCmem_ctxs (a : Nat) (f : CoreMem → CoreMem) : (s.onCmem a f).ctxs = s.ctxs := rfl
@[simp] theorem State.onCmem_groups (a : Nat) (f : CoreMem → CoreMem) : (s.onCmem a f).groups = s.groups := rfl
@[simp] theorem State.onCmem_helpers (a : Nat) (f : CoreMem → CoreMem) : (s.onCmem a f).helpers = s.helpers := rfl
@[simp] theorem State.onCmem_recruits (a : Nat) (f : CoreMem → CoreMem) : (s.onCmem a f).recruits = s.recruits := rfl
@[simp] theorem State.onCmem_teams (a : Nat) (f : CoreMem → CoreMem) : (s.onCmem a f).teams = s.teams := rfl
@[simp] theorem State.onCmem_frames (a : Nat) (f : CoreMem → CoreMem) : (s.onCmem a f).frames = s.frames := rfl
@[simp] theorem State.onCmem_cores (a : Nat) (f : CoreMem → CoreMem) : (s.onCmem a f).cores = s.cores := rfl
@[simp] theorem State.onCmem_coreMem (a : Nat) (f : CoreMem → CoreMem) : (s.onCmem a f).coreMem = tset a (f (s.cmem a)) s.coreMem := rfl
@[simp] theorem State.onCmem_l1size (a : Nat) (f : CoreMem → CoreMem) : (s.onCmem a f).l1size = s.l1size := rfl
@[simp] theorem State.onCmem_clusters (a : Nat) (f : CoreMem → CoreMem) : (s.onCmem a f).clusters = s.clusters := rfl
@[simp] theorem State.onCmem_dies (a : Nat) (f : CoreMem → CoreMem) : (s.onCmem a f).dies = s.dies := rfl
@[simp] theorem State.onCmem_services (a : Nat) (f : CoreMem → CoreMem) : (s.onCmem a f).services = s.services := rfl
@[simp] theorem State.onCmem_pkg (a : Nat) (f : CoreMem → CoreMem) : (s.onCmem a f).pkg = s.pkg := rfl
@[simp] theorem State.onCmem_l2 (a : Nat) (f : CoreMem → CoreMem) : (s.onCmem a f).l2 = s.l2 := rfl
@[simp] theorem State.onCmem_table (a : Nat) (f : CoreMem → CoreMem) : (s.onCmem a f).table = s.table := rfl
@[simp] theorem State.onCmem_fab (a : Nat) (f : CoreMem → CoreMem) : (s.onCmem a f).fab = s.fab := rfl
@[simp] theorem State.onCmem_boot (a : Nat) (f : CoreMem → CoreMem) : (s.onCmem a f).boot = s.boot := rfl
@[simp] theorem State.onCmem_bm (a : Nat) (f : CoreMem → CoreMem) : (s.onCmem a f).bm = s.bm := rfl
@[simp] theorem State.onCmem_time (a : Nat) (f : CoreMem → CoreMem) : (s.onCmem a f).time = s.time := rfl
@[simp] theorem State.onCmem_agenda (a : Nat) (f : CoreMem → CoreMem) : (s.onCmem a f).agenda = s.agenda := rfl
@[simp] theorem State.onCmem_cur (a : Nat) (f : CoreMem → CoreMem) : (s.onCmem a f).cur = s.cur := rfl
@[simp] theorem State.onCmem_slow (a : Nat) (f : CoreMem → CoreMem) : (s.onCmem a f).slow = s.slow := rfl
@[simp] theorem State.onCmem_nonce (a : Nat) (f : CoreMem → CoreMem) : (s.onCmem a f).nonce = s.nonce := rfl
@[simp] theorem State.onCmem_nextId (a : Nat) (f : CoreMem → CoreMem) : (s.onCmem a f).nextId = s.nextId := rfl

/-! ### onDie -/

@[simp] theorem State.onDie_mem (d : Nat) (f : Die → Die) : (s.onDie d f).mem = s.mem := rfl
@[simp] theorem State.onDie_words (d : Nat) (f : Die → Die) : (s.onDie d f).words = s.words := rfl
@[simp] theorem State.onDie_poison (d : Nat) (f : Die → Die) : (s.onDie d f).poison = s.poison := rfl
@[simp] theorem State.onDie_held (d : Nat) (f : Die → Die) : (s.onDie d f).held = s.held := rfl
@[simp] theorem State.onDie_queue (d : Nat) (f : Die → Die) : (s.onDie d f).queue = s.queue := rfl
@[simp] theorem State.onDie_devPending (d : Nat) (f : Die → Die) : (s.onDie d f).devPending = s.devPending := rfl
@[simp] theorem State.onDie_guest (d : Nat) (f : Die → Die) : (s.onDie d f).guest = s.guest := rfl
@[simp] theorem State.onDie_guestRegs (d : Nat) (f : Die → Die) : (s.onDie d f).guestRegs = s.guestRegs := rfl
@[simp] theorem State.onDie_threads (d : Nat) (f : Die → Die) : (s.onDie d f).threads = s.threads := rfl
@[simp] theorem State.onDie_ctxs (d : Nat) (f : Die → Die) : (s.onDie d f).ctxs = s.ctxs := rfl
@[simp] theorem State.onDie_groups (d : Nat) (f : Die → Die) : (s.onDie d f).groups = s.groups := rfl
@[simp] theorem State.onDie_helpers (d : Nat) (f : Die → Die) : (s.onDie d f).helpers = s.helpers := rfl
@[simp] theorem State.onDie_recruits (d : Nat) (f : Die → Die) : (s.onDie d f).recruits = s.recruits := rfl
@[simp] theorem State.onDie_teams (d : Nat) (f : Die → Die) : (s.onDie d f).teams = s.teams := rfl
@[simp] theorem State.onDie_frames (d : Nat) (f : Die → Die) : (s.onDie d f).frames = s.frames := rfl
@[simp] theorem State.onDie_cores (d : Nat) (f : Die → Die) : (s.onDie d f).cores = s.cores := rfl
@[simp] theorem State.onDie_coreMem (d : Nat) (f : Die → Die) : (s.onDie d f).coreMem = s.coreMem := rfl
@[simp] theorem State.onDie_l1size (d : Nat) (f : Die → Die) : (s.onDie d f).l1size = s.l1size := rfl
@[simp] theorem State.onDie_clusters (d : Nat) (f : Die → Die) : (s.onDie d f).clusters = s.clusters := rfl
@[simp] theorem State.onDie_dies (d : Nat) (f : Die → Die) : (s.onDie d f).dies = tset d (f (s.die d)) s.dies := rfl
@[simp] theorem State.onDie_services (d : Nat) (f : Die → Die) : (s.onDie d f).services = s.services := rfl
@[simp] theorem State.onDie_pkg (d : Nat) (f : Die → Die) : (s.onDie d f).pkg = s.pkg := rfl
@[simp] theorem State.onDie_l2 (d : Nat) (f : Die → Die) : (s.onDie d f).l2 = s.l2 := rfl
@[simp] theorem State.onDie_table (d : Nat) (f : Die → Die) : (s.onDie d f).table = s.table := rfl
@[simp] theorem State.onDie_fab (d : Nat) (f : Die → Die) : (s.onDie d f).fab = s.fab := rfl
@[simp] theorem State.onDie_boot (d : Nat) (f : Die → Die) : (s.onDie d f).boot = s.boot := rfl
@[simp] theorem State.onDie_bm (d : Nat) (f : Die → Die) : (s.onDie d f).bm = s.bm := rfl
@[simp] theorem State.onDie_time (d : Nat) (f : Die → Die) : (s.onDie d f).time = s.time := rfl
@[simp] theorem State.onDie_agenda (d : Nat) (f : Die → Die) : (s.onDie d f).agenda = s.agenda := rfl
@[simp] theorem State.onDie_cur (d : Nat) (f : Die → Die) : (s.onDie d f).cur = s.cur := rfl
@[simp] theorem State.onDie_slow (d : Nat) (f : Die → Die) : (s.onDie d f).slow = s.slow := rfl
@[simp] theorem State.onDie_nonce (d : Nat) (f : Die → Die) : (s.onDie d f).nonce = s.nonce := rfl
@[simp] theorem State.onDie_nextId (d : Nat) (f : Die → Die) : (s.onDie d f).nextId = s.nextId := rfl

/-! ### onCluster -/

@[simp] theorem State.onCluster_mem (c : Nat) (f : Cluster → Cluster) : (s.onCluster c f).mem = s.mem := rfl
@[simp] theorem State.onCluster_words (c : Nat) (f : Cluster → Cluster) : (s.onCluster c f).words = s.words := rfl
@[simp] theorem State.onCluster_poison (c : Nat) (f : Cluster → Cluster) : (s.onCluster c f).poison = s.poison := rfl
@[simp] theorem State.onCluster_held (c : Nat) (f : Cluster → Cluster) : (s.onCluster c f).held = s.held := rfl
@[simp] theorem State.onCluster_queue (c : Nat) (f : Cluster → Cluster) : (s.onCluster c f).queue = s.queue := rfl
@[simp] theorem State.onCluster_devPending (c : Nat) (f : Cluster → Cluster) : (s.onCluster c f).devPending = s.devPending := rfl
@[simp] theorem State.onCluster_guest (c : Nat) (f : Cluster → Cluster) : (s.onCluster c f).guest = s.guest := rfl
@[simp] theorem State.onCluster_guestRegs (c : Nat) (f : Cluster → Cluster) : (s.onCluster c f).guestRegs = s.guestRegs := rfl
@[simp] theorem State.onCluster_threads (c : Nat) (f : Cluster → Cluster) : (s.onCluster c f).threads = s.threads := rfl
@[simp] theorem State.onCluster_ctxs (c : Nat) (f : Cluster → Cluster) : (s.onCluster c f).ctxs = s.ctxs := rfl
@[simp] theorem State.onCluster_groups (c : Nat) (f : Cluster → Cluster) : (s.onCluster c f).groups = s.groups := rfl
@[simp] theorem State.onCluster_helpers (c : Nat) (f : Cluster → Cluster) : (s.onCluster c f).helpers = s.helpers := rfl
@[simp] theorem State.onCluster_recruits (c : Nat) (f : Cluster → Cluster) : (s.onCluster c f).recruits = s.recruits := rfl
@[simp] theorem State.onCluster_teams (c : Nat) (f : Cluster → Cluster) : (s.onCluster c f).teams = s.teams := rfl
@[simp] theorem State.onCluster_frames (c : Nat) (f : Cluster → Cluster) : (s.onCluster c f).frames = s.frames := rfl
@[simp] theorem State.onCluster_cores (c : Nat) (f : Cluster → Cluster) : (s.onCluster c f).cores = s.cores := rfl
@[simp] theorem State.onCluster_coreMem (c : Nat) (f : Cluster → Cluster) : (s.onCluster c f).coreMem = s.coreMem := rfl
@[simp] theorem State.onCluster_l1size (c : Nat) (f : Cluster → Cluster) : (s.onCluster c f).l1size = s.l1size := rfl
@[simp] theorem State.onCluster_clusters (c : Nat) (f : Cluster → Cluster) : (s.onCluster c f).clusters = tset c (f (s.cluster c)) s.clusters := rfl
@[simp] theorem State.onCluster_dies (c : Nat) (f : Cluster → Cluster) : (s.onCluster c f).dies = s.dies := rfl
@[simp] theorem State.onCluster_services (c : Nat) (f : Cluster → Cluster) : (s.onCluster c f).services = s.services := rfl
@[simp] theorem State.onCluster_pkg (c : Nat) (f : Cluster → Cluster) : (s.onCluster c f).pkg = s.pkg := rfl
@[simp] theorem State.onCluster_l2 (c : Nat) (f : Cluster → Cluster) : (s.onCluster c f).l2 = s.l2 := rfl
@[simp] theorem State.onCluster_table (c : Nat) (f : Cluster → Cluster) : (s.onCluster c f).table = s.table := rfl
@[simp] theorem State.onCluster_fab (c : Nat) (f : Cluster → Cluster) : (s.onCluster c f).fab = s.fab := rfl
@[simp] theorem State.onCluster_boot (c : Nat) (f : Cluster → Cluster) : (s.onCluster c f).boot = s.boot := rfl
@[simp] theorem State.onCluster_bm (c : Nat) (f : Cluster → Cluster) : (s.onCluster c f).bm = s.bm := rfl
@[simp] theorem State.onCluster_time (c : Nat) (f : Cluster → Cluster) : (s.onCluster c f).time = s.time := rfl
@[simp] theorem State.onCluster_agenda (c : Nat) (f : Cluster → Cluster) : (s.onCluster c f).agenda = s.agenda := rfl
@[simp] theorem State.onCluster_cur (c : Nat) (f : Cluster → Cluster) : (s.onCluster c f).cur = s.cur := rfl
@[simp] theorem State.onCluster_slow (c : Nat) (f : Cluster → Cluster) : (s.onCluster c f).slow = s.slow := rfl
@[simp] theorem State.onCluster_nonce (c : Nat) (f : Cluster → Cluster) : (s.onCluster c f).nonce = s.nonce := rfl
@[simp] theorem State.onCluster_nextId (c : Nat) (f : Cluster → Cluster) : (s.onCluster c f).nextId = s.nextId := rfl

end Sys2Proof.Machine
end

