-- ==== Sys2Proof/Laws/Table.lean ====
section
/-! SUPPORT. Tables and memory: a read after a write, and that every memory operation keeps the canonical form. -/
namespace Sys2Proof.Machine

/-! ### Tables -/

section
variable {κ α : Type} [DecidableEq κ]

/-- A read after a write of a table. -/
theorem tget_tset (k k' : κ) (v : α) (t : Table κ α) :
    tget k' (tset k v t) = if k = k' then some v else tget k' t := by
  induction t with
  | nil => simp [tset, tget]
  | cons x t ih =>
    obtain ⟨j, w⟩ := x
    by_cases h : j = k
    · subst h; by_cases h' : j = k' <;> simp [tset, tget, h']
    · by_cases h' : j = k'
      · subst h'
        have : k ≠ j := fun e => h e.symm
        simp [tset, tget, h, this]
      · simp [tset, tget, h, h', ih]

/-- A read with a default after a write. -/
theorem tgetD_tset (k k' : κ) (d v : α) (t : Table κ α) :
    tgetD k' d (tset k v t) = if k = k' then v else tgetD k' d t := by
  by_cases h : k = k' <;> simp [tgetD, tget_tset, h]

/-- A read of the key just written. -/
@[simp] theorem tgetD_tset_same (k : κ) (d v : α) (t : Table κ α) : tgetD k d (tset k v t) = v := by
  simp [tgetD_tset]

/-- A read of another key. -/
theorem tgetD_tset_other {k k' : κ} (d v : α) (t : Table κ α) (h : k ≠ k') :
    tgetD k' d (tset k v t) = tgetD k' d t := by simp [tgetD_tset, h]

/-- A write of what the table holds changes no read. -/
theorem tget_tdel_other {k k' : κ} (t : Table κ α) (h : k ≠ k') : tget k' (tdel k t) = tget k' t := by
  induction t with
  | nil => rfl
  | cons x t ih =>
    obtain ⟨j, w⟩ := x
    by_cases hj : j = k
    · subst hj; simp [tdel, tget, h, ih]
    · by_cases hk : j = k'
      · subst hk; simp [tdel, tget, hj]
      · simp [tdel, tget, hj, hk, ih]

end

/-! ### Folds -/

/-- What every turn of a fold keeps, the fold keeps. -/
theorem forEach_keeps {α σ : Type} (P : σ → Prop) (f : α → σ → σ) (hf : ∀ x s, P s → P (f x s)) :
    ∀ (xs : List α) (s : σ), P s → P (forEach xs s f) := by
  intro xs
  induction xs with
  | nil => intro s h; exact h
  | cons x xs ih => intro s h; exact ih (f x s) (hf x s h)

/-- A value that no turn of a fold changes. -/
theorem forEach_same {α σ β : Type} (g : σ → β) (f : α → σ → σ) (hf : ∀ x s, g (f x s) = g s) (xs : List α) (s : σ) :
    g (forEach xs s f) = g s :=
  forEach_keeps (fun t => g t = g s) f (fun x t h => (hf x t).trans h) xs s rfl

/-! ### Memory -/

/-- A read below every listed address. -/
theorem mget_below (a : Nat) : ∀ m : List Host.Cell, memAbove (some a) m = true → mget a m = 0
  | [], _ => rfl
  | (k, v) :: m, h => by
    simp [memAbove] at h
    simp [mget, h.1.1]

/-- A canonical memory is canonical above every lower bound of its first address. -/
theorem memAbove_weaken {b c : Nat} (hc : c ≤ b) :
    ∀ m : List Host.Cell, memAbove (some b) m = true → memAbove (some c) m = true
  | [], _ => rfl
  | (k, v) :: m, h => by
    simp [memAbove] at h ⊢
    exact ⟨⟨by omega, h.1.2⟩, h.2⟩

/-- A canonical list above a bound is canonical. -/
theorem memAbove_none (b : Option Nat) : ∀ m : List Host.Cell, memAbove b m = true → memAbove none m = true
  | [], _ => rfl
  | (k, v) :: m, h => by
    cases b <;> simp [memAbove] at h ⊢
    · exact h
    · exact ⟨h.1.2, h.2⟩

/-- A write above a bound keeps the canonical form above it. -/
theorem mset_above (a : Nat) (v : BitVec 8) :
    ∀ (b : Option Nat) (m : List Host.Cell), (∀ x, b = some x → x < a) → memAbove b m = true →
      memAbove b (mset a v m) = true
  | b, [], hb, _ => by
    by_cases h : v = 0
    · subst h; rfl
    · simp only [mset, if_neg h, memAbove, Bool.and_eq_true, decide_eq_true_eq]
      refine ⟨⟨?_, h⟩, trivial⟩
      cases b with
      | none => rfl
      | some x => simpa using hb x rfl
  | b, (k, w) :: m, hb, h => by
    have h' := h
    simp only [memAbove, Bool.and_eq_true, decide_eq_true_eq] at h
    by_cases hlt : a < k
    · by_cases hv : v = 0
      · simpa only [mset, if_pos hlt, if_pos hv] using h'
      · simp only [mset, if_pos hlt, if_neg hv, memAbove, Bool.and_eq_true, decide_eq_true_eq]
        refine ⟨⟨?_, hv⟩, ⟨hlt, h.1.2⟩, h.2⟩
        cases b with
        | none => rfl
        | some x => simpa using hb x rfl
    · by_cases heq : a = k
      · subst heq
        by_cases hv : v = 0
        · simp only [mset, if_neg hlt, if_pos hv, if_true]
          cases b with
          | none => exact memAbove_none _ _ h.2
          | some x => exact memAbove_weaken (Nat.le_of_lt (by simpa using h.1.1)) m h.2
        · simp only [mset, if_neg hlt, if_neg hv, if_true, memAbove, Bool.and_eq_true, decide_eq_true_eq]
          exact ⟨⟨h.1.1, hv⟩, h.2⟩
      · simp only [mset, if_neg hlt, if_neg heq, memAbove, Bool.and_eq_true, decide_eq_true_eq]
        refine ⟨h.1, mset_above a v (some k) m ?_ h.2⟩
        intro x hx; cases hx; omega

/-- A write keeps the canonical form. -/
theorem mset_wf (a : Nat) (v : BitVec 8) (m : List Host.Cell) (h : Memory.wf m = true) : Memory.wf (mset a v m) = true :=
  mset_above a v none m (by simp) h

/-- A read after a write of one byte, in a memory that is canonical above a bound. -/
theorem mget_mset_above (a a' : Nat) (v : BitVec 8) :
    ∀ (b : Option Nat) (m : List Host.Cell), memAbove b m = true →
      mget a' (mset a v m) = if a' = a then v else mget a' m
  | _, [], _ => by
    by_cases hv : v = 0
    · subst hv; by_cases h : a' = a <;> simp [mset, mget, h]
    · simp only [mset, if_neg hv]
      by_cases h : a' = a
      · subst h; simp [mget]
      · simp [mget, h]
  | b, (k, w) :: m, hb => by
    simp only [memAbove, Bool.and_eq_true, decide_eq_true_eq] at hb
    have ih := mget_mset_above a a' v (some k) m hb.2
    by_cases hlt : a < k
    · by_cases hv : v = 0
      · simp only [mset, if_pos hlt, if_pos hv]
        by_cases h : a' = a
        · subst h; simp [mget, hlt, hv]
        · simp [h]
      · simp only [mset, if_pos hlt, if_neg hv]
        by_cases h : a' = a
        · subst h; simp [mget]
        · by_cases h2 : a' < a
          · have : a' < k := by omega
            simp [mget, h, h2, this]
          · simp [mget, h, h2]
    · by_cases heq : a = k
      · subst heq
        by_cases hv : v = 0
        · simp only [mset, if_neg hlt, if_pos hv, if_true]
          by_cases h : a' = a
          · subst h; simpa [hv] using mget_below a' m hb.2
          · by_cases h2 : a' < a
            · simpa [mget, h, h2] using mget_below a' m (memAbove_weaken (Nat.le_of_lt h2) m hb.2)
            · simp [mget, h, h2]
        · simp only [mset, if_neg hlt, if_neg hv, if_true]
          by_cases h : a' = a
          · subst h; simp [mget]
          · simp [mget, h]
      · simp only [mset, if_neg hlt, if_neg heq, mget]
        by_cases h2 : a' < k
        · have : a' ≠ a := by omega
          simp [h2, this]
        · by_cases h3 : a' = k
          · have : a' ≠ a := fun e => heq (e.symm.trans h3)
            simp [h3, Ne.symm heq]
          · simp [h2, h3, ih]

/-- A read after a write of one byte. -/
theorem mget_mset (a a' : Nat) (v : BitVec 8) (m : List Host.Cell) (h : Memory.wf m = true) :
    mget a' (mset a v m) = if a' = a then v else mget a' m := mget_mset_above a a' v none m h

/-- Writing bytes keeps the canonical form. -/
theorem msets_wf : ∀ (bs : List (BitVec 8)) (a : Nat) (m : List Host.Cell), Memory.wf m = true →
    Memory.wf (msets a bs m) = true
  | [], _, _, h => h
  | b :: bs, a, m, h => msets_wf bs (a + 1) _ (mset_wf a b m h)

/-- A byte outside the bytes written. -/
theorem mget_msets_other : ∀ (bs : List (BitVec 8)) (a a' : Nat) (m : List Host.Cell), Memory.wf m = true →
    (a' < a ∨ a + bs.length ≤ a') → mget a' (msets a bs m) = mget a' m
  | [], _, _, _, _, _ => rfl
  | b :: bs, a, a', m, h, ho => by
    have hl : (b :: bs).length = bs.length + 1 := rfl
    rw [msets, mget_msets_other bs (a + 1) a' _ (mset_wf a b m h) (by omega), mget_mset a a' b m h]
    have : a' ≠ a := by omega
    simp [this]

/-- A byte among the bytes written. -/
theorem mget_msets_at : ∀ (bs : List (BitVec 8)) (a i : Nat) (m : List Host.Cell), Memory.wf m = true →
    (hi : i < bs.length) → mget (a + i) (msets a bs m) = bs[i]
  | [], _, _, _, _, hi => absurd hi (by simp)
  | b :: bs, a, 0, m, h, _ => by
    rw [msets, mget_msets_other bs (a + 1) (a + 0) _ (mset_wf a b m h) (by omega), mget_mset a _ b m h]
    simp
  | b :: bs, a, i + 1, m, h, hi => by
    have := mget_msets_at bs (a + 1) i (mset a b m) (mset_wf a b m h) (by simpa using hi)
    rw [msets, show a + (i + 1) = a + 1 + i by omega, this]
    simp

end Sys2Proof.Machine
end

