-- ==== Sys2Proof/Laws/Ops.lean ====
section
/-! SUPPORT. What the shared operations over threads, contexts, groups and teams do: reads after updates, folds over the
lanes of a gang, retiring, popping, parking. -/
namespace Sys2Proof.Machine

variable (s : State)

/-! ### Reads after updates -/

theorem thread_setThread (r r' : ThreadRef) (t : Thread) :
    (s.setThread r t).thread r' = if r = r' then t else s.thread r' := by
  unfold State.thread
  rw [State.setThread_threads, tgetD_tset]

theorem thread_onThread (r r' : ThreadRef) (f : Thread → Thread) :
    (s.onThread r f).thread r' = if r = r' then f (s.thread r) else s.thread r' := thread_setThread s r r' _

theorem ctx_onCtx (p p' : Party) (f : Ctx → Ctx) :
    (s.onCtx p f).ctx p' = if p = p' then f (s.ctx p) else s.ctx p' := by
  unfold State.ctx
  rw [State.onCtx_ctxs, tgetD_tset]
  rfl

theorem group_onGroup (tk gid tk' gid' : Nat) (f : Group → Group) :
    (s.onGroup tk gid f).group tk' gid' = if (tk, gid) = (tk', gid') then f (s.group tk gid) else s.group tk' gid' := by
  unfold State.group
  rw [State.onGroup_groups, tgetD_tset]
  rfl

theorem team_onTeam (tk tk' : Nat) (f : Team → Team) :
    (s.onTeam tk f).team tk' = if tk = tk' then f (s.team tk) else s.team tk' := by
  unfold State.team
  rw [State.onTeam_teams, tgetD_tset]
  rfl

@[simp] theorem ctx_onThread (r : ThreadRef) (f : Thread → Thread) (p : Party) : (s.onThread r f).ctx p = s.ctx p := rfl
@[simp] theorem group_onThread (r : ThreadRef) (f : Thread → Thread) (tk gid : Nat) :
    (s.onThread r f).group tk gid = s.group tk gid := rfl
@[simp] theorem team_onThread (r : ThreadRef) (f : Thread → Thread) (tk : Nat) : (s.onThread r f).team tk = s.team tk := rfl
@[simp] theorem thread_onCtx (p : Party) (f : Ctx → Ctx) (r : ThreadRef) : (s.onCtx p f).thread r = s.thread r := rfl
@[simp] theorem group_onCtx (p : Party) (f : Ctx → Ctx) (tk gid : Nat) : (s.onCtx p f).group tk gid = s.group tk gid := rfl
@[simp] theorem team_onCtx (p : Party) (f : Ctx → Ctx) (tk : Nat) : (s.onCtx p f).team tk = s.team tk := rfl
@[simp] theorem thread_onGroup (tk gid : Nat) (f : Group → Group) (r : ThreadRef) :
    (s.onGroup tk gid f).thread r = s.thread r := rfl
@[simp] theorem ctx_onGroup (tk gid : Nat) (f : Group → Group) (p : Party) : (s.onGroup tk gid f).ctx p = s.ctx p := rfl
@[simp] theorem team_onGroup (tk gid : Nat) (f : Group → Group) (k : Nat) : (s.onGroup tk gid f).team k = s.team k := rfl
@[simp] theorem thread_onTeam (tk : Nat) (f : Team → Team) (r : ThreadRef) : (s.onTeam tk f).thread r = s.thread r := rfl
@[simp] theorem ctx_onTeam (tk : Nat) (f : Team → Team) (p : Party) : (s.onTeam tk f).ctx p = s.ctx p := rfl
@[simp] theorem group_onTeam (tk : Nat) (f : Team → Team) (k gid : Nat) : (s.onTeam tk f).group k gid = s.group k gid := rfl

/-! ### Lanes -/

/-- The threads of `onceEach` are none of those seen, and stand once each. -/
theorem onceEach_nodup : ∀ (ls : List Lane) (seen : List ThreadRef),
    ((onceEach seen ls).map (·.ref)).Nodup ∧ ∀ r ∈ (onceEach seen ls).map (·.ref), r ∉ seen
  | [], _ => by simp [onceEach]
  | l :: ls, seen => by
    by_cases h : seen.contains l.ref = true
    · rw [onceEach, if_pos h]; exact onceEach_nodup ls seen
    · rw [onceEach, if_neg h]
      have ih := onceEach_nodup ls (l.ref :: seen)
      have hn : l.ref ∉ seen := by simpa using h
      simp only [List.map_cons, List.nodup_cons, List.mem_cons]
      refine ⟨⟨fun hm => (ih.2 _ hm) (by simp), ih.1⟩, ?_⟩
      rintro r (rfl | hr)
      · exact hn
      · exact fun hs => ih.2 r hr (by simp [hs])

/-- A gang's lanes are different threads. -/
theorem lanes_nodup (p : Party) : ((s.lanes p).map (·.ref)).Nodup := (onceEach_nodup _ []).1

/-- The active lanes are different threads. -/
theorem active_nodup (p : Party) (g : PredIx) : ((s.active p g).map (·.ref)).Nodup :=
  (lanes_nodup s p).sublist (List.Sublist.map _ List.filter_sublist)

/-- Every active lane runs. -/
theorem active_subset (p : Party) (g : PredIx) : ∀ l ∈ s.active p g, l ∈ s.lanes p := fun _ h => (List.mem_filter.mp h).1

/-- A fold that updates the thread of each lane: each thread is updated once, by its own update. -/
theorem forEach_onThread {β : Type} (ref : β → ThreadRef) (g : β → Thread → Thread) :
    ∀ (xs : List β) (s : State), (xs.map ref).Nodup → ∀ r,
      (forEach xs s fun x s => s.onThread (ref x) (g x)).thread r
        = match xs.find? fun x => decide (ref x = r) with
          | some x => g x (s.thread r)
          | none => s.thread r
  | [], _, _, _ => rfl
  | x :: xs, s, hn, r => by
    have hn' := List.nodup_cons.mp (by simpa using hn : (ref x :: xs.map ref).Nodup)
    have ih := forEach_onThread ref g xs (s.onThread (ref x) (g x)) hn'.2 r
    have e : forEach (x :: xs) s (fun x s => s.onThread (ref x) (g x))
        = forEach xs (s.onThread (ref x) (g x)) fun x s => s.onThread (ref x) (g x) := rfl
    rw [e, ih, thread_onThread]
    by_cases h : ref x = r
    · subst h
      have hf : xs.find? (fun y => decide (ref y = ref x)) = none := by
        rw [List.find?_eq_none]
        intro y hy he
        exact hn'.1 (by rw [← of_decide_eq_true he]; exact List.mem_map_of_mem hy)
      simp [List.find?, hf]
    · simp [List.find?, h]

/-- The same where the update depends on the thread's name alone. -/
theorem forEach_refs (g : ThreadRef → Thread → Thread) (ls : List Lane) (s : State) (hn : (ls.map (·.ref)).Nodup)
    (r : ThreadRef) :
    (forEach ls s fun l s => s.onThread l.ref (g l.ref)).thread r
      = if r ∈ ls.map (·.ref) then g r (s.thread r) else s.thread r := by
  rw [forEach_onThread (fun l : Lane => l.ref) (fun l => g l.ref) ls s hn r]
  cases h : ls.find? fun l => decide (l.ref = r) with
  | none =>
    rw [List.find?_eq_none] at h
    have : r ∉ ls.map (·.ref) := by
      rintro hm
      obtain ⟨l, hl, rfl⟩ := List.mem_map.mp hm
      exact h l hl (by simp)
    simp [this]
  | some l =>
    have h1 : l.ref = r := by simpa using List.find?_some h
    have h2 : r ∈ ls.map (·.ref) := h1 ▸ List.mem_map_of_mem (List.mem_of_find?_eq_some h)
    simp [h2, h1]

/-- A fold that updates threads leaves the rest of the machine. -/
theorem forEach_onThread_rest {β : Type} (ref : β → ThreadRef) (g : β → Thread → Thread) (xs : List β) (s : State) :
    { forEach xs s (fun x s => s.onThread (ref x) (g x)) with threads := s.threads } = s :=
  forEach_keeps (fun t => { t with threads := s.threads } = s) _ (fun x t h => by
    rw [← h]; rfl) xs s rfl

/-- A field that no thread's update changes. -/
theorem forEach_onThread_field {β γ : Type} (fld : State → γ) (hf : ∀ (s : State) (r : ThreadRef) (f : Thread → Thread),
    fld (s.onThread r f) = fld s) (ref : β → ThreadRef) (g : β → Thread → Thread) (xs : List β) (s : State) :
    fld (forEach xs s fun x s => s.onThread (ref x) (g x)) = fld s :=
  forEach_same fld (fun x s => s.onThread (ref x) (g x)) (fun _ s => hf s _ _) xs s

/-! ### Gangs -/

/-- `upto` counts every number below its bound once, ascending. -/
theorem mem_upto (n i : Nat) : i ∈ upto n ↔ i < n := by
  induction n with
  | zero => simp [upto]
  | succ n ih => simp [upto, ih]; omega

theorem upto_nodup (n : Nat) : (upto n).Nodup := by
  induction n with
  | zero => simp [upto]
  | succ n ih =>
    rw [upto, List.nodup_append]
    refine ⟨ih, by simp, ?_⟩
    intro a ha b hb e
    simp at hb
    have := (mem_upto n a).mp ha
    omega

/-- The contexts of a gang are different. -/
theorem gang_nodup (p : Party) : (s.gang p).Nodup := by
  cases p with
  | gang tk gid q =>
    exact List.pairwise_map.mpr (((upto_nodup _).filter _).imp fun h e => h (by injection e))
  | _ => simp [State.gang]

/-- A fold that updates the contexts of a gang: each of them once. -/
theorem forEach_onCtx (f : Ctx → Ctx) : ∀ (ps : List Party) (s : State), ps.Nodup → ∀ p,
    (forEach ps s fun q s => s.onCtx q f).ctx p = if p ∈ ps then f (s.ctx p) else s.ctx p
  | [], _, _, _ => by simp [forEach]
  | q :: ps, s, hn, p => by
    have hn' := List.nodup_cons.mp hn
    have e : forEach (q :: ps) s (fun q s => s.onCtx q f) = forEach ps (s.onCtx q f) fun q s => s.onCtx q f := rfl
    rw [e, forEach_onCtx f ps _ hn'.2 p, ctx_onCtx]
    by_cases h : q = p
    · subst h; simp [hn'.1]
    · have : p ≠ q := fun e => h e.symm
      simp [h, this]

/-- The contexts of a gang updated: its own, and no other. -/
theorem ctx_onGang (p p' : Party) (f : Ctx → Ctx) :
    (s.onGang p f).ctx p' = if p' ∈ s.gang p then f (s.ctx p') else s.ctx p' :=
  forEach_onCtx f _ s (gang_nodup s p) p'

/-- Updating the contexts of a gang leaves everything else. -/
theorem onGang_rest (p : Party) (f : Ctx → Ctx) : { s.onGang p f with ctxs := s.ctxs } = s :=
  forEach_keeps (fun t => { t with ctxs := s.ctxs } = s) _ (fun x t h => by rw [← h]; rfl) _ s rfl

/-- States with the same contexts and group widths have the same gangs. -/
theorem gang_congr {s t : State} (p : Party) (hc : ∀ q, t.ctx q = s.ctx q)
    (hw : ∀ tk gid, (t.group tk gid).width = (s.group tk gid).width) : t.gang p = s.gang p := by
  cases p with
  | gang tk gid q => simp only [State.gang, State.inGang, Group.quads, hc, hw]
  | _ => rfl

end Sys2Proof.Machine
end

