-- ==== Sys2Proof/Laws/Issue.lean ====
section
/-! SUPPORT. What the issue of an instruction does: the checks passed, the retirement, the pops, and the spec lemma of
`State.perform`, on which every result instruction rests. -/
namespace Sys2Proof.Machine

/-! ### What stays -/

theorem SameBesides.refl (s : State) : SameBesides s s := rfl

theorem SameBesides.trans {s t u : State} (h : SameBesides s t) (k : SameBesides t u) : SameBesides s u := by
  unfold SameBesides at *
  have := congrArg (fun x : State => { x with threads := s.threads, ctxs := s.ctxs, groups := s.groups, teams := s.teams }) k
  exact this.trans h

theorem SameBesides.eq {s t : State} (h : SameBesides s t) :
    t = { s with threads := t.threads, ctxs := t.ctxs, groups := t.groups, teams := t.teams } := by
  unfold SameBesides at h
  exact (congrArg (fun x : State =>
    { x with threads := t.threads, ctxs := t.ctxs, groups := t.groups, teams := t.teams }) h)

theorem SameBesides.cur {s t : State} (h : SameBesides s t) : t.cur = s.cur := by rw [h.eq]
theorem SameBesides.mem {s t : State} (h : SameBesides s t) : t.mem = s.mem := by rw [h.eq]
theorem SameBesides.time {s t : State} (h : SameBesides s t) : t.time = s.time := by rw [h.eq]
theorem SameBesides.helpers {s t : State} (h : SameBesides s t) : t.helpers = s.helpers := by rw [h.eq]

theorem sameBesides_onThread (s : State) (r : ThreadRef) (f : Thread → Thread) : SameBesides s (s.onThread r f) := rfl
theorem sameBesides_onCtx (s : State) (p : Party) (f : Ctx → Ctx) : SameBesides s (s.onCtx p f) := rfl
theorem sameBesides_onGroup (s : State) (tk gid : Nat) (f : Group → Group) : SameBesides s (s.onGroup tk gid f) := rfl
theorem sameBesides_onTeam (s : State) (tk : Nat) (f : Team → Team) : SameBesides s (s.onTeam tk f) := rfl

theorem sameBesides_forEach {α : Type} (f : α → State → State) (hf : ∀ x s, SameBesides s (f x s)) (xs : List α) (s : State) :
    SameBesides s (forEach xs s f) :=
  forEach_keeps (fun t => SameBesides s t) f (fun x t h => h.trans (hf x t)) xs s (SameBesides.refl s)

theorem sameBesides_onGang (s : State) (p : Party) (f : Ctx → Ctx) : SameBesides s (s.onGang p f) :=
  sameBesides_forEach _ (fun q s => sameBesides_onCtx s q f) _ s

/-- Updating a gang's contexts changes the table of contexts alone. -/
theorem onGang_eq (s : State) (p : Party) (f : Ctx → Ctx) : s.onGang p f = { s with ctxs := (s.onGang p f).ctxs } := by
  have h := congrArg (fun x : State => { x with ctxs := (s.onGang p f).ctxs }) (onGang_rest s p f)
  exact h

/-! ### The guard note -/

theorem noteGuard_eq (s : State) (g : PredIx) : s.noteGuard g = { s with ctxs := (s.noteGuard g).ctxs } := by
  unfold State.noteGuard
  split
  · rfl
  · exact onGang_eq s _ _

theorem ctx_noteGuard (s : State) (g : PredIx) (p : Party) :
    ∃ g', (s.noteGuard g).ctx p = { s.ctx p with guard := g' } := by
  unfold State.noteGuard
  split
  · exact ⟨(s.ctx p).guard, rfl⟩
  · rw [ctx_onGang]
    split
    · exact ⟨g, rfl⟩
    · exact ⟨(s.ctx p).guard, rfl⟩

theorem ctx_noteGuard_retired (s : State) (g : PredIx) (p : Party) (n : Nat) :
    ((s.noteGuard g).ctx p).retired n = (s.ctx p).retired n := by
  obtain ⟨g', h⟩ := ctx_noteGuard s g p
  rw [h]
  rfl

theorem ctx_noteGuard_other (s : State) (g : PredIx) (p : Party) (h : p ∉ s.gang s.cur) :
    (s.noteGuard g).ctx p = s.ctx p := by
  unfold State.noteGuard
  split
  · rfl
  · rw [ctx_onGang, if_neg h]

/-- The guard a context holds does not matter to its gang. -/
theorem gang_guard {s t : State} (p : Party) (hc : ∀ q, ∃ g, t.ctx q = { s.ctx q with guard := g })
    (hw : ∀ tk gid, (t.group tk gid).width = (s.group tk gid).width) : t.gang p = s.gang p := by
  cases p with
  | gang tk gid q =>
    have hi : ∀ q', t.inGang (.gang tk gid q) tk gid q' = s.inGang (.gang tk gid q) tk gid q' := by
      intro q'
      obtain ⟨g1, h1⟩ := hc (.gang tk gid q')
      obtain ⟨g2, h2⟩ := hc (.gang tk gid q)
      simp only [State.inGang, h1, h2]
      rfl
    simp only [State.gang, Group.quads, hi, hw]
  | _ => rfl

theorem gang_noteGuard (s : State) (g : PredIx) (p : Party) : (s.noteGuard g).gang p = s.gang p :=
  gang_guard p (ctx_noteGuard s g) fun tk gid => by rw [noteGuard_eq]; rfl

/-! ### Sources do not depend on the contexts -/

theorem sources_ctxs (s : State) (c : Table Party Ctx) (st : Stream) (r : ThreadRef) :
    ∀ (os : List Operand) (p : List (BitVec 5)), State.sources { s with ctxs := c } st r os p = State.sources s st r os p
  | [], _ => rfl
  | o :: os, p => by
    have h : State.source { s with ctxs := c } st r o p = s.source st r o p := rfl
    simp only [State.sources, h, sources_ctxs s c st r os]

theorem sourcesReady_ctxs (s : State) (c : Table Party Ctx) (st : Stream) (r : ThreadRef) (w : Chan → Bool) :
    ∀ (os : List Operand) (p : List (BitVec 5)),
      State.sourcesReady { s with ctxs := c } st r w os p = State.sourcesReady s st r w os p
  | [], _ => rfl
  | o :: os, p => by
    have h : ∀ c', State.entries { s with ctxs := c } r c' = s.entries r c' := fun _ => rfl
    simp only [State.sourcesReady, h, sourcesReady_ctxs s c st r w os]

theorem shortLanes_ctxs (s : State) (c : Table Party Ctx) (st : Stream) (f : Form) (act : List Lane) (w : Chan → Bool) :
    State.shortLanes { s with ctxs := c } st f act w = s.shortLanes st f act w := by
  simp only [State.shortLanes, sourcesReady_ctxs]

/-- Sources that are all ready are ready in each kind. -/
theorem sourcesReady_weaken (s : State) (st : Stream) (r : ThreadRef) (w : Chan → Bool) :
    ∀ (os : List Operand) (p : List (BitVec 5)), s.sourcesReady st r (fun _ => true) os p = true →
      s.sourcesReady st r w os p = true
  | [], _, _ => rfl
  | o :: os, p, h => by
    simp only [State.sourcesReady, Bool.and_eq_true] at h ⊢
    refine ⟨?_, sourcesReady_weaken s st r w os _ h.2⟩
    have h1 := h.1
    cases hc : chanOf st o.src.ix with
    | none => rfl
    | some c =>
      rw [hc] at h1
      simp only [Bool.or_eq_true, Bool.not_eq_true', Bool.and_eq_false_iff, decide_eq_true_eq] at h1 ⊢
      rcases h1 with (h1 | h1) | h1
      · exact Or.inl (Or.inl h1)
      · exact absurd h1 (by simp)
      · exact Or.inr h1

theorem shortLanes_weaken (s : State) (st : Stream) (f : Form) (act : List Lane) (w : Chan → Bool)
    (h : s.shortLanes st f act (fun _ => true) = []) : s.shortLanes st f act w = [] := by
  simp only [State.shortLanes, List.filter_eq_nil_iff] at h ⊢
  intro l hl hn
  have := h l hl
  simp only [Bool.not_eq_true', Bool.not_eq_false] at this hn
  rw [sourcesReady_weaken s st l.ref w _ _ this] at hn
  exact absurd hn (by simp)

/-! ### Issue -/

/-- With its checks passed, an instruction's body runs on its active lanes. -/
theorem Issues.run {s : State} {f : Form} {act : List Lane} (h : Issues s f act) (body : List Lane → State → State) :
    s.issue f body = .next (body act (s.noteGuard (f.guard s.cctx.run))) := by
  unfold State.issue
  simp only [h.lanes, h.some_, if_false]
  congr 1
  have hrun : (s.noteGuard (f.guard s.cctx.run)).cctx.run = s.cctx.run := by
    unfold State.cctx
    have hc : (s.noteGuard (f.guard (s.ctx s.cur).run)).cur = s.cur := by rw [noteGuard_eq]
    rw [hc]
    obtain ⟨g', e⟩ := ctx_noteGuard s (f.guard s.cctx.run) s.cur
    unfold State.cctx at e
    rw [e]
  have hcur : (s.noteGuard (f.guard s.cctx.run)).cur = s.cur := by rw [noteGuard_eq]
  have hs : ∀ w, (s.noteGuard (f.guard s.cctx.run)).shortLanes (streamOf s.cur) f act w = s.shortLanes (streamOf s.cur) f act w := by
    intro w
    rw [noteGuard_eq, shortLanes_ctxs]
  have hq : (s.noteGuard (f.guard s.cctx.run)).queuesShut (streamOf s.cur) f = false := by
    have h' := h.shut
    rw [noteGuard_eq]
    exact h'
  unfold State.checked
  simp only [hrun, hcur, hs, h.stream, h.enc, h.hints, h.open_, h.operands, h.entries, shortLanes_weaken s _ f act _ h.entries]
  have hm : (f.priv && decide (streamOf s.cur ≠ .service)) = false := by
    cases hp : f.priv
    · rfl
    · simp [h.mode hp]
  have hh : (f.helperBad && decide (streamOf s.cur = .helper)) = false := by
    cases hp : f.helperBad
    · rfl
    · simp [h.helper hp]
  simp only [hm, hh, hq]
  simp

/-- An instruction with no active lane retires (R29). -/
theorem issue_none (s : State) (f : Form) (body : List Lane → State → State)
    (h : s.active s.cur (f.guard s.cctx.run) = []) : s.issue f body = .next s.retire := by
  simp [State.issue, h]

/-! ### Retiring -/

/-- Nothing but bookkeeping changes in a thread. -/
def Thread.counted (t : Thread) : Thread := { t with count := t.count + 1 }

theorem noteIssue_sameBesides (s : State) (p : Party) : SameBesides s (s.noteIssue p) := by
  unfold State.noteIssue
  cases p <;> rfl

theorem retire_sameBesides (s : State) : SameBesides s s.retire := by
  unfold State.retire
  exact ((sameBesides_forEach _ (fun l s => sameBesides_onThread s _ _) _ s).trans (noteIssue_sameBesides _ _)).trans
    (sameBesides_onGang _ _ _)

/-- The threads counted: contexts, groups and teams stay. -/
theorem counted_rest (s : State) (ls : List Lane) (f : Thread → Thread) :
    forEach ls s (fun l s => s.onThread l.ref f) = { s with threads := (forEach ls s fun l s => s.onThread l.ref f).threads } := by
  have h := forEach_onThread_rest (fun l : Lane => l.ref) (fun _ => f) ls s
  have := congrArg (fun x : State => { x with threads := (forEach ls s fun l s => s.onThread l.ref f).threads }) h
  exact this

theorem thread_noteIssue (s : State) (p : Party) (r : ThreadRef) : (s.noteIssue p).thread r = s.thread r := by
  unfold State.noteIssue; cases p <;> rfl

theorem ctx_noteIssue (s : State) (p q : Party) : (s.noteIssue p).ctx q = s.ctx q := by
  unfold State.noteIssue; cases p <;> rfl

theorem thread_retire (s : State) (r : ThreadRef) :
    s.retire.thread r = if r ∈ (s.lanes s.cur).map (·.ref) then { s.thread r with count := (s.thread r).count + 1 } else s.thread r := by
  unfold State.retire
  rw [onGang_eq]
  refine Eq.trans (thread_noteIssue _ _ r) ?_
  exact forEach_refs (fun _ t => { t with count := t.count + 1 }) (s.lanes s.cur) s (lanes_nodup s s.cur) r

theorem ctx_retire (s : State) (p : Party) :
    s.retire.ctx p = if p ∈ s.gang s.cur then (s.ctx p).retired s.time.toNat else s.ctx p := by
  unfold State.retire
  simp only
  rw [counted_rest s (s.lanes s.cur)]
  generalize (forEach (s.lanes s.cur) s fun l s => s.onThread l.ref fun t => { t with count := t.count + 1 }).threads = T
  rw [ctx_onGang]
  have hg : (State.noteIssue { s with threads := T } s.cur).gang s.cur = s.gang s.cur := by
    apply gang_congr
    · intro q; rw [ctx_noteIssue]; rfl
    · intro tk gid
      unfold State.noteIssue
      cases s.cur with
      | gang a b c =>
        rw [group_onGroup]
        by_cases h : (a, b) = (tk, gid)
        · injection h with h1 h2; subst h1; subst h2; simp; rfl
        · rw [if_neg h]; rfl
      | _ => rfl
  rw [hg, ctx_noteIssue]
  have ht : (State.noteIssue { s with threads := T } s.cur).time = s.time := by
    rw [(noteIssue_sameBesides _ _).time]
  rfl

theorem group_retire (s : State) (tk gid : Nat) :
    s.retire.group tk gid = match s.cur with
      | .gang k g _ => if (k, g) = (tk, gid) then
          { s.group k g with wdog := 0, tagTimer := if s.tagOver s.cur then 0 else (s.group k g).tagTimer, saved := none }
        else s.group tk gid
      | _ => s.group tk gid := by
  unfold State.retire
  rw [onGang_eq]
  simp only
  rw [counted_rest s (s.lanes s.cur)]
  generalize (forEach (s.lanes s.cur) s fun l s => s.onThread l.ref fun t => { t with count := t.count + 1 }).threads = T
  show (State.noteIssue { s with threads := T } s.cur).group tk gid = _
  unfold State.noteIssue
  cases hc : s.cur with
  | gang k g q =>
    simp only [group_onGroup]
    rfl
  | _ => rfl

theorem team_retire (s : State) (tk : Nat) :
    s.retire.team tk = match s.cur with
      | .headland k => if k = tk then
          { s.team k with hWdog := 0, hTagTimer := 0 }
        else s.team tk
      | _ => s.team tk := by
  unfold State.retire
  rw [onGang_eq]
  simp only
  rw [counted_rest s (s.lanes s.cur)]
  generalize (forEach (s.lanes s.cur) s fun l s => s.onThread l.ref fun t => { t with count := t.count + 1 }).threads = T
  show (State.noteIssue { s with threads := T } s.cur).team tk = _
  unfold State.noteIssue
  cases hc : s.cur with
  | headland k => simp only [team_onTeam]; rfl
  | _ => rfl

theorem teams_retire (s : State) (h : ∀ tk, s.cur ≠ .headland tk) : s.retire.teams = s.teams := by
  unfold State.retire
  rw [onGang_eq]
  simp only
  rw [counted_rest s (s.lanes s.cur)]
  generalize (forEach (s.lanes s.cur) s fun l s => s.onThread l.ref fun t => { t with count := t.count + 1 }).threads = T
  show (State.noteIssue { s with threads := T } s.cur).teams = _
  unfold State.noteIssue
  cases hc : s.cur with
  | headland k => exact absurd hc (h k)
  | _ => rfl

end Sys2Proof.Machine
end

