-- ==== Sys2Proof/Laws/Results.lean ====
section
/-! SUPPORT. The spec lemma of result instructions: what `State.commit`, and with it `State.perform`, delivers. -/
namespace Sys2Proof.Machine

/-! ### Slots -/

theorem word_setWord (t : Thread) (w i : Nat) (v : Word) : (t.setWord w v).word i = if w = i then v else t.word i := by
  unfold Thread.word Thread.setWord
  rw [tgetD_tset]

theorem word_writeSlot (t : Thread) (w i : Nat) (v : Word) : (t.writeSlot w v).word i = if w = i then v else t.word i :=
  word_setWord t w i v

/-- A thread whose registers alone, their log and the marks of their errors differ. -/
theorem setWord_eq (t : Thread) (w : Nat) (v : Word) :
    t.setWord w v = { t with regs := (t.setWord w v).regs, log := (t.setWord w v).log, bad := (t.setWord w v).bad
                             dirty := (t.setWord w v).dirty } := rfl

theorem setSlot_eq (r : ThreadRef) (w : Bool) (i : Nat) (v : DWord) (t : Thread) :
    setSlot r w i v t =
      { t with regs := (setSlot r w i v t).regs, log := (setSlot r w i v t).log, bad := (setSlot r w i v t).bad
               dirty := (setSlot r w i v t).dirty } := by
  unfold setSlot setSlot64 setSlot32
  cases w <;> cases r <;> rfl

/-- The two halves of a value together. -/
theorem halves (v : DWord) : v.extractLsb' 32 32 ++ v.extractLsb' 0 32 = v := by
  apply BitVec.eq_of_getLsbD_eq
  intro i hi
  rw [BitVec.getLsbD_append]
  by_cases h : i < 32
  · simp [h]
  · have : i - 32 < 32 := by omega
    have e : 32 + (i - 32) = i := by omega
    simp [h, this, e]

/-- A half with nothing above it. -/
theorem low_half (x : Word) : (0 : Word) ++ x = x.zeroExtend 64 := by
  apply BitVec.eq_of_getLsbD_eq
  intro i hi
  rw [BitVec.getLsbD_append]
  by_cases h : i < 32
  · simp [h, hi]
  · have : x.getLsbD i = false := BitVec.getLsbD_of_ge x i (by omega)
    simp [h, this]

/-- The words of a slot and of the one above it are different. -/
theorem slotWord_succ (r : ThreadRef) (t : Thread) (i : Nat) : slotWord r t i ≠ slotWord r t (i + 1) := by
  unfold slotWord
  cases r with
  | headland tk => simp only; omega
  | helper c f => simp only; omega
  | _ =>
    simp only
    by_cases h : i < 28
    · by_cases h2 : i + 1 < 28
      · rw [if_pos h, if_pos h2]; omega
      · rw [if_pos h, if_neg h2]; omega
    · have h2 : ¬ i + 1 < 28 := by omega
      rw [if_neg h, if_neg h2]; omega

theorem slotWord_setWord (r : ThreadRef) (t : Thread) (w : Nat) (v : Word) (i : Nat) :
    slotWord r (t.setWord w v) i = slotWord r t i := by cases r <;> rfl

theorem slotWord_writeSlot (r : ThreadRef) (t : Thread) (w : Nat) (v : Word) (i : Nat) :
    slotWord r (t.writeSlot w v) i = slotWord r t i := by cases r <;> rfl

theorem slot32_at (r : ThreadRef) (t : Thread) (w i : Nat) (v : Word) :
    slot32 r (t.setWord w v) i = if w = slotWord r t i then v else slot32 r t i := by
  unfold slot32
  rw [word_setWord, slotWord_setWord]

theorem slot32_writeSlot (r : ThreadRef) (t : Thread) (w i : Nat) (v : Word) :
    slot32 r (t.writeSlot w v) i = if w = slotWord r t i then v else slot32 r t i := by
  unfold slot32
  rw [word_writeSlot, slotWord_writeSlot]

/-- A destination reads back as the result. -/
theorem destValue_setSlot (r : ThreadRef) (w : Bool) (d : Dest) (v : DWord) (t : Thread) :
    destValue r (setSlot r w d.ix.toNat v t) d w = resultOf w v := by
  have hne : ∀ r, slotWord r t (d.ix.toNat + 1) ≠ slotWord r t d.ix.toNat := fun r => (slotWord_succ r t _).symm
  cases r with
  | headland tk =>
    cases w
    · have h : 2 * d.ix.toNat + 1 ≠ 2 * d.ix.toNat := by omega
      simp only [destValue, slot64, setSlot, setSlot32, resultOf, word_setWord, if_true, if_neg h, Bool.false_eq_true, if_false]
      exact low_half _
    · have h : 2 * d.ix.toNat + 1 ≠ 2 * d.ix.toNat := by omega
      simp only [destValue, slot64, setSlot, setSlot64, resultOf, word_setWord, if_true, if_neg h]
      exact halves v
  | _ =>
    cases w
    · simp [destValue, setSlot, setSlot32, resultOf, slot32_at, slot32_writeSlot]
    · simp only [destValue, setSlot, setSlot64, resultOf, slot64, slot32_at, slotWord_setWord, slot32_writeSlot,
        slotWord_writeSlot, if_true, if_neg (hne _)]
      exact halves v

/-- A word outside the destination stays. -/
theorem word_setSlot (r : ThreadRef) (w : Bool) (d : Dest) (v : DWord) (t : Thread) (i : Nat) (hc : d.cls = false)
    (h : i ∉ destWords r t d w) : (setSlot r w d.ix.toNat v t).word i = t.word i := by
  unfold destWords at h
  rw [hc] at h
  cases r with
  | headland tk =>
    simp at h
    have h1 := Ne.symm h.1
    have h2 := Ne.symm h.2
    cases w
    · simp only [setSlot, setSlot32, word_setWord, if_neg h1, if_neg h2, Bool.false_eq_true, if_false]
    · simp only [setSlot, setSlot64, word_setWord, if_neg h1, if_neg h2, if_true]
  | _ =>
    cases w
    · simp at h
      have h1 := Ne.symm h
      simp only [setSlot, setSlot32, word_setWord, word_writeSlot, if_neg h1, Bool.false_eq_true, if_false]
    · simp at h
      have h1 := Ne.symm h.1
      have h2 := Ne.symm h.2
      simp only [setSlot, setSlot64, word_setWord, word_writeSlot, if_neg h1, if_neg h2, if_true]

/-! ### Pops -/

/-- One pop of an instruction. -/
def State.popOne (s : State) (st : Stream) (act : List Lane) (ix : BitVec 5) : State :=
  match chanOf st ix, s.cur with
  | some (.q n), .gang tk gid _ => s.onGroup tk gid fun g => { g with queues := dropQ n 1 g.queues }
  | some (.hq n), .headland tk => s.onTeam tk fun t => { t with push := dropQ n 1 t.push }
  | some (.g n), _ => forEach act s fun l s => s.onThread l.ref fun t => { t with streams := dropQ n 1 t.streams }
  | some .hr, _ => forEach act s fun l s => s.onThread l.ref fun t => { t with hr := t.hr.drop 1 }
  | _, _ => s

theorem popAll_cons (s : State) (st : Stream) (act : List Lane) (ix : BitVec 5) (ixs : List (BitVec 5)) :
    s.popAll st act (ix :: ixs) = (s.popOne st act ix).popAll st act ixs := rfl

/-- What one pop does in a thread. -/
def popThread (st : Stream) (t : Thread) (ix : BitVec 5) : Thread :=
  match chanOf st ix with
  | some (.g n) => { t with streams := dropQ n 1 t.streams }
  | some .hr => { t with hr := t.hr.drop 1 }
  | _ => t

/-- What one pop does in a group's queue copies. -/
def popGroup (st : Stream) (qs : Table Nat (List Word)) (ix : BitVec 5) : Table Nat (List Word) :=
  match chanOf st ix with
  | some (.q n) => dropQ n 1 qs
  | _ => qs

/-- What one pop does in a headland's push ports. -/
def popPush (st : Stream) (qs : Table Nat (List (Word × Nat))) (ix : BitVec 5) : Table Nat (List (Word × Nat)) :=
  match chanOf st ix with
  | some (.hq n) => dropQ n 1 qs
  | _ => qs

theorem popOne_besides (s : State) (st : Stream) (act : List Lane) (ix : BitVec 5) : SameBesides s (s.popOne st act ix) := by
  unfold State.popOne
  split
  · exact sameBesides_onGroup _ _ _ _
  · exact sameBesides_onTeam _ _ _
  · exact sameBesides_forEach _ (fun l s => sameBesides_onThread s _ _) _ s
  · exact sameBesides_forEach _ (fun l s => sameBesides_onThread s _ _) _ s
  · exact SameBesides.refl s

theorem popOne_ctxs (s : State) (st : Stream) (act : List Lane) (ix : BitVec 5) : (s.popOne st act ix).ctxs = s.ctxs := by
  unfold State.popOne
  split
  · rfl
  · rfl
  · rw [counted_rest]
  · rw [counted_rest]
  · rfl

theorem popOne_thread (s : State) (st : Stream) (act : List Lane) (ix : BitVec 5) (hn : (act.map (·.ref)).Nodup)
    (r : ThreadRef) :
    (s.popOne st act ix).thread r = if r ∈ act.map (·.ref) then popThread st (s.thread r) ix else s.thread r := by
  unfold State.popOne popThread
  cases hc : chanOf st ix with
  | none => simp
  | some c =>
    cases c with
    | g n => exact forEach_refs (fun _ t => { t with streams := dropQ n 1 t.streams }) act s hn r
    | hr => exact forEach_refs (fun _ t => { t with hr := t.hr.drop 1 }) act s hn r
    | q n => cases hs : s.cur <;> simp
    | hq n => cases hs : s.cur <;> simp
    | _ => simp

theorem popOne_group (s : State) (st : Stream) (act : List Lane) (ix : BitVec 5) (tk gid : Nat) :
    (s.popOne st act ix).group tk gid = match s.cur with
      | .gang k g _ => if (k, g) = (tk, gid) then
          { s.group k g with queues := popGroup st (s.group k g).queues ix } else s.group tk gid
      | _ => s.group tk gid := by
  have same : ∀ x : Group, s.group tk gid = x → (∀ k g, (k, g) = (tk, gid) → s.group k g = x) := by
    rintro x hx k g e; injection e with e1 e2; rw [e1, e2, hx]
  unfold State.popOne popGroup
  cases hc : chanOf st ix with
  | none =>
    cases hs : s.cur with
    | gang k g q => simp only; split <;> rename_i e; exact (same _ rfl k g e).symm; rfl
    | _ => rfl
  | some c =>
    cases c with
    | q n =>
      cases hs : s.cur with
      | gang k g q => simp only; rw [group_onGroup]
      | _ => rfl
    | g n =>
      simp only; rw [counted_rest]
      cases hs : s.cur with
      | gang k g q => simp only; split <;> rename_i e; exact (same _ rfl k g e).symm; rfl
      | _ => rfl
    | hr =>
      simp only; rw [counted_rest]
      cases hs : s.cur with
      | gang k g q => simp only; split <;> rename_i e; exact (same _ rfl k g e).symm; rfl
      | _ => rfl
    | _ =>
      cases hs : s.cur with
      | gang k g q => simp only; split <;> rename_i e; exact (same _ rfl k g e).symm; rfl
      | _ => rfl

theorem popOne_team (s : State) (st : Stream) (act : List Lane) (ix : BitVec 5) (tk : Nat) :
    (s.popOne st act ix).team tk = match s.cur with
      | .headland k => if k = tk then { s.team k with push := popPush st (s.team k).push ix } else s.team tk
      | _ => s.team tk := by
  have same : ∀ k, k = tk → s.team k = s.team tk := by rintro k rfl; rfl
  unfold State.popOne popPush
  cases hc : chanOf st ix with
  | none =>
    cases hs : s.cur with
    | headland k => simp only; split <;> rename_i e; exact (same k e).symm; rfl
    | _ => rfl
  | some c =>
    cases c with
    | hq n =>
      cases hs : s.cur with
      | headland k => simp only; rw [team_onTeam]
      | _ => rfl
    | g n =>
      simp only; rw [counted_rest]
      cases hs : s.cur with
      | headland k => simp only; split <;> rename_i e; exact (same k e).symm; rfl
      | _ => rfl
    | hr =>
      simp only; rw [counted_rest]
      cases hs : s.cur with
      | headland k => simp only; split <;> rename_i e; exact (same k e).symm; rfl
      | _ => rfl
    | _ =>
      cases hs : s.cur with
      | headland k => simp only; split <;> rename_i e; exact (same k e).symm; rfl
      | _ => rfl

theorem popOne_teams (s : State) (st : Stream) (act : List Lane) (ix : BitVec 5) (h : ∀ tk, s.cur ≠ .headland tk) :
    (s.popOne st act ix).teams = s.teams := by
  unfold State.popOne
  cases hc : chanOf st ix with
  | none => rfl
  | some c =>
    cases c with
    | g n => simp only; rw [counted_rest]
    | hr => simp only; rw [counted_rest]
    | _ =>
      cases hs : s.cur with
      | headland k => exact absurd hs (h k)
      | _ => rfl

/-! ### All pops of an instruction -/

theorem popAll_besides (st : Stream) (act : List Lane) : ∀ (ixs : List (BitVec 5)) (s : State),
    SameBesides s (s.popAll st act ixs)
  | [], s => SameBesides.refl s
  | ix :: ixs, s => (popOne_besides s st act ix).trans (popAll_besides st act ixs _)

theorem popAll_ctxs (st : Stream) (act : List Lane) : ∀ (ixs : List (BitVec 5)) (s : State),
    (s.popAll st act ixs).ctxs = s.ctxs
  | [], _ => rfl
  | ix :: ixs, s => (popAll_ctxs st act ixs _).trans (popOne_ctxs s st act ix)

theorem popAll_thread (st : Stream) (act : List Lane) (hn : (act.map (·.ref)).Nodup) :
    ∀ (ixs : List (BitVec 5)) (s : State) (r : ThreadRef), (s.popAll st act ixs).thread r
      = if r ∈ act.map (·.ref) then ixs.foldl (popThread st) (s.thread r) else s.thread r
  | [], _, _ => by simp [State.popAll]
  | ix :: ixs, s, r => by
    rw [popAll_cons, popAll_thread st act hn ixs, popOne_thread s st act ix hn]
    by_cases h : r ∈ act.map (·.ref) <;> simp only [h, if_true, if_false, List.foldl]

theorem popAll_group (st : Stream) (act : List Lane) : ∀ (ixs : List (BitVec 5)) (s : State) (tk gid : Nat),
    (s.popAll st act ixs).group tk gid = match s.cur with
      | .gang k g _ => if (k, g) = (tk, gid) then
          { s.group k g with queues := ixs.foldl (popGroup st) (s.group k g).queues } else s.group tk gid
      | _ => s.group tk gid
  | [], s, tk, gid => by
    cases hs : s.cur with
    | gang k g q =>
      simp only [State.popAll, List.foldl]
      split <;> rename_i e
      · injection e with e1 e2; rw [e1, e2]
      · rfl
    | _ => rfl
  | ix :: ixs, s, tk, gid => by
    rw [popAll_cons, popAll_group st act ixs, (popOne_besides s st act ix).cur]
    have h := popOne_group s st act ix
    cases hs : s.cur with
    | gang k g q =>
      simp only [h, hs, if_true, List.foldl]
      split <;> rfl
    | _ => simp only [h, hs]

theorem popAll_team (st : Stream) (act : List Lane) : ∀ (ixs : List (BitVec 5)) (s : State) (tk : Nat),
    (s.popAll st act ixs).team tk = match s.cur with
      | .headland k => if k = tk then { s.team k with push := ixs.foldl (popPush st) (s.team k).push } else s.team tk
      | _ => s.team tk
  | [], s, tk => by
    cases hs : s.cur with
    | headland k =>
      simp only [State.popAll, List.foldl]
      split <;> rename_i e
      · rw [e]
      · rfl
    | _ => rfl
  | ix :: ixs, s, tk => by
    rw [popAll_cons, popAll_team st act ixs, (popOne_besides s st act ix).cur]
    have h := popOne_team s st act ix
    cases hs : s.cur with
    | headland k =>
      simp only [h, hs, if_true, List.foldl]
      split <;> rfl
    | _ => simp only [h, hs]

theorem popAll_teams (st : Stream) (act : List Lane) : ∀ (ixs : List (BitVec 5)) (s : State),
    (∀ tk, s.cur ≠ .headland tk) → (s.popAll st act ixs).teams = s.teams
  | [], _, _ => rfl
  | ix :: ixs, s, h => by
    rw [popAll_cons, popAll_teams st act ixs _ (by rw [(popOne_besides s st act ix).cur]; exact h)]
    exact popOne_teams s st act ix h

/-! ### How many entries a pop takes -/

theorem chan_g : ∀ (ix : BitVec 5) (n : Fin 4), chanOf .compute ix = some (.g n.val) ↔ ix = BitVec.ofNat 5 (4 + n.val) := by
  decide

theorem chan_q : ∀ (ix : BitVec 5) (n : Fin 4), chanOf .compute ix = some (.q n.val) ↔ ix = BitVec.ofNat 5 n.val := by
  decide

theorem chan_hq : ∀ (ix : BitVec 5) (n : Fin 4), chanOf .headland ix = some (.hq n.val) ↔ ix = BitVec.ofNat 5 n.val := by
  decide

theorem chan_hr : ∀ (ix : BitVec 5), chanOf .compute ix = some .hr ↔ ix = 8 := by decide

theorem chan_hr_helper : ∀ (ix : BitVec 5), chanOf .helper ix = some .hr ↔ ix = 8 := by decide

theorem chan_none_g : ∀ (ix : BitVec 5) (n : Nat), chanOf .headland ix ≠ some (.g n) ∧ chanOf .service ix ≠ some (.g n)
    ∧ chanOf .helper ix ≠ some (.g n) ∧ chanOf .headland ix ≠ some .hr ∧ chanOf .service ix ≠ some .hr := by
  intro ix n
  refine ⟨?_, ?_, ?_, ?_, ?_⟩ <;> (simp only [chanOf]; repeat' split) <;> simp

theorem dropQ_get {α : Type} (n k m : Nat) (t : Table Nat (List α)) :
    tgetD m [] (dropQ n k t) = if n = m then (tgetD m [] t).drop k else tgetD m [] t := by
  unfold dropQ
  rw [tgetD_tset]
  by_cases h : n = m
  · subst h; simp
  · simp [h]

/-- Pops touch the streams and the helper results of a thread alone. -/
theorem foldl_popThread (st : Stream) : ∀ (ixs : List (BitVec 5)) (t : Thread),
    ixs.foldl (popThread st) t
      = { t with streams := (ixs.foldl (popThread st) t).streams, hr := (ixs.foldl (popThread st) t).hr }
  | [], _ => rfl
  | ix :: ixs, t => by
    have h : ∀ u : Thread, popThread st u ix = { u with streams := (popThread st u ix).streams, hr := (popThread st u ix).hr } := by
      intro u; unfold popThread; split <;> rfl
    have ih := foldl_popThread st ixs (popThread st t ix)
    simp only [List.foldl]
    generalize ixs.foldl (popThread st) (popThread st t ix) = x at ih ⊢
    rw [ih, h t]

theorem foldl_streams (st : Stream) (n : Nat) (hn : n < 4) : ∀ (ixs : List (BitVec 5)) (t : Thread),
    tgetD n [] (ixs.foldl (popThread st) t).streams
      = (tgetD n [] t.streams).drop (if st = .compute then ixs.count (BitVec.ofNat 5 (4 + n)) else 0)
  | [], t => by simp
  | ix :: ixs, t => by
    simp only [List.foldl]
    rw [foldl_streams st n hn ixs]
    cases st with
    | compute =>
      have hg := chan_g ix ⟨n, hn⟩
      simp only at hg
      simp only [if_true, List.count_cons]
      by_cases e : ix = BitVec.ofNat 5 (4 + n)
      · have h := hg.mpr e
        have : popThread .compute t ix = { t with streams := dropQ n 1 t.streams } := by simp only [popThread, h]
        rw [this, dropQ_get, if_pos rfl, List.drop_drop]
        simp [e, Nat.add_comm]
      · have h : ∀ m, chanOf .compute ix = some (.g m) → m ≠ n := by
          rintro m hm rfl; exact e (hg.mp hm)
        have : tgetD n [] (popThread .compute t ix).streams = tgetD n [] t.streams := by
          unfold popThread
          split
          · rename_i m hm; simp only; rw [dropQ_get, if_neg (h m hm)]
          · rfl
          · rfl
        rw [this]
        simp [e]
    | headland =>
      have : (popThread .headland t ix).streams = t.streams := by
        unfold popThread; split
        · rename_i m hm; exact absurd hm (chan_none_g ix m).1
        · rfl
        · rfl
      rw [this]; simp
    | service =>
      have : (popThread .service t ix).streams = t.streams := by
        unfold popThread; split
        · rename_i m hm; exact absurd hm (chan_none_g ix m).2.1
        · rfl
        · rfl
      rw [this]; simp
    | helper =>
      have : (popThread .helper t ix).streams = t.streams := by
        unfold popThread; split
        · rename_i m hm; exact absurd hm (chan_none_g ix m).2.2.1
        · rfl
        · rfl
      rw [this]; simp

theorem foldl_hr (st : Stream) : ∀ (ixs : List (BitVec 5)) (t : Thread),
    (ixs.foldl (popThread st) t).hr
      = t.hr.drop (if st = .compute ∨ st = .helper then ixs.count 8 else 0)
  | [], t => by simp
  | ix :: ixs, t => by
    simp only [List.foldl]
    rw [foldl_hr st ixs]
    have one : (popThread st t ix).hr = t.hr.drop (if (st = .compute ∨ st = .helper) ∧ ix = 8 then 1 else 0) := by
      unfold popThread
      cases st with
      | compute =>
        have := chan_hr ix
        split
        · rename_i m hm
          have h8 : ¬ ix = 8 := fun e => by rw [this.mpr e] at hm; injection hm; contradiction
          rw [if_neg fun h => h8 h.2, List.drop_zero]
        · rename_i hm; rw [if_pos ⟨by simp, this.mp hm⟩]
        · rename_i h1 h2
          rw [if_neg fun h => h2 (this.mpr h.2), List.drop_zero]
      | helper =>
        have := chan_hr_helper ix
        split
        · rename_i m hm; exact absurd hm (chan_none_g ix m).2.2.1
        · rename_i hm; rw [if_pos ⟨by simp, this.mp hm⟩]
        · rename_i h1 h2
          rw [if_neg fun h => h2 (this.mpr h.2), List.drop_zero]
      | headland =>
        split
        · rename_i m hm; simp
        · rename_i hm; exact absurd hm (chan_none_g ix 0).2.2.2.1
        · simp
      | service =>
        split
        · rename_i m hm; simp
        · rename_i hm; exact absurd hm (chan_none_g ix 0).2.2.2.2
        · simp
    rw [one, List.drop_drop, List.count_cons]
    congr 1
    by_cases h1 : st = .compute ∨ st = .helper
    · by_cases h2 : ix = 8 <;> simp [h1, h2, Nat.add_comm]
    · simp [h1]

theorem foldl_popGroup (n : Nat) (hn : n < 4) : ∀ (ixs : List (BitVec 5)) (q : Table Nat (List Word)),
    tgetD n [] (ixs.foldl (popGroup .compute) q) = (tgetD n [] q).drop (ixs.count (BitVec.ofNat 5 n))
  | [], _ => by simp
  | ix :: ixs, q => by
    simp only [List.foldl]
    rw [foldl_popGroup n hn ixs, List.count_cons]
    have hg := chan_q ix ⟨n, hn⟩
    simp only at hg
    by_cases e : ix = BitVec.ofNat 5 n
    · have h := hg.mpr e
      have : popGroup .compute q ix = dropQ n 1 q := by simp only [popGroup, h]
      rw [this, dropQ_get, if_pos rfl, List.drop_drop]
      simp [e, Nat.add_comm]
    · have : tgetD n [] (popGroup .compute q ix) = tgetD n [] q := by
        unfold popGroup
        split
        · rename_i m hm
          have : m ≠ n := by rintro rfl; exact e (hg.mp hm)
          rw [dropQ_get, if_neg this]
        · rfl
      rw [this]
      simp [e]

theorem foldl_popPush (n : Nat) (hn : n < 4) : ∀ (ixs : List (BitVec 5)) (q : Table Nat (List (Word × Nat))),
    tgetD n [] (ixs.foldl (popPush .headland) q) = (tgetD n [] q).drop (ixs.count (BitVec.ofNat 5 n))
  | [], _ => by simp
  | ix :: ixs, q => by
    simp only [List.foldl]
    rw [foldl_popPush n hn ixs, List.count_cons]
    have hg := chan_hq ix ⟨n, hn⟩
    simp only at hg
    by_cases e : ix = BitVec.ofNat 5 n
    · have h := hg.mpr e
      have : popPush .headland q ix = dropQ n 1 q := by simp only [popPush, h]
      rw [this, dropQ_get, if_pos rfl, List.drop_drop]
      simp [e, Nat.add_comm]
    · have : tgetD n [] (popPush .headland q ix) = tgetD n [] q := by
        unfold popPush
        split
        · rename_i m hm
          have : m ≠ n := by rintro rfl; exact e (hg.mp hm)
          rw [dropQ_get, if_neg this]
        · rfl
      rw [this]
      simp [e]

end Sys2Proof.Machine
end

