-- ==== Sys2Proof/Laws/Commit.lean ====
section
/-! SUPPORT. The spec lemma of `State.commit` and `State.perform`: the result of each active lane is delivered, and nothing
else changes. -/
namespace Sys2Proof.Machine

/-! ### Flags and predicates of one thread -/

/-- What `State.noteAll` does in one thread. -/
def noteThread (p : Option PredIx) (o : LaneOut) (t : Thread) : Thread :=
  match p with
  | some p => (t.noteFlags o.flags o.sat).setPred p o.pred
  | none => t.noteFlags o.flags o.sat

theorem pred_cases (p : PredIx) : p = 0 ∨ p = 1 ∨ p = 2 ∨ p = 3 := by revert p; decide

theorem pred_congr {a b : Thread} (h1 : a.p1 = b.p1) (h2 : a.p2 = b.p2) (h3 : a.p3 = b.p3) (q : PredIx) :
    a.pred q = b.pred q := by
  rcases pred_cases q with rfl | rfl | rfl | rfl <;> simp [Thread.pred, h1, h2, h3]

theorem pred_setPred (t : Thread) (p q : PredIx) (b : Bool) (hp : p ≠ 0) :
    (t.setPred p b).pred q = if p = q then b else t.pred q := by
  rcases pred_cases p with rfl | rfl | rfl | rfl <;> rcases pred_cases q with rfl | rfl | rfl | rfl <;>
    first | exact absurd rfl hp | rfl

theorem setPred_eq (t : Thread) (p : PredIx) (b : Bool) :
    t.setPred p b = { t with p1 := (t.setPred p b).p1, p2 := (t.setPred p b).p2, p3 := (t.setPred p b).p3 } := by
  rcases pred_cases p with rfl | rfl | rfl | rfl <;> rfl

theorem noteThread_eq (p : Option PredIx) (o : LaneOut) (t : Thread) :
    noteThread p o t = { t with p1 := (noteThread p o t).p1, p2 := (noteThread p o t).p2, p3 := (noteThread p o t).p3
                                fflags := t.fflags ||| o.flags
                                xstat := if o.sat then t.xstat ||| xstatSAT else t.xstat } := by
  cases p with
  | none => rfl
  | some p => unfold noteThread; simp only; rw [setPred_eq]; rfl

theorem noteThread_pred (p : Option PredIx) (o : LaneOut) (t : Thread) (q : PredIx) (hp : p ≠ some 0) :
    (noteThread p o t).pred q = if p = some q then o.pred else t.pred q := by
  cases p with
  | none => simp only [noteThread]; rfl
  | some p =>
    simp only [noteThread]
    rw [pred_setPred _ _ _ _ (fun e => hp (by rw [e]))]
    by_cases h : p = q
    · simp [h]
    · have : ¬ some p = some q := fun e => h (by injection e)
      simp only [h, this, if_false]; rfl

/-! ### Writing the destination -/

/-- What a result's write does in one thread. -/
def writeThread (gang : Bool) (dest : Option (Dest × Bool)) (r : ThreadRef) (v : DWord) (t : Thread) : Thread :=
  match dest with
  | some (d, w) => if d.cls then (if gang then t else { t with hr := t.hr ++ chanWords w v }) else setSlot r w d.ix.toNat v t
  | none => t

/-- The issuing party is a group's gang. -/
def isGang : Party → Bool
  | .gang _ _ _ => true
  | _ => false

theorem writeThread_eq (gang : Bool) (dest : Option (Dest × Bool)) (r : ThreadRef) (v : DWord) (t : Thread) :
    writeThread gang dest r v t = { t with regs := (writeThread gang dest r v t).regs, log := (writeThread gang dest r v t).log
                                           bad := (writeThread gang dest r v t).bad, hr := (writeThread gang dest r v t).hr
                                           dirty := (writeThread gang dest r v t).dirty } := by
  unfold writeThread
  cases dest with
  | none => rfl
  | some x =>
    obtain ⟨d, w⟩ := x
    simp only
    cases d.cls <;> cases gang <;> simp only [if_true, if_false, Bool.false_eq_true]
    all_goals (rw [setSlot_eq])

/-- The lanes' results as `State.writeDest` writes them. -/
theorem writeDest_spec (s : State) (d : Dest) (w : Bool) (act : List Lane) (out : ThreadRef → DWord) (ha : act ≠ [])
    (hn : (act.map (·.ref)).Nodup) :
    let t := s.writeDest d w (act.map fun l => (l, out l.ref))
    SameBesides s t ∧ t.ctxs = s.ctxs ∧ t.groups = s.groups
      ∧ (∀ r, t.thread r = if r ∈ act.map (·.ref) then writeThread (isGang s.cur) (some (d, w)) r (out r) (s.thread r)
          else s.thread r)
      ∧ (∀ tk, t.team tk = match s.cur, act with
          | .gang k gid _, l :: _ => if d.cls = true ∧ k = tk then (s.team k).pushHq d.ix.toNat gid (chanWords w (out l.ref))
              else s.team tk
          | _, _ => s.team tk)
      ∧ ((isGang s.cur && d.cls) = false → t.teams = s.teams) := by
  have lanes : forEach (act.map fun l => (l, out l.ref)) s (fun x s => s.writeLane d w x.1 x.2)
      = forEach act s fun l s => s.onThread l.ref fun t =>
          if d.cls then { t with hr := t.hr ++ chanWords w (out l.ref) } else setSlot l.ref w d.ix.toNat (out l.ref) t := by
    unfold forEach
    rw [List.foldl_map]
    congr 1
    funext acc l
    unfold State.writeLane
    cases d.cls <;> rfl
  have main : ∀ g, (d.cls = false ∨ g = false) →
      let t := forEach (act.map fun l => (l, out l.ref)) s (fun x s => s.writeLane d w x.1 x.2)
      SameBesides s t ∧ t.ctxs = s.ctxs ∧ t.groups = s.groups ∧ t.teams = s.teams
      ∧ (∀ r, t.thread r = if r ∈ act.map (·.ref) then writeThread g (some (d, w)) r (out r) (s.thread r) else s.thread r) := by
    intro g hg
    simp only
    rw [lanes]
    refine ⟨sameBesides_forEach _ (fun l s => sameBesides_onThread s _ _) _ s,
      forEach_onThread_field State.ctxs (fun _ _ _ => rfl) _ _ act s,
      forEach_onThread_field State.groups (fun _ _ _ => rfl) _ _ act s,
      forEach_onThread_field State.teams (fun _ _ _ => rfl) _ _ act s, ?_⟩
    intro r
    rw [forEach_refs (fun r t => if d.cls then { t with hr := t.hr ++ chanWords w (out r) } else setSlot r w d.ix.toNat (out r) t)
      act s hn r]
    unfold writeThread
    rcases hg with h | h <;> simp [h]
  obtain ⟨l, ls, rfl⟩ : ∃ l ls, act = l :: ls := by
    cases act with
    | nil => exact absurd rfl ha
    | cons l ls => exact ⟨l, ls, rfl⟩
  unfold State.writeDest
  cases hs : s.cur with
  | gang tk gid q =>
    simp only [List.map_cons]
    cases hc : d.cls with
    | false =>
      simp only [Bool.false_eq_true, if_false]
      obtain ⟨h1, h2, h3, h4, h5⟩ := main true (Or.inl hc)
      refine ⟨h1, h2, h3, ?_, ?_, fun _ => h4⟩
      · intro r; simpa [isGang] using h5 r
      · intro k; simp; unfold State.team; simp only [List.map_cons] at h4; rw [h4]
    | true =>
      simp only [if_true]
      refine ⟨rfl, rfl, rfl, ?_, ?_, fun h => absurd h (by simp [isGang])⟩
      · intro r; simp [writeThread, hc, isGang]
      · intro k; rw [team_onTeam]; simp
  | _ =>
    obtain ⟨h1, h2, h3, h4, h5⟩ := main false (Or.inr rfl)
    refine ⟨h1, h2, h3, ?_, ?_, fun _ => h4⟩
    · intro r; simpa [isGang] using h5 r
    · intro k; simp only [State.team] at *; rw [h4]

/-! ### The spec lemma of commit -/

/-- The state in which a result is committed, against the state in which its instruction was issued: the guard noted, and
AM raised where a member is absent. -/
structure Base (s s0 : State) (act : List Lane) (am : ThreadRef → Bool) : Prop where
  besides : SameBesides s s0
  ctx : ∀ p, ∃ g, s0.ctx p = { s.ctx p with guard := g }
  other : ∀ p, p ∉ s.gang s.cur → s0.ctx p = s.ctx p
  thread : ∀ r, s0.thread r = if r ∈ act.map (·.ref) then
    { s.thread r with xstat := (s.thread r).xstat ||| (if am r then xstatAM else 0) } else s.thread r
  groups : s0.groups = s.groups
  teams : s0.teams = s.teams

theorem gang_of_base {s s0 : State} {act : List Lane} {am : ThreadRef → Bool} (h : Base s s0 act am) (p : Party) :
    s0.gang p = s.gang p :=
  gang_guard p h.ctx fun tk gid => by unfold State.group; rw [h.groups]

theorem streamOf_gang (p : Party) : isGang p = decide (streamOf p = .compute) := by cases p <;> rfl

/-- What finishing an instruction leaves, thread by thread, and of the rest. -/
theorem finish_thread (s : State) (f : Form) (act : List Lane) (hn : (act.map (·.ref)).Nodup) (r : ThreadRef) :
    ∃ n, (s.finish f act).thread r =
      { (if r ∈ act.map (·.ref) then (f.srcs.flatMap Operand.pops).foldl (popThread (streamOf s.cur)) (s.thread r)
          else s.thread r) with count := n } := by
  unfold State.finish
  rw [thread_retire, popAll_thread _ _ hn]
  generalize (if r ∈ act.map (·.ref) then (f.srcs.flatMap Operand.pops).foldl (popThread (streamOf s.cur)) (s.thread r)
          else s.thread r) = x
  split
  · exact ⟨_, rfl⟩
  · exact ⟨x.count, rfl⟩

theorem finish_besides (s : State) (f : Form) (act : List Lane) : SameBesides s (s.finish f act) :=
  (popAll_besides _ _ _ s).trans (retire_sameBesides _)

theorem ctxs_ctx {s t : State} (h : t.ctxs = s.ctxs) (p : Party) : t.ctx p = s.ctx p := by unfold State.ctx; rw [h]

theorem popAll_width (s : State) (st : Stream) (act : List Lane) (ixs : List (BitVec 5)) (tk gid : Nat) :
    ((s.popAll st act ixs).group tk gid).width = (s.group tk gid).width := by
  rw [popAll_group]
  cases s.cur with
  | gang k g q =>
    simp only
    split <;> rename_i e
    · injection e with e1 e2; rw [e1, e2]
    · rfl
  | _ => rfl

/-- The contexts of the gang have retired, every other is as it was. -/
theorem finish_ctx (s : State) (f : Form) (act : List Lane) (p : Party) :
    (s.finish f act).ctx p = if p ∈ s.gang s.cur then (s.ctx p).retired s.time.toNat else s.ctx p := by
  unfold State.finish
  have hc := popAll_ctxs (streamOf s.cur) act (f.srcs.flatMap Operand.pops) s
  have hb := popAll_besides (streamOf s.cur) act (f.srcs.flatMap Operand.pops) s
  have hg : (s.popAll (streamOf s.cur) act (f.srcs.flatMap Operand.pops)).gang s.cur = s.gang s.cur :=
    gang_congr _ (ctxs_ctx hc) fun tk gid => popAll_width s _ act _ tk gid
  rw [ctx_retire, hb.cur, hg, hb.time, ctxs_ctx hc]

/-- From the contexts' retirement, the advance of the gang. -/
theorem advances_of {s t : State} (h : ∀ p, ∃ n, t.ctx p = if p ∈ s.gang s.cur then (s.ctx p).retired n else s.ctx p) :
    Advances s t := by
  have hin : ∀ p, p ∈ s.gang s.cur → ∃ n, t.ctx p = (s.ctx p).retired n := by
    intro p hp
    obtain ⟨n, e⟩ := h p
    exact ⟨n, by rw [e, if_pos hp]⟩
  constructor
  case pc => intro p hp; obtain ⟨n, e⟩ := hin p hp; rw [e]; rfl
  case run => intro p hp; obtain ⟨n, e⟩ := hin p hp; rw [e]; rfl
  case wait => intro p hp; obtain ⟨n, e⟩ := hin p hp; rw [e]; rfl
  case mask => intro p hp; obtain ⟨n, e⟩ := hin p hp; rw [e]; rfl
  case stack => intro p hp; obtain ⟨n, e⟩ := hin p hp; rw [e]; rfl
  case spilled => intro p hp; obtain ⟨n, e⟩ := hin p hp; rw [e]; rfl
  case idle => intro p hp; obtain ⟨n, e⟩ := hin p hp; rw [e]; rfl
  case others => intro p hp; obtain ⟨n, e⟩ := h p; rw [e, if_neg hp]

/-- The state a commit writes before it pops and retires. -/
def State.written (s : State) (f : Form) (outs : List (Lane × LaneOut)) : State :=
  let s := s.noteAll f.pred outs
  match f.dest with
  | some (d, w) => s.writeDest d w (outs.map fun (x : Lane × LaneOut) => (x.1, x.2.val))
  | none => s

theorem noteAll_thread (s : State) (p : Option PredIx) (act : List Lane) (out : ThreadRef → LaneOut)
    (hn : (act.map (·.ref)).Nodup) (r : ThreadRef) :
    (s.noteAll p (act.map fun l => (l, out l.ref))).thread r
      = if r ∈ act.map (·.ref) then noteThread p (out r) (s.thread r) else s.thread r := by
  have e : s.noteAll p (act.map fun l => (l, out l.ref))
      = forEach act s fun l s => s.onThread l.ref (noteThread p (out l.ref)) := by
    unfold State.noteAll forEach
    rw [List.foldl_map]
    rfl
  rw [e]
  exact forEach_refs (fun r => noteThread p (out r)) act s hn r

theorem noteAll_rest (s : State) (p : Option PredIx) (outs : List (Lane × LaneOut)) :
    s.noteAll p outs = { s with threads := (s.noteAll p outs).threads } := by
  have h := forEach_onThread_rest (fun x : Lane × LaneOut => x.1.ref) (fun x t =>
    let t := t.noteFlags x.2.flags x.2.sat
    match p with
    | some p => t.setPred p x.2.pred
    | none => t) outs s
  exact congrArg (fun x : State => { x with threads := (s.noteAll p outs).threads }) h

/-- What stands before the pops and the retirement. -/
theorem written_spec (s : State) (f : Form) (act : List Lane) (out : ThreadRef → LaneOut) (ha : act ≠ [])
    (hn : (act.map (·.ref)).Nodup) :
    let t := s.written f (act.map fun l => (l, out l.ref))
    SameBesides s t ∧ t.ctxs = s.ctxs ∧ t.groups = s.groups
      ∧ (∀ r, t.thread r = if r ∈ act.map (·.ref) then
          writeThread (isGang s.cur) f.dest r (out r).val (noteThread f.pred (out r) (s.thread r)) else s.thread r)
      ∧ (∀ tk, t.team tk = match s.cur, f.dest, act with
          | .gang k gid _, some (d, w), l :: _ =>
            if d.cls = true ∧ k = tk then (s.team k).pushHq d.ix.toNat gid (chanWords w (out l.ref).val) else s.team tk
          | _, _, _ => s.team tk)
      ∧ (isGang s.cur = false → t.teams = s.teams) := by
  have h1 := noteAll_rest s f.pred (act.map fun l => (l, out l.ref))
  have h2 := noteAll_thread s f.pred act out hn
  unfold State.written
  cases hd : f.dest with
  | none =>
    simp only
    generalize s.noteAll f.pred (act.map fun l => (l, out l.ref)) = u at h1 h2 ⊢
    rw [h1]
    refine ⟨rfl, rfl, rfl, ?_, ?_, fun _ => rfl⟩
    · intro r
      have := h2 r
      rw [h1] at this
      exact this
    · intro tk
      cases s.cur <;> rfl
  | some x =>
    obtain ⟨d, w⟩ := x
    simp only [List.map_map]
    have hw := writeDest_spec (s.noteAll f.pred (act.map fun l => (l, out l.ref))) d w act (fun r => (out r).val) ha hn
    have hm : (fun (x : Lane × LaneOut) => (x.1, x.2.val)) ∘ (fun l : Lane => (l, out l.ref)) = fun l => (l, (out l.ref).val) := rfl
    rw [hm]
    simp only at hw
    generalize s.noteAll f.pred (act.map fun l => (l, out l.ref)) = u at h1 h2 hw ⊢
    have hc : u.cur = s.cur := by rw [h1]
    have ht : u.teams = s.teams := by rw [h1]
    have ht' : ∀ k, u.team k = s.team k := fun k => by unfold State.team; rw [ht]
    obtain ⟨w1, w2, w3, w4, w5, w6⟩ := hw
    refine ⟨SameBesides.trans (by rw [h1]; rfl) w1, ?_, ?_, ?_, ?_, ?_⟩
    · rw [w2, h1]
    · rw [w3, h1]
    · intro r
      rw [w4 r, h2 r, hc]
      by_cases hr : r ∈ act.map (·.ref) <;> simp only [hr, if_true, if_false]
    · intro tk
      rw [w5 tk, hc]
      simp only [ht']
      cases s.cur <;> cases act <;> rfl
    · intro hg
      rw [w6 (by rw [hc, hg]; rfl), ht]

/-- A result committed is delivered. -/
theorem commit_delivers {s s0 : State} {f : Form} {act : List Lane} {out : ThreadRef → LaneOut} {am : ThreadRef → Bool}
    (hb : Base s s0 act am) (hn : (act.map (·.ref)).Nodup) (ha : act ≠ []) (hp : f.pred ≠ some 0)
    (hl : ∀ d w, f.dest = some (d, w) → destLegal (streamOf s.cur) w d = true)
    (hh : streamOf s.cur = .helper → f.popCount 8 = 0)
    (hf : ∀ l ∈ act, trapsOn (s.thread l.ref).fmask (out l.ref).flags = false) (hr : s0.room act f.dest = .ok) :
    Delivers s (s0.commit f act (act.map fun l => (l, out l.ref))) f act out am := by
  have hcur : s0.cur = s.cur := hb.besides.cur
  have hfp : s0.fpLanes (act.map fun l => (l, out l.ref)) = [] := by
    unfold State.fpLanes
    rw [List.map_eq_nil_iff, List.filter_eq_nil_iff]
    intro x hx
    obtain ⟨l, hl', rfl⟩ := List.mem_map.mp hx
    have : (s0.thread l.ref).fmask = (s.thread l.ref).fmask := by
      rw [hb.thread]; split <;> rfl
    simp only [this, hf l hl']
    simp
  have hcom : s0.commit f act (act.map fun l => (l, out l.ref))
      = (s0.written f (act.map fun l => (l, out l.ref))).finish f act := by
    unfold State.commit
    rw [if_neg (by simp [hfp])]
    simp only [hr]
    rfl
  rw [hcom]
  obtain ⟨v1, v2, v3, v4, v5, v6⟩ := written_spec s0 f act out ha hn
  generalize s0.written f (act.map fun l => (l, out l.ref)) = u at v1 v2 v3 v4 v5 v6 ⊢
  have hu : u.cur = s.cur := v1.cur.trans hcur
  have hctx : ∀ p, ∃ g, u.ctx p = { s.ctx p with guard := g } := fun p => by rw [ctxs_ctx v2]; exact hb.ctx p
  have hgang : u.gang s.cur = s.gang s.cur := gang_guard _ hctx fun tk gid => by
    unfold State.group; rw [v3, hb.groups]
  -- the threads
  have th : ∀ r, ∃ n, (u.finish f act).thread r =
      { (if r ∈ act.map (·.ref) then (f.srcs.flatMap Operand.pops).foldl (popThread (streamOf s.cur))
            (writeThread (isGang s.cur) f.dest r (out r).val (noteThread f.pred (out r)
              { s.thread r with xstat := (s.thread r).xstat ||| (if am r then xstatAM else 0) }))
          else s.thread r) with count := n } := by
    intro r
    obtain ⟨n, h⟩ := finish_thread u f act hn r
    refine ⟨n, ?_⟩
    rw [h, hu, v4 r, hb.thread r, hcur]
    by_cases hr : r ∈ act.map (·.ref) <;> simp only [hr, if_true, if_false]
  have groups : ∀ tk gid, u.group tk gid = s.group tk gid := fun tk gid => by unfold State.group; rw [v3, hb.groups]
  constructor
  case advances =>
    apply advances_of
    intro p
    refine ⟨u.time.toNat, ?_⟩
    rw [finish_ctx, hu, hgang]
    by_cases h : p ∈ s.gang s.cur
    · rw [if_pos h, if_pos h]; obtain ⟨g, e⟩ := hctx p; rw [e]; rfl
    · rw [if_neg h, if_neg h, ctxs_ctx v2, hb.other p h]
  case besides => exact (hb.besides.trans v1).trans (finish_besides u f act)
  case result =>
    intro d w hd hc l hl'
    obtain ⟨n, h⟩ := th l.ref
    rw [h, if_pos (List.mem_map_of_mem hl'), foldl_popThread]
    have : ∀ (x : Thread) a b c, destValue l.ref { x with streams := a, hr := b, count := c } d w = destValue l.ref x d w := by
      intro x a b c; unfold destValue; cases l.ref <;> rfl
    rw [this]
    unfold writeThread
    rw [hd]
    simp only [hc, Bool.false_eq_true, if_false]
    exact destValue_setSlot _ _ _ _ _
  case words =>
    intro r i hi
    obtain ⟨n, h⟩ := th r
    rw [h]
    by_cases hr : r ∈ act.map (·.ref)
    · rw [if_pos hr, foldl_popThread]
      have e1 : ∀ (x : Thread) a b c, Thread.word { x with streams := a, hr := b, count := c } i = x.word i := fun _ _ _ _ => rfl
      rw [e1]
      have e2 : (noteThread f.pred (out r) { s.thread r with xstat := (s.thread r).xstat ||| (if am r then xstatAM else 0) }).word i
          = (s.thread r).word i := by rw [noteThread_eq]; rfl
      rw [← e2]
      unfold writeThread
      cases hd : f.dest with
      | none => rfl
      | some x =>
        obtain ⟨d, w⟩ := x
        simp only
        cases hc : d.cls with
        | true => simp only [if_true]; cases isGang s.cur <;> rfl
        | false =>
          simp only [Bool.false_eq_true, if_false]
          apply word_setSlot _ _ _ _ _ _ hc
          have := hi hr d w hd
          unfold destWords at this ⊢
          rw [noteThread_eq]
          cases r <;> exact this
    · rw [if_neg hr]; rfl
  case preds =>
    intro r q
    obtain ⟨n, h⟩ := th r
    rw [h]
    by_cases hr : r ∈ act.map (·.ref)
    · rw [if_pos hr, foldl_popThread]
      generalize hy : ({ s.thread r with xstat := (s.thread r).xstat ||| (if am r then xstatAM else 0) } : Thread) = y
      have hyp : y.pred q = (s.thread r).pred q := by rw [← hy]; exact pred_congr rfl rfl rfl q
      refine Eq.trans (pred_congr (b := noteThread f.pred (out r) y) ?_ ?_ ?_ q) ?_
      · rw [writeThread_eq]
      · rw [writeThread_eq]
      · rw [writeThread_eq]
      · rw [noteThread_pred _ _ _ _ hp, hyp]
        by_cases hq : f.pred = some q
        · simp [hq, hr]
        · rw [if_neg hq, if_neg (fun x => hq x.1)]
    · rw [if_neg hr, if_neg (fun x => hr x.2)]
      exact pred_congr rfl rfl rfl q
  case flags =>
    intro r
    obtain ⟨n, h⟩ := th r
    rw [h]
    by_cases hr : r ∈ act.map (·.ref)
    · rw [if_pos hr, if_pos hr, foldl_popThread, writeThread_eq, noteThread_eq]
    · rw [if_neg hr, if_neg hr]
  case xstat =>
    intro r
    obtain ⟨n, h⟩ := th r
    rw [h]
    by_cases hr : r ∈ act.map (·.ref)
    · rw [if_pos hr, if_pos hr, foldl_popThread, writeThread_eq, noteThread_eq]
      simp only
      cases (out r).sat <;> simp
    · rw [if_neg hr, if_neg hr]
  case threads =>
    intro r
    obtain ⟨n, h⟩ := th r
    rw [h]
    by_cases hr : r ∈ act.map (·.ref)
    · rw [if_pos hr, foldl_popThread, writeThread_eq, noteThread_eq]
      constructor <;> rfl
    · rw [if_neg hr]
      constructor <;> rfl
  case streams =>
    intro r n hn4
    obtain ⟨m, h⟩ := th r
    rw [h]
    by_cases hr : r ∈ act.map (·.ref)
    · rw [if_pos hr]
      simp only
      have str : (writeThread (isGang s.cur) f.dest r (out r).val (noteThread f.pred (out r)
          { s.thread r with xstat := (s.thread r).xstat ||| (if am r then xstatAM else 0) })).streams = (s.thread r).streams := by
        rw [writeThread_eq, noteThread_eq]
      rw [foldl_streams _ n hn4, str]
      by_cases hst : streamOf s.cur = .compute
      · simp only [hst, hr, and_self, if_true, Form.popCount]
      · simp only [hst, and_false, if_false]
    · simp only [hr, false_and, if_false, List.drop_zero]
  case hr =>
    intro r
    obtain ⟨m, h⟩ := th r
    rw [h]
    by_cases hr : r ∈ act.map (·.ref)
    · rw [if_pos hr, if_pos hr]
      simp only
      rw [foldl_hr]
      have note : ∀ x, (noteThread f.pred (out r) x).hr = x.hr := by intro x; rw [noteThread_eq]
      have slot : ∀ w i (v : DWord) (x : Thread), (setSlot r w i v x).hr = x.hr := by intro w i v x; rw [setSlot_eq]
      have gangs := streamOf_gang s.cur
      have pop8 : f.popCount 8 = (f.srcs.flatMap Operand.pops).count 8 := rfl
      cases hst : streamOf s.cur with
      | compute =>
        rw [hst] at gangs
        have : (writeThread (isGang s.cur) f.dest r (out r).val (noteThread f.pred (out r)
            { s.thread r with xstat := (s.thread r).xstat ||| (if am r then xstatAM else 0) })).hr = (s.thread r).hr := by
          rw [gangs]
          unfold writeThread
          cases f.dest with
          | none => exact note _
          | some x =>
            simp only [decide_true, if_true]
            cases x.1.cls <;> simp only [if_true, if_false, Bool.false_eq_true]
            · rw [slot, note]
            · rw [note]
        rw [this, pop8]
        simp
      | helper =>
        rw [hst] at gangs
        rw [← pop8, hh hst]
        simp only [gangs, or_true, if_true, List.drop_zero]
        unfold writeThread Form.pushes
        cases hd : f.dest with
        | none => simp [note]
        | some x =>
          obtain ⟨d, w⟩ := x
          have hlg := hl d w hd
          rw [hst] at hlg
          simp only
          cases hc : d.cls with
          | false => simp [slot, note]
          | true =>
            have h8 : d.ix.toNat = 8 := by
              unfold destLegal at hlg
              rw [hc] at hlg
              simp at hlg
              rw [hlg]; rfl
            simp [note, h8]
      | headland =>
        rw [hst] at gangs
        have : (writeThread (isGang s.cur) f.dest r (out r).val (noteThread f.pred (out r)
            { s.thread r with xstat := (s.thread r).xstat ||| (if am r then xstatAM else 0) })).hr = (s.thread r).hr := by
          unfold writeThread
          cases hd : f.dest with
          | none => exact note _
          | some x =>
            have hlg := hl x.1 x.2 (by rw [hd])
            rw [hst] at hlg
            simp only
            cases hc : x.1.cls with
            | true => unfold destLegal at hlg; rw [hc] at hlg; simp at hlg
            | false => simp only [if_false, Bool.false_eq_true]; rw [slot, note]
        rw [this]
        simp
      | service =>
        rw [hst] at gangs
        have : (writeThread (isGang s.cur) f.dest r (out r).val (noteThread f.pred (out r)
            { s.thread r with xstat := (s.thread r).xstat ||| (if am r then xstatAM else 0) })).hr = (s.thread r).hr := by
          unfold writeThread
          cases hd : f.dest with
          | none => exact note _
          | some x =>
            have hlg := hl x.1 x.2 (by rw [hd])
            rw [hst] at hlg
            simp only
            cases hc : x.1.cls with
            | true => unfold destLegal at hlg; rw [hc] at hlg; simp at hlg
            | false => simp only [if_false, Bool.false_eq_true]; rw [slot, note]
        rw [this]
        simp
    · rw [if_neg hr, if_neg hr]
  case group =>
    intro tk gid q hq
    have e : (u.finish f act).group tk gid =
        { s.group tk gid with
          queues := (f.srcs.flatMap Operand.pops).foldl (popGroup .compute) (s.group tk gid).queues
          wdog := 0, tagTimer := ((u.finish f act).group tk gid).tagTimer, saved := none } := by
      unfold State.finish
      rw [group_retire, (popAll_besides _ _ _ u).cur, hu, hq]
      simp only [if_true]
      rw [popAll_group, hu, hq]
      simp only [if_true, streamOf]
      rw [groups]
    constructor
    · intro n hn4
      rw [e]
      simp only
      exact foldl_popGroup n hn4 _ _
    · rw [e]
  case groups =>
    intro tk gid hq
    unfold State.finish
    rw [group_retire, (popAll_besides _ _ _ u).cur, hu]
    have : (u.popAll (streamOf u.cur) act (f.srcs.flatMap Operand.pops)).group tk gid = s.group tk gid := by
      rw [popAll_group, hu]
      cases hs : s.cur with
      | gang k g q =>
        have : ¬ (k, g) = (tk, gid) := by rintro ⟨⟩; exact hq q hs
        simp only [this, if_false]; exact groups tk gid
      | _ => exact groups tk gid
    rw [hu] at this
    rw [this]
    cases hs : s.cur with
    | gang k g q =>
      have : ¬ (k, g) = (tk, gid) := by rintro ⟨⟩; exact hq q hs
      simp only [this, if_false]
    | _ => rfl
  case push =>
    intro tk gid q hq n hn4
    have hteam : (u.finish f act).team tk = u.team tk := by
      unfold State.finish
      rw [team_retire, (popAll_besides _ _ _ u).cur, hu, hq]
      simp only
      rw [popAll_team, hu, hq]
    rw [hteam, v5 tk, hcur, hq]
    have hs0 : s0.team tk = s.team tk := by unfold State.team; rw [hb.teams]
    cases act with
    | nil => exact absurd rfl ha
    | cons l ls =>
      simp only
      unfold Form.pushes
      cases f.dest with
      | none => simp [hs0]
      | some x =>
        obtain ⟨d, w⟩ := x
        simp only
        cases hc : d.cls with
        | false => simp [hs0]
        | true =>
          simp only [and_self, if_true, true_and, Team.pushHq]
          rw [tgetD_tset, hs0]
          by_cases h : d.ix.toNat = n
          · subst h; simp
          · simp [h]
  case pops =>
    intro tk hq n hn4
    have hteam : tgetD n [] ((u.finish f act).team tk).push
        = tgetD n [] ((f.srcs.flatMap Operand.pops).foldl (popPush .headland) (s.team tk).push) := by
      unfold State.finish
      rw [team_retire, (popAll_besides _ _ _ u).cur, hu, hq]
      simp only [if_true]
      rw [popAll_team, hu, hq]
      simp only [if_true, streamOf]
      have : u.team tk = s.team tk := by
        unfold State.team; rw [v6 (by rw [hcur, hq]; rfl), hb.teams]
      rw [this]
    rw [hteam]
    exact foldl_popPush n hn4 _ _
  case teams =>
    intro tk
    have hs0 : ∀ k, s0.team k = s.team k := fun k => by unfold State.team; rw [hb.teams]
    have hu1 : ∃ p, u.team tk = { s.team tk with push := p } := by
      rw [v5 tk]
      split
      · split
        · rename_i e; rw [e.2, hs0]; exact ⟨_, rfl⟩
        · exact ⟨(s.team tk).push, hs0 tk⟩
      · exact ⟨(s.team tk).push, hs0 tk⟩
    have h2 : ∃ p a b, (u.finish f act).team tk = { u.team tk with push := p, hWdog := a, hTagTimer := b } := by
      unfold State.finish
      rw [team_retire, (popAll_besides _ _ _ u).cur]
      have hp : ∃ p, (u.popAll (streamOf u.cur) act (f.srcs.flatMap Operand.pops)).team tk = { u.team tk with push := p } := by
        rw [popAll_team]
        split
        · split
          · rename_i e; rw [e]; exact ⟨_, rfl⟩
          · exact ⟨_, rfl⟩
        · exact ⟨_, rfl⟩
      obtain ⟨p, hp⟩ := hp
      split
      · split
        · rename_i e; rw [e, hp]; exact ⟨_, _, _, rfl⟩
        · rw [hp]; exact ⟨_, _, _, rfl⟩
      · rw [hp]; exact ⟨_, _, _, rfl⟩
    obtain ⟨p, hu1⟩ := hu1
    obtain ⟨p2, a, b, h2⟩ := h2
    rw [h2, hu1]
  case still =>
    intro h1 h2
    have hc : (u.popAll (streamOf u.cur) act (f.srcs.flatMap Operand.pops)).cur = s.cur := by
      rw [(popAll_besides _ _ _ u).cur, hu]
    unfold State.finish
    rw [teams_retire _ (by rw [hc]; exact h2), popAll_teams _ _ _ _ (by rw [hu]; exact h2), v6, hb.teams]
    rw [hcur]
    cases hs : s.cur with
    | gang a b c => exact absurd hs (h1 a b c)
    | _ => rfl
  case otherTeams =>
    intro tk hne
    have hs0 : s0.team tk = s.team tk := by unfold State.team; rw [hb.teams]
    have hu1 : u.team tk = s.team tk := by
      rw [v5 tk, hcur]
      split
      · rename_i hs _
        split
        · rename_i e; exact absurd (by rw [hs, ← e.2]; rfl) hne
        · exact hs0
      · exact hs0
    unfold State.finish
    rw [team_retire, (popAll_besides _ _ _ u).cur, hu]
    have hp : (u.popAll (streamOf u.cur) act (f.srcs.flatMap Operand.pops)).team tk = s.team tk := by
      rw [popAll_team, hu]
      split
      · rename_i k hs
        split
        · rename_i e; exact absurd (by rw [hs, ← e]; rfl) hne
        · exact hu1
      · exact hu1
    rw [hu] at hp
    split
    · rename_i k hs
      split
      · rename_i e; exact absurd (by rw [hs, ← e]; rfl) hne
      · exact hp
    · exact hp

/-! ### The spec lemma of perform -/

theorem base_noteGuard (s : State) (g : PredIx) (act : List Lane) : Base s (s.noteGuard g) act fun _ => false where
  besides := by rw [noteGuard_eq]; rfl
  ctx := ctx_noteGuard s g
  other := fun p h => ctx_noteGuard_other s g p h
  thread := by
    intro r
    rw [noteGuard_eq]
    simp
    rfl
  groups := by rw [noteGuard_eq]
  teams := by rw [noteGuard_eq]

theorem room_noteGuard (s : State) (g : PredIx) (act : List Lane) (d : Option (Dest × Bool)) :
    (s.noteGuard g).room act d = s.room act d := by
  rw [noteGuard_eq]
  rfl

/-- The lanes of a helper context are helpers. -/
theorem lanes_helper (s : State) (c q : Nat) : ∀ l ∈ s.lanes (.helper c q), ∃ k, l.ref = .helper c k := by
  have sub : ∀ (ls : List Lane) (seen : List ThreadRef), ∀ l ∈ onceEach seen ls, l ∈ ls := by
    intro ls
    induction ls with
    | nil => intro seen l h; exact h
    | cons x ls ih =>
      intro seen l h
      unfold onceEach at h
      split at h
      · exact List.mem_cons_of_mem _ (ih _ l h)
      · rcases List.mem_cons.mp h with rfl | h
        · exact List.mem_cons_self ..
        · exact List.mem_cons_of_mem _ (ih _ l h)
  intro l hl
  have h1 := sub _ _ l hl
  simp only [State.gang, List.flatMap_cons, List.flatMap_nil, List.append_nil, State.ctxLanes, List.mem_filterMap] at h1
  obtain ⟨j, _, hj⟩ := h1
  split at hj
  · obtain ⟨x, _, hx⟩ := List.exists_of_findSome?_eq_some hj
    split at hx
    · injection hx with hx; exact ⟨x.1.2, by rw [← hx]⟩
    · exact absurd hx (by simp)
  · exact absurd hj (by simp)

/-- No helper result stands as a source of a helper whose sources are ready. -/
theorem helper_no_pop {s : State} {f : Form} {act : List Lane} (h : Issues s f act) (hs : streamOf s.cur = .helper) :
    f.popCount 8 = 0 := by
  obtain ⟨c, q, hcur⟩ : ∃ c q, s.cur = .helper c q := by
    cases hc : s.cur with
    | helper c q => exact ⟨c, q, rfl⟩
    | _ => rw [hc] at hs; exact absurd hs (by simp [streamOf])
  obtain ⟨l, ls, hact⟩ : ∃ l ls, act = l :: ls := by
    cases act with
    | nil => exact absurd rfl h.some_
    | cons l ls => exact ⟨l, ls, rfl⟩
  have hla : l ∈ s.active s.cur (f.guard s.cctx.run) := by rw [h.lanes, hact]; exact List.mem_cons_self ..
  obtain ⟨k, hk⟩ := lanes_helper s c q l (by rw [← hcur]; exact active_subset s _ _ l hla)
  have hready : s.sourcesReady .helper l.ref (fun _ => true) f.srcs [] = true := by
    have := h.entries
    unfold State.shortLanes at this
    rw [List.filter_eq_nil_iff] at this
    have := this l (by rw [hact]; exact List.mem_cons_self ..)
    rw [hs] at this
    simpa using this
  rw [hk] at hready
  have key : ∀ (os : List Operand) (p : List (BitVec 5)), s.sourcesReady .helper (.helper c k) (fun _ => true) os p = true →
      ∀ o ∈ os, ¬ (o.src.cls = true ∧ o.src.ix = 8) := by
    intro os
    induction os with
    | nil => intro p _ o ho; exact absurd ho (by simp)
    | cons x os ih =>
      intro p hp o ho
      simp only [State.sourcesReady, Bool.and_eq_true] at hp
      rcases List.mem_cons.mp ho with rfl | ho
      · rintro ⟨h1, h2⟩
        have h3 := hp.1
        have h8 : chanOf .helper o.src.ix = some .hr := by rw [h2]; decide
        rw [h8] at h3
        simp [h1, Chan.isQueue, State.entries] at h3
        split at h3 <;> omega
      · exact ih _ hp.2 o ho
  unfold Form.popCount
  rw [List.count_eq_zero]
  intro hm
  obtain ⟨o, ho, hx⟩ := List.mem_flatMap.mp hm
  refine key f.srcs [] hready o ho ?_
  unfold Operand.pops at hx
  split at hx
  · rename_i hc
    simp only [Bool.and_eq_true] at hc
    refine ⟨hc.1, ?_⟩
    split at hx <;> simp at hx <;> exact hx.symm
  · exact absurd hx (by simp)

/-- An instruction that computes in each lane delivers its results. -/
theorem perform_delivers {s : State} {f : Form} {act : List Lane} (fn : Thread → List DWord → LaneOut) (h : Issues s f act)
    (hr : Roomy s f act fun r => fn (s.thread r) (s.srcsOf f r)) :
    ∃ t, s.perform f fn = .next t ∧ Delivers s t f act fun r => fn (s.thread r) (s.srcsOf f r) := by
  refine ⟨_, h.run _, ?_⟩
  have ho := h.operands
  unfold Form.operandsOk at ho
  simp only [Bool.and_eq_true] at ho
  have e : (act.map fun l => (l, fn ((s.noteGuard (f.guard s.cctx.run)).thread l.ref)
        ((s.noteGuard (f.guard s.cctx.run)).reads f l)))
      = act.map fun l => (l, (fun r => fn (s.thread r) (s.srcsOf f r)) l.ref) := by
    have h1 : ∀ r, (s.noteGuard (f.guard s.cctx.run)).thread r = s.thread r := by intro r; rw [noteGuard_eq]; rfl
    have h2 : ∀ l, (s.noteGuard (f.guard s.cctx.run)).reads f l = s.srcsOf f l.ref := by
      intro l
      rw [noteGuard_eq]
      exact sources_ctxs s _ _ _ _ _
    simp only [h1, h2]
  rw [e]
  refine commit_delivers (out := fun r => fn (s.thread r) (s.srcsOf f r)) (base_noteGuard s _ act) ?_ h.some_ ?_ ?_ (helper_no_pop h) hr.flags ?_
  · rw [← h.lanes]; exact active_nodup s _ _
  · intro hp; rw [hp] at ho; simp at ho
  · intro d w hd; rw [hd] at ho; exact ho.1.1.1.2
  · rw [room_noteGuard]; exact hr.room

/-- An instruction whose meaning is `State.perform` of a function computes that function, however it is written. -/
theorem computes_of {i : Instr} {s : State} {f : Form} {fn fn' : Thread → List DWord → LaneOut}
    (he : exec i s = s.perform f fn) (hf : ∀ t xs, fn t xs = fn' t xs) : Computes i s f fn' := by
  have e : fn = fn' := funext fun t => funext fun xs => hf t xs
  subst e
  intro act h hr
  rw [he]
  exact perform_delivers fn h hr

end Sys2Proof.Machine
end

