-- ==== Sys2Proof/Laws/Lanes.lean ====
section
/-! SUPPORT. The spec lemmas of the cross-lane shapes: votes, shuffles, reductions. -/
namespace Sys2Proof.Machine

/-- The sources of a lane after the guard has been noted. -/
theorem reads_noteGuard (s : State) (g : PredIx) (f : Form) (l : Lane) : (s.noteGuard g).reads f l = s.srcsOf f l.ref := by
  rw [noteGuard_eq]
  exact sources_ctxs s _ _ _ _ _

theorem thread_noteGuard (s : State) (g : PredIx) (r : ThreadRef) : (s.noteGuard g).thread r = s.thread r := by
  rw [noteGuard_eq]
  rfl

/-- The checks of an instruction word that bear on its result. -/
theorem Issues.legal {s : State} {f : Form} {act : List Lane} (h : Issues s f act) :
    f.pred ≠ some 0 ∧ ∀ d w, f.dest = some (d, w) → destLegal (streamOf s.cur) w d = true := by
  have ho := h.operands
  unfold Form.operandsOk at ho
  simp only [Bool.and_eq_true] at ho
  refine ⟨fun hp => ?_, fun d w hd => ?_⟩
  · rw [hp] at ho; simp at ho
  · rw [hd] at ho; exact ho.1.1.1.2

theorem Issues.nodup {s : State} {f : Form} {act : List Lane} (h : Issues s f act) : (act.map (·.ref)).Nodup := by
  rw [← h.lanes]; exact active_nodup s _ _

/-- The base state of a result in whose active lanes AM has been raised where `am` says. -/
theorem base_am (s : State) (g : PredIx) (act : List Lane) (am : ThreadRef → Bool) (hn : (act.map (·.ref)).Nodup) :
    Base s (forEach (act.filter fun l => am l.ref) (s.noteGuard g) fun l s => s.onThread l.ref fun t =>
      { t with xstat := t.xstat ||| xstatAM }) act am := by
  have hb := base_noteGuard s g act
  have hn' : ((act.filter fun l => am l.ref).map (·.ref)).Nodup := hn.sublist (List.Sublist.map _ List.filter_sublist)
  have hx : forEach (act.filter fun l => am l.ref) (s.noteGuard g) (fun l s => s.onThread l.ref fun t =>
      { t with xstat := t.xstat ||| xstatAM })
    = { s.noteGuard g with threads := (forEach (act.filter fun l => am l.ref) (s.noteGuard g) fun l s => s.onThread l.ref fun t =>
      { t with xstat := t.xstat ||| xstatAM }).threads } := counted_rest _ _ _
  refine ⟨?_, ?_, ?_, ?_, ?_, ?_⟩
  · exact hb.besides.trans (sameBesides_forEach _ (fun l s => sameBesides_onThread s _ _) _ _)
  · intro p; rw [hx]; exact hb.ctx p
  · intro p hp; rw [hx]; exact hb.other p hp
  · intro r
    rw [forEach_refs (fun _ t => { t with xstat := t.xstat ||| xstatAM }) _ _ hn' r, thread_noteGuard]
    by_cases hr : r ∈ act.map (·.ref)
    · obtain ⟨l, hl, rfl⟩ := List.mem_map.mp hr
      rw [if_pos hr]
      by_cases ha : am l.ref = true
      · have : l.ref ∈ (act.filter fun l => am l.ref).map (·.ref) := List.mem_map_of_mem (List.mem_filter.mpr ⟨hl, ha⟩)
        rw [if_pos this, if_pos ha]
      · have : l.ref ∉ (act.filter fun l => am l.ref).map (·.ref) := by
          intro hm
          obtain ⟨y, hy, e⟩ := List.mem_map.mp hm
          rw [← e] at ha
          exact ha (List.mem_filter.mp hy).2
        rw [if_neg this, if_neg ha]
        simp
    · have : r ∉ (act.filter fun l => am l.ref).map (·.ref) := by
        intro hm
        obtain ⟨y, hy, e⟩ := List.mem_map.mp hm
        exact hr (List.mem_map.mpr ⟨y, (List.mem_filter.mp hy).1, e⟩)
      rw [if_neg hr, if_neg this]
  · rw [hx]; exact hb.groups
  · rw [hx]; exact hb.teams

theorem base_room {s s0 : State} {act : List Lane} {am : ThreadRef → Bool} (hb : Base s s0 act am)
    (hh : ∀ r, (s0.thread r).hr = (s.thread r).hr) (d : Option (Dest × Bool)) : s0.room act d = s.room act d := by
  unfold State.room
  have ht : ∀ k, s0.team k = s.team k := fun k => by unfold State.team; rw [hb.teams]
  simp only [hb.besides.cur, ht, hh]

theorem Base.hr {s s0 : State} {act : List Lane} {am : ThreadRef → Bool} (hb : Base s s0 act am) (r : ThreadRef) :
    (s0.thread r).hr = (s.thread r).hr := by
  rw [hb.thread]; split <;> rfl

/-- A member-mask instruction delivers, where the masks are legal. -/
theorem memberOp_delivers {s : State} {f : Form} {bAt : Nat}
    {fn : State → List (Lane × List DWord) → Lane × List DWord → LaneOut} {act : List Lane} {out : ThreadRef → LaneOut}
    {m : BitVec 64} {absent : Bool} (h : Issues s { f with service := false, helperBad := true } act)
    (hr : Roomy s f act out)
    (hm : s.members act (act.map fun l => (s.srcsOf f l.ref).getD bAt 0) = some (m, absent))
    (ho : ∀ s0 : State, (∀ r, s0.thread r = s.thread r) → ∀ l ∈ act,
      fn s0 ((act.map fun l => (l, s.srcsOf f l.ref)).filter fun x => m.getLsbD x.1.ix) (l, s.srcsOf f l.ref) = out l.ref) :
    ∃ t, s.memberOp f bAt fn = .next t
      ∧ Delivers s t { f with service := false, helperBad := true } act out fun _ => absent := by
  refine ⟨_, h.run _, ?_⟩
  have hmem : ∀ bs, (s.noteGuard (f.guard s.cctx.run)).members act bs = s.members act bs := by
    intro bs
    rw [noteGuard_eq]
    rfl
  have hroom : ∀ d, (s.noteGuard (f.guard s.cctx.run)).room act d = s.room act d := room_noteGuard s _ act
  have hg : Form.guard { f with service := false, helperBad := true } s.cctx.run = f.guard s.cctx.run := rfl
  simp only [hg, reads_noteGuard, List.map_map]
  have e1 : ((fun x : Lane × List DWord => x.2.getD bAt 0) ∘ fun l : Lane => (l, s.srcsOf f l.ref))
      = fun l => (s.srcsOf f l.ref).getD bAt 0 := rfl
  rw [e1, hmem, hm]
  simp only [hroom, hr.room]
  have e2 : (act.map ((fun x => (x.1, fn (s.noteGuard (f.guard s.cctx.run))
        ((act.map fun l => (l, s.srcsOf f l.ref)).filter fun x => m.getLsbD x.1.ix) x)) ∘ fun l => (l, s.srcsOf f l.ref)))
      = act.map fun l => (l, out l.ref) := by
    apply List.map_congr_left
    intro l hl
    simp only [Function.comp]
    rw [ho _ (thread_noteGuard s _) l hl]
  have lg := h.legal
  have fin : ∀ s0, Base s s0 act (fun _ => absent) →
      Delivers s (s0.commit f act (act.map fun l => (l, out l.ref))) { f with service := false, helperBad := true } act out
        fun _ => absent := by
    intro s0 hb
    exact commit_delivers (f := { f with service := false, helperBad := true }) hb h.nodup h.some_ lg.1 lg.2
      (helper_no_pop h) hr.flags (by rw [base_room hb hb.hr]; exact hr.room)
  have hb := base_am s (f.guard s.cctx.run) act (fun _ => absent) h.nodup
  cases absent with
  | false =>
    simp only [Bool.false_and, Bool.false_eq_true, if_false]
    rw [e2]
    exact fin _ (base_noteGuard s _ act)
  | true =>
    simp only [Bool.true_and, decide_true, if_true]
    rw [e2]
    rw [List.filter_eq_self.mpr (fun _ _ => rfl)] at hb
    exact fin _ hb

/-- A reduction delivers. -/
theorem reduce_delivers {s : State} {d : Dest} {a : Src} {g : PredIx} {fn : List (Nat × Word) → Nat → LaneOut}
    {act : List Lane} {out : ThreadRef → LaneOut} (h : Issues s (formLane g d [r32 a]) act)
    (hr : Roomy s (formLane g d [r32 a]) act out)
    (ho : ∀ l ∈ act, fn (act.map fun l => (l.ix, src32 (s.srcsOf (formLane g d [r32 a]) l.ref) 0)) l.ix = out l.ref) :
    ∃ t, s.reduce d a g fn = .next t ∧ Delivers s t (formLane g d [r32 a]) act out := by
  refine ⟨_, h.run _, ?_⟩
  simp only [reads_noteGuard]
  have e2 : (act.map fun l => (l, fn (act.map fun l => (l.ix, low ((s.srcsOf (formLane g d [r32 a]) l.ref).getD 0 0))) l.ix))
      = act.map fun l => (l, out l.ref) := by
    apply List.map_congr_left
    intro l hl
    rw [← ho l hl]
    rfl
  rw [e2]
  have hb := base_noteGuard s ((formLane g d [r32 a]).guard s.cctx.run) act
  exact commit_delivers hb h.nodup h.some_ h.legal.1 h.legal.2 (helper_no_pop h) hr.flags
    (by rw [base_room hb hb.hr]; exact hr.room)

/-- A shuffle delivers. -/
theorem shuffle_delivers {s : State} {d : Dest} {a b : Src} {g : PredIx} {from_ : Nat → Nat → Nat → Option Nat}
    {act : List Lane} {out : ThreadRef → LaneOut} {am : ThreadRef → Bool}
    (h : Issues s (formLane g d [r32 a, r32 b]) act) (hr : Roomy s (formLane g d [r32 a, r32 b]) act out)
    (ho : ∀ l ∈ act, (match from_ s.groupWidth l.ix (src32 (s.srcsOf (formLane g d [r32 a, r32 b]) l.ref) 1).toNat with
        | none => (({ val := (s.srcsOf (formLane g d [r32 a, r32 b]) l.ref).getD 0 0 } : LaneOut), false)
        | some j => match act.find? fun y => decide (y.ix = j) with
          | some y => (({ val := (s.srcsOf (formLane g d [r32 a, r32 b]) y.ref).getD 0 0 } : LaneOut), false)
          | none => (({ val := (s.srcsOf (formLane g d [r32 a, r32 b]) l.ref).getD 0 0 } : LaneOut), true))
      = (out l.ref, am l.ref)) :
    ∃ t, s.shuffle d a b g from_ = .next t ∧ Delivers s t (formLane g d [r32 a, r32 b]) act out am := by
  refine ⟨_, h.run _, ?_⟩
  generalize hf : formLane g d [r32 a, r32 b] = f at *
  simp only [reads_noteGuard, List.map_map]
  have hw : (s.noteGuard (f.guard s.cctx.run)).groupWidth = s.groupWidth := by rw [noteGuard_eq]; rfl
  rw [hw]
  have hfind : ∀ j, (act.map fun l => (l, s.srcsOf f l.ref)).find? (fun y => decide (y.1.ix = j))
      = (act.find? fun y => decide (y.ix = j)).map fun l => (l, s.srcsOf f l.ref) := by
    intro j
    rw [List.find?_map]
    rfl
  generalize hxs : (act.map fun l => (l, s.srcsOf f l.ref)) = xs at hfind ⊢
  have pick : ∀ l ∈ act, shufflePick from_ s.groupWidth xs (l, s.srcsOf f l.ref) = (l, out l.ref, am l.ref) := by
    intro l hl
    have := ho l hl
    unfold src32 at this
    unfold shufflePick low
    simp only
    cases hx : from_ s.groupWidth l.ix (((s.srcsOf f l.ref).getD 1 0).extractLsb' 0 32 : Word).toNat with
    | none => rw [hx] at this; simp only at this ⊢; rw [this]
    | some j =>
      rw [hx] at this
      simp only at this ⊢
      rw [hfind]
      cases hy : act.find? fun y => decide (y.ix = j) with
      | none => rw [hy] at this; simp only [Option.map] at this ⊢; rw [this]
      | some y => rw [hy] at this; simp only [Option.map] at this ⊢; rw [this]
  have e1 : act.map (shufflePick from_ s.groupWidth xs ∘ fun l => (l, s.srcsOf f l.ref))
      = act.map fun l => (l, out l.ref, am l.ref) := List.map_congr_left pick
  have e2 : act.map ((fun x : Lane × LaneOut × Bool => (x.fst, x.snd.fst)) ∘ shufflePick from_ s.groupWidth xs
        ∘ fun l => (l, s.srcsOf f l.ref)) = act.map fun l => (l, out l.ref) := by
    rw [← List.map_map, e1, List.map_map]
    rfl
  have hroom : (s.noteGuard (f.guard s.cctx.run)).room act f.dest = .ok := by rw [room_noteGuard]; exact hr.room
  rw [e1, e2, if_pos hroom]
  have e3 : forEach ((act.map fun l => (l, out l.ref, am l.ref)).filter fun x => x.snd.snd) (s.noteGuard (f.guard s.cctx.run))
        (fun x s => s.onThread x.fst.ref fun t => { t with xstat := t.xstat ||| xstatAM })
      = forEach (act.filter fun l => am l.ref) (s.noteGuard (f.guard s.cctx.run)) fun l s => s.onThread l.ref fun t =>
        { t with xstat := t.xstat ||| xstatAM } := by
    unfold forEach
    rw [List.filter_map, List.foldl_map]
    rfl
  rw [e3]
  have hb := base_am s (f.guard s.cctx.run) act am h.nodup
  exact commit_delivers hb h.nodup h.some_ h.legal.1 h.legal.2 (helper_no_pop h) hr.flags
    (by rw [base_room hb hb.hr]; exact hr.room)

end Sys2Proof.Machine
end

