-- ==== Sys2Proof/Laws/PerInstr.lean ====
section
/-! SUPPORT. The family `Encode` of LAWS.json, one lemma per instruction: an instruction has a word exactly when it is no
step of an agent. -/
namespace Sys2Proof.Laws.Encode

/-- The instruction has an encoding as a word, or it is a step of an agent, and never both. -/
def Statement (i : Instr) : Prop := (encode i).isSome = !i.isEvent

theorem add : ∀ x0 x1 x2 x3, Statement (.add x0 x1 x2 x3) := by intros; rfl
theorem addc : ∀ x0 x1 x2 x3, Statement (.addc x0 x1 x2 x3) := by intros; rfl
theorem sub : ∀ x0 x1 x2 x3, Statement (.sub x0 x1 x2 x3) := by intros; rfl
theorem subb : ∀ x0 x1 x2 x3, Statement (.subb x0 x1 x2 x3) := by intros; rfl
theorem neg : ∀ x0 x1 x2, Statement (.neg x0 x1 x2) := by intros; rfl
theorem abs : ∀ x0 x1 x2, Statement (.abs x0 x1 x2) := by intros; rfl
theorem min : ∀ x0 x1 x2 x3, Statement (.min x0 x1 x2 x3) := by intros; rfl
theorem minN : ∀ x0 x1 x2 x3, Statement (.minN x0 x1 x2 x3) := by intros; rfl
theorem max : ∀ x0 x1 x2 x3, Statement (.max x0 x1 x2 x3) := by intros; rfl
theorem maxN : ∀ x0 x1 x2 x3, Statement (.maxN x0 x1 x2 x3) := by intros; rfl
theorem addsat : ∀ x0 x1 x2 x3, Statement (.addsat x0 x1 x2 x3) := by intros; rfl
theorem addsatN : ∀ x0 x1 x2 x3, Statement (.addsatN x0 x1 x2 x3) := by intros; rfl
theorem subsat : ∀ x0 x1 x2 x3, Statement (.subsat x0 x1 x2 x3) := by intros; rfl
theorem subsatN : ∀ x0 x1 x2 x3, Statement (.subsatN x0 x1 x2 x3) := by intros; rfl
theorem and : ∀ x0 x1 x2 x3, Statement (.and x0 x1 x2 x3) := by intros; rfl
theorem or : ∀ x0 x1 x2 x3, Statement (.or x0 x1 x2 x3) := by intros; rfl
theorem xor : ∀ x0 x1 x2 x3, Statement (.xor x0 x1 x2 x3) := by intros; rfl
theorem not : ∀ x0 x1 x2, Statement (.not x0 x1 x2) := by intros; rfl
theorem andn : ∀ x0 x1 x2 x3, Statement (.andn x0 x1 x2 x3) := by intros; rfl
theorem sel : ∀ x0 x1 x2 x3, Statement (.sel x0 x1 x2 x3) := by intros; rfl
theorem mov : ∀ x0 x1 x2, Statement (.mov x0 x1 x2) := by intros; rfl
theorem shl : ∀ x0 x1 x2 x3, Statement (.shl x0 x1 x2 x3) := by intros; rfl
theorem shr : ∀ x0 x1 x2 x3, Statement (.shr x0 x1 x2 x3) := by intros; rfl
theorem sar : ∀ x0 x1 x2 x3, Statement (.sar x0 x1 x2 x3) := by intros; rfl
theorem rot : ∀ x0 x1 x2 x3, Statement (.rot x0 x1 x2 x3) := by intros; rfl
theorem fshf : ∀ x0 x1 x2 x3, Statement (.fshf x0 x1 x2 x3) := by intros; rfl
theorem bfx : ∀ x0 x1 x2 x3, Statement (.bfx x0 x1 x2 x3) := by intros; rfl
theorem bfxN : ∀ x0 x1 x2 x3, Statement (.bfxN x0 x1 x2 x3) := by intros; rfl
theorem bfi : ∀ x0 x1 x2 x3, Statement (.bfi x0 x1 x2 x3) := by intros; rfl
theorem brev : ∀ x0 x1 x2, Statement (.brev x0 x1 x2) := by intros; rfl
theorem popc : ∀ x0 x1 x2, Statement (.popc x0 x1 x2) := by intros; rfl
theorem clz : ∀ x0 x1 x2, Statement (.clz x0 x1 x2) := by intros; rfl
theorem ctz : ∀ x0 x1 x2, Statement (.ctz x0 x1 x2) := by intros; rfl
theorem bytep : ∀ x0 x1 x2 x3, Statement (.bytep x0 x1 x2 x3) := by intros; rfl
theorem mul : ∀ x0 x1 x2 x3, Statement (.mul x0 x1 x2 x3) := by intros; rfl
theorem mulh : ∀ x0 x1 x2 x3, Statement (.mulh x0 x1 x2 x3) := by intros; rfl
theorem mulhN : ∀ x0 x1 x2 x3, Statement (.mulhN x0 x1 x2 x3) := by intros; rfl
theorem mulw : ∀ x0 x1 x2 x3, Statement (.mulw x0 x1 x2 x3) := by intros; rfl
theorem mulwN : ∀ x0 x1 x2 x3, Statement (.mulwN x0 x1 x2 x3) := by intros; rfl
theorem div : ∀ x0 x1 x2 x3, Statement (.div x0 x1 x2 x3) := by intros; rfl
theorem divN : ∀ x0 x1 x2 x3, Statement (.divN x0 x1 x2 x3) := by intros; rfl
theorem rem : ∀ x0 x1 x2 x3, Statement (.rem x0 x1 x2 x3) := by intros; rfl
theorem remN : ∀ x0 x1 x2 x3, Statement (.remN x0 x1 x2 x3) := by intros; rfl
theorem sad : ∀ x0 x1 x2 x3, Statement (.sad x0 x1 x2 x3) := by intros; rfl
theorem cmp : ∀ x0 x1 x2 x3 x4, Statement (.cmp x0 x1 x2 x3 x4) := by intros; rfl
theorem cmp64 : ∀ x0 x1 x2 x3 x4, Statement (.cmp64 x0 x1 x2 x3 x4) := by intros; rfl
theorem pand : ∀ x0 x1 x2 x3, Statement (.pand x0 x1 x2 x3) := by intros; rfl
theorem por : ∀ x0 x1 x2 x3, Statement (.por x0 x1 x2 x3) := by intros; rfl
theorem pxor : ∀ x0 x1 x2 x3, Statement (.pxor x0 x1 x2 x3) := by intros; rfl
theorem pnot : ∀ x0 x1 x2, Statement (.pnot x0 x1 x2) := by intros; rfl
theorem add64 : ∀ x0 x1 x2 x3, Statement (.add64 x0 x1 x2 x3) := by intros; rfl
theorem sub64 : ∀ x0 x1 x2 x3, Statement (.sub64 x0 x1 x2 x3) := by intros; rfl
theorem mul64 : ∀ x0 x1 x2 x3, Statement (.mul64 x0 x1 x2 x3) := by intros; rfl
theorem shl64 : ∀ x0 x1 x2 x3, Statement (.shl64 x0 x1 x2 x3) := by intros; rfl
theorem shr64 : ∀ x0 x1 x2 x3, Statement (.shr64 x0 x1 x2 x3) := by intros; rfl
theorem sar64 : ∀ x0 x1 x2 x3, Statement (.sar64 x0 x1 x2 x3) := by intros; rfl
theorem lea : ∀ x0 x1 x2 x3, Statement (.lea x0 x1 x2 x3) := by intros; rfl
theorem paddI16x2 : ∀ x0 x1 x2 x3, Statement (.paddI16x2 x0 x1 x2 x3) := by intros; rfl
theorem psubI16x2 : ∀ x0 x1 x2 x3, Statement (.psubI16x2 x0 x1 x2 x3) := by intros; rfl
theorem pminI16x2 : ∀ x0 x1 x2 x3, Statement (.pminI16x2 x0 x1 x2 x3) := by intros; rfl
theorem pmaxI16x2 : ∀ x0 x1 x2 x3, Statement (.pmaxI16x2 x0 x1 x2 x3) := by intros; rfl
theorem paddI8x4 : ∀ x0 x1 x2 x3, Statement (.paddI8x4 x0 x1 x2 x3) := by intros; rfl
theorem psubI8x4 : ∀ x0 x1 x2 x3, Statement (.psubI8x4 x0 x1 x2 x3) := by intros; rfl
theorem pminI8x4 : ∀ x0 x1 x2 x3, Statement (.pminI8x4 x0 x1 x2 x3) := by intros; rfl
theorem pmaxI8x4 : ∀ x0 x1 x2 x3, Statement (.pmaxI8x4 x0 x1 x2 x3) := by intros; rfl
theorem addi : ∀ x0 x1 x2 x3, Statement (.addi x0 x1 x2 x3) := by intros; rfl
theorem andi : ∀ x0 x1 x2 x3, Statement (.andi x0 x1 x2 x3) := by intros; rfl
theorem ori : ∀ x0 x1 x2 x3, Statement (.ori x0 x1 x2 x3) := by intros; rfl
theorem xori : ∀ x0 x1 x2 x3, Statement (.xori x0 x1 x2 x3) := by intros; rfl
theorem shli : ∀ x0 x1 x2 x3, Statement (.shli x0 x1 x2 x3) := by intros; rfl
theorem shri : ∀ x0 x1 x2 x3, Statement (.shri x0 x1 x2 x3) := by intros; rfl
theorem sari : ∀ x0 x1 x2 x3, Statement (.sari x0 x1 x2 x3) := by intros; rfl
theorem cmpi : ∀ x0 x1 x2 x3 x4, Statement (.cmpi x0 x1 x2 x3 x4) := by intros; rfl
theorem movi : ∀ x0 x1 x2, Statement (.movi x0 x1 x2) := by intros; rfl
theorem leai : ∀ x0 x1 x2, Statement (.leai x0 x1 x2) := by intros; rfl
theorem mad : ∀ x0 x1 x2 x3, Statement (.mad x0 x1 x2 x3) := by intros; rfl
theorem madw : ∀ x0 x1 x2 x3, Statement (.madw x0 x1 x2 x3) := by intros; rfl
theorem madwN : ∀ x0 x1 x2 x3, Statement (.madwN x0 x1 x2 x3) := by intros; rfl
theorem dp4a : ∀ x0 x1 x2 x3, Statement (.dp4a x0 x1 x2 x3) := by intros; rfl
theorem dp4aN : ∀ x0 x1 x2 x3, Statement (.dp4aN x0 x1 x2 x3) := by intros; rfl
theorem fadd : ∀ x0 x1 x2 x3, Statement (.fadd x0 x1 x2 x3) := by intros; rfl
theorem fsub : ∀ x0 x1 x2 x3, Statement (.fsub x0 x1 x2 x3) := by intros; rfl
theorem fmul : ∀ x0 x1 x2 x3, Statement (.fmul x0 x1 x2 x3) := by intros; rfl
theorem fmin : ∀ x0 x1 x2 x3, Statement (.fmin x0 x1 x2 x3) := by intros; rfl
theorem fmax : ∀ x0 x1 x2 x3, Statement (.fmax x0 x1 x2 x3) := by intros; rfl
theorem fabs : ∀ x0 x1 x2, Statement (.fabs x0 x1 x2) := by intros; rfl
theorem fneg : ∀ x0 x1 x2, Statement (.fneg x0 x1 x2) := by intros; rfl
theorem frnd : ∀ x0 x1 x2, Statement (.frnd x0 x1 x2) := by intros; rfl
theorem fscale : ∀ x0 x1 x2 x3, Statement (.fscale x0 x1 x2 x3) := by intros; rfl
theorem faddF64 : ∀ x0 x1 x2 x3, Statement (.faddF64 x0 x1 x2 x3) := by intros; rfl
theorem fsubF64 : ∀ x0 x1 x2 x3, Statement (.fsubF64 x0 x1 x2 x3) := by intros; rfl
theorem fmulF64 : ∀ x0 x1 x2 x3, Statement (.fmulF64 x0 x1 x2 x3) := by intros; rfl
theorem fminF64 : ∀ x0 x1 x2 x3, Statement (.fminF64 x0 x1 x2 x3) := by intros; rfl
theorem fmaxF64 : ∀ x0 x1 x2 x3, Statement (.fmaxF64 x0 x1 x2 x3) := by intros; rfl
theorem fabsF64 : ∀ x0 x1 x2, Statement (.fabsF64 x0 x1 x2) := by intros; rfl
theorem fnegF64 : ∀ x0 x1 x2, Statement (.fnegF64 x0 x1 x2) := by intros; rfl
theorem frndF64 : ∀ x0 x1 x2, Statement (.frndF64 x0 x1 x2) := by intros; rfl
theorem fscaleF64 : ∀ x0 x1 x2 x3, Statement (.fscaleF64 x0 x1 x2 x3) := by intros; rfl
theorem pfaddF16x2 : ∀ x0 x1 x2 x3, Statement (.pfaddF16x2 x0 x1 x2 x3) := by intros; rfl
theorem pfsubF16x2 : ∀ x0 x1 x2 x3, Statement (.pfsubF16x2 x0 x1 x2 x3) := by intros; rfl
theorem pfmulF16x2 : ∀ x0 x1 x2 x3, Statement (.pfmulF16x2 x0 x1 x2 x3) := by intros; rfl
theorem pfminF16x2 : ∀ x0 x1 x2 x3, Statement (.pfminF16x2 x0 x1 x2 x3) := by intros; rfl
theorem pfmaxF16x2 : ∀ x0 x1 x2 x3, Statement (.pfmaxF16x2 x0 x1 x2 x3) := by intros; rfl
theorem fcmpF32 : ∀ x0 x1 x2 x3 x4, Statement (.fcmpF32 x0 x1 x2 x3 x4) := by intros; rfl
theorem fcmpF64 : ∀ x0 x1 x2 x3 x4, Statement (.fcmpF64 x0 x1 x2 x3 x4) := by intros; rfl
theorem fclassF32 : ∀ x0 x1 x2 x3, Statement (.fclassF32 x0 x1 x2 x3) := by intros; rfl
theorem fclassF64 : ∀ x0 x1 x2 x3, Statement (.fclassF64 x0 x1 x2 x3) := by intros; rfl
theorem fdiv : ∀ x0 x1 x2 x3, Statement (.fdiv x0 x1 x2 x3) := by intros; rfl
theorem fdivF64 : ∀ x0 x1 x2 x3, Statement (.fdivF64 x0 x1 x2 x3) := by intros; rfl
theorem fsqrt : ∀ x0 x1 x2, Statement (.fsqrt x0 x1 x2) := by intros; rfl
theorem fsqrtF64 : ∀ x0 x1 x2, Statement (.fsqrtF64 x0 x1 x2) := by intros; rfl
theorem frcp : ∀ x0 x1 x2, Statement (.frcp x0 x1 x2) := by intros; rfl
theorem frsq : ∀ x0 x1 x2, Statement (.frsq x0 x1 x2) := by intros; rfl
theorem fexp2 : ∀ x0 x1 x2, Statement (.fexp2 x0 x1 x2) := by intros; rfl
theorem flog2 : ∀ x0 x1 x2, Statement (.flog2 x0 x1 x2) := by intros; rfl
theorem fsin : ∀ x0 x1 x2, Statement (.fsin x0 x1 x2) := by intros; rfl
theorem fcos : ∀ x0 x1 x2, Statement (.fcos x0 x1 x2) := by intros; rfl
theorem cvt : ∀ x0 x1 x2 x3 x4, Statement (.cvt x0 x1 x2 x3 x4) := by intros; rfl
theorem cvti : ∀ x0 x1 x2 x3 x4, Statement (.cvti x0 x1 x2 x3 x4) := by intros; rfl
theorem cvtf : ∀ x0 x1 x2 x3 x4, Statement (.cvtf x0 x1 x2 x3 x4) := by intros; rfl
theorem pack8 : ∀ x0 x1 x2 x3 x4 x5, Statement (.pack8 x0 x1 x2 x3 x4 x5) := by intros; rfl
theorem unpack8 : ∀ x0 x1 x2 x3 x4 x5, Statement (.unpack8 x0 x1 x2 x3 x4 x5) := by intros; rfl
theorem cbdec : ∀ x0 x1 x2 x3, Statement (.cbdec x0 x1 x2 x3) := by intros; rfl
theorem fmaF32 : ∀ x0 x1 x2 x3, Statement (.fmaF32 x0 x1 x2 x3) := by intros; rfl
theorem fmaF64 : ∀ x0 x1 x2 x3, Statement (.fmaF64 x0 x1 x2 x3) := by intros; rfl
theorem pfmaF16x2 : ∀ x0 x1 x2 x3, Statement (.pfmaF16x2 x0 x1 x2 x3) := by intros; rfl
theorem ld : ∀ x0 x1 x2 x3, Statement (.ld x0 x1 x2 x3) := by intros; rfl
theorem st : ∀ x0 x1 x2 x3, Statement (.st x0 x1 x2 x3) := by intros; rfl
theorem ldt : ∀ x0 x1 x2 x3, Statement (.ldt x0 x1 x2 x3) := by intros; rfl
theorem stt : ∀ x0 x1 x2 x3, Statement (.stt x0 x1 x2 x3) := by intros; rfl
theorem lds : ∀ x0 x1 x2 x3 x4, Statement (.lds x0 x1 x2 x3 x4) := by intros; rfl
theorem sts : ∀ x0 x1 x2 x3 x4, Statement (.sts x0 x1 x2 x3 x4) := by intros; rfl
theorem ldm : ∀ x0 x1 x2 x3, Statement (.ldm x0 x1 x2 x3) := by intros; rfl
theorem stm : ∀ x0 x1 x2 x3, Statement (.stm x0 x1 x2 x3) := by intros; rfl
theorem pref : ∀ x0 x1 x2, Statement (.pref x0 x1 x2) := by intros; rfl
theorem atoms : ∀ x0 x1 x2 x3 x4, Statement (.atoms x0 x1 x2 x3 x4) := by intros; rfl
theorem atom : ∀ x0 x1 x2 x3 x4, Statement (.atom x0 x1 x2 x3 x4) := by intros; rfl
theorem red : ∀ x0 x1 x2 x3, Statement (.red x0 x1 x2 x3) := by intros; rfl
theorem acq : ∀ x0 x1 x2, Statement (.acq x0 x1 x2) := by intros; rfl
theorem rel : ∀ x0 x1 x2, Statement (.rel x0 x1 x2) := by intros; rfl
theorem fence : ∀ x0 x1 x2, Statement (.fence x0 x1 x2) := by intros; rfl
theorem gfence : Statement .gfence := rfl
theorem ebdr : Statement .ebdr := rfl
theorem bra : ∀ x0 x1, Statement (.bra x0 x1) := by intros; rfl
theorem brc : ∀ x0 x1, Statement (.brc x0 x1) := by intros; rfl
theorem call : ∀ x0 x1, Statement (.call x0 x1) := by intros; rfl
theorem join : ∀ x0, Statement (.join x0) := by intros; rfl
theorem brk : ∀ x0 x1 x2, Statement (.brk x0 x1 x2) := by intros; rfl
theorem ret : ∀ x0 x1, Statement (.ret x0 x1) := by intros; rfl
theorem jmpr : ∀ x0 x1, Statement (.jmpr x0 x1) := by intros; rfl
theorem exit : ∀ x0, Statement (.exit x0) := by intros; rfl
theorem voteOr : ∀ x0 x1 x2 x3, Statement (.voteOr x0 x1 x2 x3) := by intros; rfl
theorem voteAnd : ∀ x0 x1 x2 x3, Statement (.voteAnd x0 x1 x2 x3) := by intros; rfl
theorem voteEq : ∀ x0 x1 x2 x3, Statement (.voteEq x0 x1 x2 x3) := by intros; rfl
theorem ballot : ∀ x0 x1 x2 x3, Statement (.ballot x0 x1 x2 x3) := by intros; rfl
theorem elect : ∀ x0 x1 x2, Statement (.elect x0 x1 x2) := by intros; rfl
theorem matchL : ∀ x0 x1 x2 x3, Statement (.matchL x0 x1 x2 x3) := by intros; rfl
theorem voteCnt : ∀ x0 x1 x2 x3, Statement (.voteCnt x0 x1 x2 x3) := by intros; rfl
theorem shflIdx : ∀ x0 x1 x2 x3, Statement (.shflIdx x0 x1 x2 x3) := by intros; rfl
theorem shflUp : ∀ x0 x1 x2 x3, Statement (.shflUp x0 x1 x2 x3) := by intros; rfl
theorem shflDn : ∀ x0 x1 x2 x3, Statement (.shflDn x0 x1 x2 x3) := by intros; rfl
theorem shflXor : ∀ x0 x1 x2 x3, Statement (.shflXor x0 x1 x2 x3) := by intros; rfl
theorem redgAdd : ∀ x0 x1 x2, Statement (.redgAdd x0 x1 x2) := by intros; rfl
theorem redgMin : ∀ x0 x1 x2, Statement (.redgMin x0 x1 x2) := by intros; rfl
theorem redgMinN : ∀ x0 x1 x2, Statement (.redgMinN x0 x1 x2) := by intros; rfl
theorem redgMax : ∀ x0 x1 x2, Statement (.redgMax x0 x1 x2) := by intros; rfl
theorem redgMaxN : ∀ x0 x1 x2, Statement (.redgMaxN x0 x1 x2) := by intros; rfl
theorem redgAnd : ∀ x0 x1 x2, Statement (.redgAnd x0 x1 x2) := by intros; rfl
theorem redgOr : ∀ x0 x1 x2, Statement (.redgOr x0 x1 x2) := by intros; rfl
theorem redgXor : ∀ x0 x1 x2, Statement (.redgXor x0 x1 x2) := by intros; rfl
theorem redgFadd : ∀ x0 x1 x2, Statement (.redgFadd x0 x1 x2) := by intros; rfl
theorem scangAdd : ∀ x0 x1 x2, Statement (.scangAdd x0 x1 x2) := by intros; rfl
theorem scangAddx : ∀ x0 x1 x2, Statement (.scangAddx x0 x1 x2) := by intros; rfl
theorem reform : Statement .reform := rfl
theorem reformAge : ∀ x0, Statement (.reformAge x0) := by intros; rfl
theorem rgn : ∀ x0 x1 x2, Statement (.rgn x0 x1 x2) := by intros; rfl
theorem view : ∀ x0 x1, Statement (.view x0 x1) := by intros; rfl
theorem recruit : ∀ x0 x1 x2, Statement (.recruit x0 x1 x2) := by intros; rfl
theorem hwait : ∀ x0, Statement (.hwait x0) := by intros; rfl
theorem hdone : Statement .hdone := rfl
theorem barInit : ∀ x0 x1, Statement (.barInit x0 x1) := by intros; rfl
theorem barArv : ∀ x0, Statement (.barArv x0) := by intros; rfl
theorem barArvCount : ∀ x0 x1, Statement (.barArvCount x0 x1) := by intros; rfl
theorem barSyn : ∀ x0, Statement (.barSyn x0) := by intros; rfl
theorem barSynCount : ∀ x0 x1, Statement (.barSynCount x0 x1) := by intros; rfl
theorem barWt : ∀ x0, Statement (.barWt x0) := by intros; rfl
theorem barDrp : ∀ x0, Statement (.barDrp x0) := by intros; rfl
theorem gbar : Statement .gbar := rfl
theorem gbarT : Statement .gbarT := rfl
theorem tagF : ∀ x0 x1, Statement (.tagF x0 x1) := by intros; rfl
theorem tagE : ∀ x0 x1, Statement (.tagE x0 x1) := by intros; rfl
theorem prsw : ∀ x0 x1, Statement (.prsw x0 x1) := by intros; rfl
theorem cpy : ∀ x0 x1, Statement (.cpy x0 x1) := by intros; rfl
theorem zro : ∀ x0 x1, Statement (.zro x0 x1) := by intros; rfl
theorem gth : ∀ x0 x1, Statement (.gth x0 x1) := by intros; rfl
theorem sca : ∀ x0 x1, Statement (.sca x0 x1) := by intros; rfl
theorem qfnc : ∀ x0, Statement (.qfnc x0) := by intros; rfl
theorem qwt : ∀ x0, Statement (.qwt x0) := by intros; rfl
theorem fetchw : ∀ x0, Statement (.fetchw x0) := by intros; rfl
theorem append : ∀ x0 x1 x2, Statement (.append x0 x1 x2) := by intros; rfl
theorem take : ∀ x0 x1, Statement (.take x0 x1) := by intros; rfl
theorem quies : ∀ x0, Statement (.quies x0) := by intros; rfl
theorem trap : ∀ x0, Statement (.trap x0) := by intros; rfl
theorem sysc : ∀ x0, Statement (.sysc x0) := by intros; rfl
theorem syscTry : ∀ x0, Statement (.syscTry x0) := by intros; rfl
theorem rdsr : ∀ x0 x1, Statement (.rdsr x0 x1) := by intros; rfl
theorem wrsr : ∀ x0 x1, Statement (.wrsr x0 x1) := by intros; rfl
theorem rte : Statement .rte := rfl
theorem rteGrp : ∀ x0 x1, Statement (.rteGrp x0 x1) := by intros; rfl
theorem yield : Statement .yield := rfl
theorem sleep : ∀ x0, Statement (.sleep x0) := by intros; rfl
theorem locq : ∀ x0 x1, Statement (.locq x0 x1) := by intros; rfl
theorem locqPa : ∀ x0 x1, Statement (.locqPa x0 x1) := by intros; rfl
theorem ptupd : ∀ x0 x1, Statement (.ptupd x0 x1) := by intros; rfl
theorem rclm : ∀ x0 x1 x2, Statement (.rclm x0 x1 x2) := by intros; rfl
theorem mxCfg : ∀ x0, Statement (.mxCfg x0) := by intros; rfl
theorem mxLdb : ∀ x0 x1 x2, Statement (.mxLdb x0 x1 x2) := by intros; rfl
theorem mxMma : ∀ x0 x1 x2, Statement (.mxMma x0 x1 x2) := by intros; rfl
theorem mxZero : ∀ x0, Statement (.mxZero x0) := by intros; rfl
theorem mxZsk : ∀ x0 x1, Statement (.mxZsk x0 x1) := by intros; rfl
theorem mxDrain : Statement .mxDrain := rfl
theorem mxDrainConv : ∀ x0 x1, Statement (.mxDrainConv x0 x1) := by intros; rfl
theorem qpush : ∀ x0 x1 x2, Statement (.qpush x0 x1 x2) := by intros; rfl
theorem limm : ∀ x0, Statement (.limm x0) := by intros; rfl
theorem pfx : ∀ x0 x1 x2 x3 x4 x5 x6, Statement (.pfx x0 x1 x2 x3 x4 x5 x6) := by intros; rfl
theorem sch : ∀ x0 x1 x2 x3, Statement (.sch x0 x1 x2 x3) := by intros; rfl
theorem loadReply : ∀ x0, Statement (.loadReply x0) := by intros; rfl
theorem deferredCause : ∀ x0, Statement (.deferredCause x0) := by intros; rfl
theorem standbyRotation : ∀ x0, Statement (.standbyRotation x0) := by intros; rfl
theorem liveContextGrant : ∀ x0, Statement (.liveContextGrant x0) := by intros; rfl
theorem tidepoolAgeLimit : ∀ x0 x1, Statement (.tidepoolAgeLimit x0 x1) := by intros; rfl
theorem tidepoolDraw : ∀ x0 x1, Statement (.tidepoolDraw x0 x1) := by intros; rfl
theorem helperStart : ∀ x0 x1, Statement (.helperStart x0 x1) := by intros; rfl
theorem helperRelease : ∀ x0 x1, Statement (.helperRelease x0 x1) := by intros; rfl
theorem hwaitComplete : ∀ x0, Statement (.hwaitComplete x0) := by intros; rfl
theorem sleepDeadline : ∀ x0, Statement (.sleepDeadline x0) := by intros; rfl
theorem watchdogExpiry : ∀ x0, Statement (.watchdogExpiry x0) := by intros; rfl
theorem tagWaitTimeout : ∀ x0, Statement (.tagWaitTimeout x0) := by intros; rfl
theorem barrierWaitEnd : ∀ x0, Statement (.barrierWaitEnd x0) := by intros; rfl
theorem barrierRemoteArrival : ∀ x0 x1 x2 x3, Statement (.barrierRemoteArrival x0 x1 x2 x3) := by intros; rfl
theorem pairCheckpointCut : ∀ x0, Statement (.pairCheckpointCut x0) := by intros; rfl
theorem breakwaterCompare : ∀ x0, Statement (.breakwaterCompare x0) := by intros; rfl
theorem laneFailure : ∀ x0 x1, Statement (.laneFailure x0 x1) := by intros; rfl
theorem syscReply : ∀ x0, Statement (.syscReply x0) := by intros; rfl
theorem syscWaitlistWake : Statement .syscWaitlistWake := rfl
theorem mxStep : ∀ x0, Statement (.mxStep x0) := by intros; rfl
theorem mxLdbRead : ∀ x0, Statement (.mxLdbRead x0) := by intros; rfl
theorem mxZeroPerform : ∀ x0, Statement (.mxZeroPerform x0) := by intros; rfl
theorem mxDrainComplete : ∀ x0, Statement (.mxDrainComplete x0) := by intros; rfl
theorem mxZskRead : ∀ x0, Statement (.mxZskRead x0) := by intros; rfl
theorem ebbDrain : ∀ x0 x1, Statement (.ebbDrain x0 x1) := by intros; rfl
theorem ebbWindow : ∀ x0, Statement (.ebbWindow x0) := by intros; rfl
theorem cpyPerform : ∀ x0 x1, Statement (.cpyPerform x0 x1) := by intros; rfl
theorem zroPerform : ∀ x0 x1, Statement (.zroPerform x0 x1) := by intros; rfl
theorem gthPerform : ∀ x0 x1, Statement (.gthPerform x0 x1) := by intros; rfl
theorem scaPerform : ∀ x0 x1, Statement (.scaPerform x0 x1) := by intros; rfl
theorem engineQueueRetry : ∀ x0 x1, Statement (.engineQueueRetry x0 x1) := by intros; rfl
theorem qfncRelease : ∀ x0, Statement (.qfncRelease x0) := by intros; rfl
theorem fetchwAnswer : ∀ x0, Statement (.fetchwAnswer x0) := by intros; rfl
theorem quiesWake : ∀ x0, Statement (.quiesWake x0) := by intros; rfl
theorem teamComplete : ∀ x0, Statement (.teamComplete x0) := by intros; rfl
theorem pageWalk : ∀ x0 x1 x2, Statement (.pageWalk x0 x1 x2) := by intros; rfl
theorem ptupdSete : ∀ x0, Statement (.ptupdSete x0) := by intros; rfl
theorem ptupdClre : ∀ x0, Statement (.ptupdClre x0) := by intros; rfl
theorem ptupdZtab : ∀ x0, Statement (.ptupdZtab x0) := by intros; rfl
theorem fatalDieError : ∀ x0 x1, Statement (.fatalDieError x0 x1) := by intros; rfl
theorem containmentEnd : ∀ x0, Statement (.containmentEnd x0) := by intros; rfl
theorem read : ∀ x0 x1 x2, Statement (.read x0 x1 x2) := by intros; rfl
theorem write : ∀ x0 x1 x2, Statement (.write x0 x1 x2) := by intros; rfl
theorem atomic : ∀ x0 x1 x2 x3 x4 x5, Statement (.atomic x0 x1 x2 x3 x4 x5) := by intros; rfl
theorem fwd : ∀ x0 x1, Statement (.fwd x0 x1) := by intros; rfl
theorem data : ∀ x0, Statement (.data x0) := by intros; rfl
theorem close : ∀ x0 x1 x2, Statement (.close x0 x1 x2) := by intros; rfl
theorem wback : ∀ x0 x1, Statement (.wback x0 x1) := by intros; rfl
theorem err : ∀ x0 x1, Statement (.err x0 x1) := by intros; rfl
theorem hold : ∀ x0 x1, Statement (.hold x0 x1) := by intros; rfl
theorem forwardTimeout : ∀ x0, Statement (.forwardTimeout x0) := by intros; rfl
theorem requestTimeout : ∀ x0, Statement (.requestTimeout x0) := by intros; rfl
theorem notifyKick : ∀ x0 x1 x2, Statement (.notifyKick x0 x1 x2) := by intros; rfl
theorem launchRecordTake : ∀ x0, Statement (.launchRecordTake x0) := by intros; rfl
theorem teamPlace : ∀ x0 x1, Statement (.teamPlace x0 x1) := by intros; rfl
theorem teamPreempt : ∀ x0, Statement (.teamPreempt x0) := by intros; rfl
theorem teamRestore : ∀ x0 x1, Statement (.teamRestore x0 x1) := by intros; rfl
theorem scrplyStore : ∀ x0, Statement (.scrplyStore x0) := by intros; rfl
theorem sringWrite : ∀ x0, Statement (.sringWrite x0) := by intros; rfl
theorem uncorrectableMemoryError : ∀ x0 x1, Statement (.uncorrectableMemoryError x0 x1) := by intros; rfl
theorem thermalLimit : ∀ x0, Statement (.thermalLimit x0) := by intros; rfl
theorem coolantFailure : Statement .coolantFailure := rfl
theorem flitReceive : ∀ x0 x1 x2 x3 x4, Statement (.flitReceive x0 x1 x2 x3 x4) := by intros; rfl
theorem portLaneFailure : ∀ x0 x1, Statement (.portLaneFailure x0 x1) := by intros; rfl
theorem linkTraining : ∀ x0 x1 x2 x3 x4, Statement (.linkTraining x0 x1 x2 x3 x4) := by intros; rfl
theorem recoveryNotice : Statement .recoveryNotice := rfl
theorem frecovWrite : ∀ x0, Statement (.frecovWrite x0) := by intros; rfl
theorem fenceWrite : ∀ x0 x1, Statement (.fenceWrite x0 x1) := by intros; rfl
theorem pidrWrite : ∀ x0, Statement (.pidrWrite x0) := by intros; rfl
theorem hostCxlMemRead : ∀ x0 x1 x2 x3, Statement (.hostCxlMemRead x0 x1 x2 x3) := by intros; rfl
theorem hostCxlMemWrite : ∀ x0 x1 x2, Statement (.hostCxlMemWrite x0 x1 x2) := by intros; rfl
theorem hostBar0Kick : ∀ x0 x1, Statement (.hostBar0Kick x0 x1) := by intros; rfl
theorem hverWrite : ∀ x0, Statement (.hverWrite x0) := by intros; rfl
theorem atreq : ∀ x0 x1, Statement (.atreq x0 x1) := by intros; rfl
theorem reset : Statement .reset := rfl
theorem capbmWrite : ∀ x0, Statement (.capbmWrite x0) := by intros; rfl
theorem lrmWrite : ∀ x0 x1 x2, Statement (.lrmWrite x0 x1 x2) := by intros; rfl
theorem lstatWrite : ∀ x0, Statement (.lstatWrite x0) := by intros; rfl
theorem dtablWrite : ∀ x0 x1, Statement (.dtablWrite x0 x1) := by intros; rfl
theorem hbaseWrite : ∀ x0 x1, Statement (.hbaseWrite x0 x1) := by intros; rfl
theorem registerWrite : ∀ x0 x1 x2, Statement (.registerWrite x0 x1 x2) := by intros; rfl
theorem illegalEncoding : ∀ x0, Statement (.illegalEncoding x0) := by intros; rfl
theorem clusterLoss : ∀ x0 x1, Statement (.clusterLoss x0 x1) := by intros; rfl
theorem shoreDieFailure : Statement .shoreDieFailure := rfl
theorem imageSwitchComplete : Statement .imageSwitchComplete := rfl
theorem thermalLimitCleared : ∀ x0, Statement (.thermalLimitCleared x0) := by intros; rfl
theorem hostPortDown : ∀ x0, Statement (.hostPortDown x0) := by intros; rfl
theorem hostPortTraining : ∀ x0 x1 x2, Statement (.hostPortTraining x0 x1 x2) := by intros; rfl

end Sys2Proof.Laws.Encode
end

