-- ==== Sys2Proof/Tests/Slice0.lean ====
section
/-! SUPPORT. The model's own tests: ill-formed terms are refused, words written out from the spec's encodings decode to
their instructions, and for each statement of Certificates/Slice0/Obligations.lean a concrete state and operands that meet
its hypotheses. Expected values stand in the spec, at the place named. -/
namespace Sys2Proof.Tests
open Sys2Proof Sys2Proof.Machine

/-! ### Small machines -/

/-- A source slot. -/
def v (n : BitVec 5) : Src := ⟨false, false, n⟩
/-- A destination slot. -/
def vd (n : BitVec 5) : Dest := ⟨false, n⟩
/-- Service thread 0 right after reset. -/
def svc : State := State.reset
/-- A launch of `n` threads in groups of 8, with 4 KiB of scratchpad, in address space 1. -/
def launch (n : Nat) : Launch :=
  { Launch.absent with asn := 1, t := n, z := 4096, kentry := Config.imageEntry, hentry := Config.imageEntry }
/-- A TLB entry of address space 1: virtual page 1 is local page 16, with the rights to read, write and execute (R361). -/
def page : TlbEntry := ⟨1, 1, ⟨0xC00000000001001C, 0⟩⟩
/-- A team of `n` threads and a headland on core 0. -/
def team (n : Nat) : State :=
  let t : Team := { Team.fresh (launch n) 0 with ctxBase := 0x1000000, ctxSize := ctxSize (launch n) }
  ({ State.reset with teams := [(0, t)], nextId := 1, bm := false } : State).startTeam 0 (launch n) 0
    |>.onCmem 0 fun m => { m with tlb := [page] }
/-- The first group of that team issues. -/
def grp (n : Nat) : State := { team n with cur := .gang 0 0 0 }
/-- Its headland issues. -/
def hl : State := { team 1 with cur := .headland 0 }
/-- A slot below 28 of a compute thread set: with window base 4, that of reset, it is register word 4 + k (R20). -/
def put (s : State) (tid k : Nat) (x : Word) : State :=
  s.onThread (.compute 0 tid) fun t => { t with regs := tset (4 + k) x t.regs }
/-- A lane of group 0. -/
def lane (tid : Nat) : Lane := ⟨tid, .compute 0 tid⟩

/-- Every check of `Issues`, as a Bool. -/
def issuesB (s : State) (f : Form) (act : List Lane) : Bool :=
  decide (s.active s.cur (f.guard s.cctx.run) = act) && decide (act ≠ []) && f.allowed (streamOf s.cur) && !f.badEnc
    && f.hintsOk s.cctx.run && !f.denied && (!f.priv || decide (streamOf s.cur = .service))
    && f.operandsOk (streamOf s.cur) s.cctx.run && (!f.helperBad || decide (streamOf s.cur ≠ .helper))
    && decide (s.shortLanes (streamOf s.cur) f act (fun _ => true) = []) && !s.queuesShut (streamOf s.cur) f

theorem issues_of (s : State) (f : Form) (act : List Lane) (h : issuesB s f act = true) : Issues s f act := by
  simp only [issuesB, Bool.and_eq_true, decide_eq_true_eq, Bool.not_eq_true', Bool.or_eq_true] at h
  obtain ⟨⟨⟨⟨⟨⟨⟨⟨⟨⟨h1, h2⟩, h3⟩, h4⟩, h5⟩, h6⟩, h7⟩, h8⟩, h9⟩, h10⟩, h11⟩ := h
  exact ⟨h1, h2, h3, h4, h5, h6, fun hp => h7.resolve_left (by simp [hp]), h8, fun hp => h9.resolve_left (by simp [hp]), h10, h11⟩

theorem roomy_of (s : State) (f : Form) (act : List Lane) (out : ThreadRef → LaneOut)
    (h : act.all (fun l => decide ((s.thread l.ref).fmask = 0)) = true) (hr : s.room act f.dest = .ok) : Roomy s f act out := by
  refine ⟨fun l hl => ?_, hr⟩
  have := List.all_eq_true.mp h l hl
  simp only [decide_eq_true_eq] at this
  simp [trapsOn, this]

/-- The forms of a list are issued with these lanes, and their results have room whatever they are. -/
def runsAll (s : State) (act : List Lane) (fs : List Form) : Bool :=
  act.all (fun l => decide ((s.thread l.ref).fmask = 0)) && fs.all fun f => issuesB s f act && decide (s.room act f.dest = .ok)

theorem runs_of (s : State) (act : List Lane) (fs : List Form) (h : runsAll s act fs = true) :
    ∀ f ∈ fs, Issues s f act ∧ ∀ out, Roomy s f act out := by
  intro f hf
  simp only [runsAll, Bool.and_eq_true, List.all_eq_true (l := fs), decide_eq_true_eq] at h
  exact ⟨issues_of _ _ _ (h.2 f hf).1, fun out => roomy_of _ _ _ _ h.1 (h.2 f hf).2⟩

/-! ### Results -/

theorem witness_IntegerArithmeticAndLogic : runsAll (grp 8) ((upto 8).map lane)
    [formA 0 (vd 2) false [r32 (v 3)], formA 0 (vd 2) false [r32 (v 3), r32 (v 4)]] = true := by decide
/-- The lanes of the first group of a team of 8 threads. -/
def eight : List Lane := (upto 8).map lane

theorem witness_ShiftsAndFields : runsAll (grp 8) eight
    [formA 0 (vd 2) false [r32 (v 3), r32 (v 4)], formA 0 (vd 2) false [r64 (v 4), r32 (v 3)],
      { formA 0 (vd 2) false [r32 (v 3), r32 (v 4), r32 (v 2)] with bad := false }] = true := by decide

theorem witness_MultiplyDivide : runsAll (grp 8) eight
    [formA 0 (vd 2) false [r32 (v 3), r32 (v 4)], formA 0 (vd 2) true [r32 (v 3), r32 (v 4)]] = true := by decide

theorem witness_ComparesAndPredicates : runsAll (grp 8) eight
    [{ headland := true, g := 0, srcs := [r32 (v 3), r32 (v 4)], pred := some 1 },
      { headland := true, g := 0, srcs := [r64 (v 4), r64 (v 6)], pred := some 1 },
      { headland := true, g := 0, limm := true, srcs := [r32 (v 3)], pred := some 1 },
      { headland := true, g := 0, pred := some 1 }, formFcmp 1 0 [r32 (v 3), r32 (v 4)], formFcmp 1 0 [r64 (v 4), r64 (v 6)]] = true := by
  decide

theorem witness_LongAndPackedArithmetic : runsAll (grp 8) eight
    [formA 0 (vd 2) true [r64 (v 4), r64 (v 6)], formA 0 (vd 2) true [r64 (v 4), r32 (v 3)],
      { formA 0 (vd 2) false [r32 (v 3), r32 (v 4)] with headland := false }] = true := by decide

theorem witness_ImmediateForms : runsAll (grp 8) eight
    [{ formA 0 (vd 2) false [r32 (v 3)] with limm := true }, { formA 0 (vd 2) true [] with limm := true }] = true := by decide

theorem witness_ThreeSource : runsAll (grp 8) eight
    [(grp 8).formF (vd 2) (v 3) (v 5) ⟨false, 7⟩ false false false, (grp 8).formF (vd 2) (v 3) (v 5) ⟨false, 8⟩ true true true,
      (grp 8).formF (vd 2) (v 3) (v 5) ⟨false, 7⟩ false false true (hl := false)] = true := by decide

theorem witness_FloatArithmetic : runsAll (grp 8) eight
    [formFp true 0 (vd 2) false [r32 (v 3)], formFp true 0 (vd 2) false [r32 (v 3), r32 (v 5)],
      formFp true 0 (vd 2) true [r64 (v 4), r64 (v 6)], formFp true 0 (vd 2) true [r64 (v 4), r32 (v 3)],
      formFp false 0 (vd 2) false [r32 (v 3), r32 (v 5)], (grp 8).formFma true (vd 2) (v 3) (v 5) ⟨false, 7⟩ false,
      (grp 8).formFma true (vd 2) (v 4) (v 6) ⟨false, 8⟩ true] = true := by decide

theorem witness_SpecialFunctions : runsAll (grp 8) eight
    [formFp false 0 (vd 2) false [r32 (v 3), r32 (v 5)], formFp false 0 (vd 2) true [r64 (v 4), r64 (v 6)],
      formFp false 0 (vd 2) false [r32 (v 3)], formFp false 0 (vd 2) true [r64 (v 4)]] = true := by decide

theorem witness_Conversions : runsAll (grp 8) eight
    [formFp true 0 (vd 2) false [rW true (v 4)], formFp true 0 (vd 2) true [rW false (v 3)],
      { formFp false 0 (vd 2) false [rW true (v 4), r32 (v 2)] with bad := false }, formFp false 0 (vd 2) true [r32 (v 3)],
      formFp false 0 (vd 2) false [r64 (v 4)]] = true := by decide

/-- Groups whose threads name members in the pair of slot 8. -/
def naming (n : Nat) (m : Word) : State := forEach (upto n) (grp n) fun tid s => put s tid 8 m

/-- A vote's members: every lane of the group, or with four of them vacant; a mask that leaves an active lane out is
illegal. -/
theorem witness_VotesAndMatches :
    let f : Form := { service := false, helperBad := true, g := 0, srcs := [r64 (v 8)], pred := some 1 }
    let counts (wide : Bool) : Form := { service := false, helperBad := true, g := 0, srcs := [r64 (v 8)], dest := some (vd 2, wide) }
    let pairs : Form := { service := false, helperBad := true, g := 0, srcs := [r32 (v 3), r64 (v 8)], dest := some (vd 2, true) }
    let names (f : Form) (k : Nat) (s : State) (act : List Lane) : Option (BitVec 64 × Bool) :=
      s.members act (act.map fun l => (s.srcsOf f l.ref).getD k 0)
    let who := names f 0
    (runsAll (naming 8 0xFF) eight [f] = true ∧ who (naming 8 0xFF) eight = some (0xFF, false))
      ∧ (runsAll (naming 4 0xFF) (eight.take 4) [f] = true ∧ who (naming 4 0xFF) (eight.take 4) = some (0xFF, true))
      ∧ runsAll (naming 8 0xFE) eight [f, counts true, counts false, pairs] = true ∧ who (naming 8 0xFE) eight = none
      ∧ names (counts true) 0 (naming 8 0xFE) eight = none ∧ names (counts false) 0 (naming 8 0xFE) eight = none
      ∧ names pairs 1 (naming 8 0xFE) eight = none := by decide

theorem witness_Shuffles : runsAll (grp 8) eight
    [{ service := false, helperBad := true, g := 0, srcs := [r32 (v 3), r32 (v 5)], dest := some (vd 2, false) }] = true := by decide

theorem witness_ReductionsAndScans : runsAll (grp 8) eight
    [{ service := false, helperBad := true, g := 0, srcs := [r32 (v 3)], dest := some (vd 2, false) }] = true := by decide

/-! ### Issue, hints, control -/

/-- A helper of thread 0 runs in quad 1 of core 0. -/
def helping : State :=
  { grp 4 with
    cur := .helper 0 1
    helpers := [((0, 0), ⟨0, 0, 0, 0, 1, 0, Config.imageEntry, .running, false⟩)]
    recruits := [((0, 0), ⟨0, [0], []⟩)]
    ctxs := tset (.helper 0 1) (Ctx.fresh Config.imageEntry 1) (grp 4).ctxs
    threads := tset (.helper 0 0) Thread.fresh (grp 4).threads }
/-- Its lane. -/
def helperLane : Lane := ⟨0, .helper 0 0⟩
/-- Headland 0's lane, service thread 0's lane. -/
def headLane : Lane := ⟨0, .headland 0⟩
/-- See `headLane`. -/
def svcLane : Lane := ⟨0, .service 0⟩

theorem witness_PassingAndHintWords : (eight.map (·.ref)).Nodup := by decide

/-- The checks of R71, each as the first that fails: stream, mode, operands, helper. -/
theorem witness_ChecksInOrder :
    let fails (s : State) (f : Form) : List Bool :=
      [decide (s.active s.cur (f.guard s.cctx.run) ≠ []),
       f.allowed (streamOf s.cur) && !f.badEnc && f.hintsOk s.cctx.run,
       !f.denied && (!f.priv || decide (streamOf s.cur = .service)),
       f.operandsOk (streamOf s.cur) s.cctx.run,
       !(f.helperBad && decide (streamOf s.cur = .helper))]
    fails (grp 8) (formMx [r64 (v 4)]) = [true, false, true, true, true]
      ∧ fails (grp 8) { priv := true, pfxG := true } = [true, true, false, true, true]
      ∧ fails (grp 8) { priv := true, pfxG := true, cpopIsHint := true, srcs := [r64 (v 3), r32 (v 6)], dest := some (vd 2, false) }
        = [true, true, false, false, true]
      ∧ fails (grp 8) (formA 0 (vd 1) true [r64 (v 3)]) = [true, true, true, false, true]
      ∧ fails helping { service := false, helperBad := true, g := 0, srcs := [r64 (v 8)], pred := some 1 } = [true, true, true, true, false]
      ∧ illegalGuard (grp 8).cctx.run 0 = none ∧ (grp 8).lanes (grp 8).cur = eight
      ∧ (grp 8).active (grp 8).cur 1 = [] := by decide

/-- A group in which a dirty word of thread 3 holds uncorrectable data. -/
def soiled : State := (grp 8).onThread (.compute 0 3) fun t => { t with dirty := [5], bad := [5] }

theorem witness_BranchesAndJoins :
    issuesB soiled { headland := true, limm := true, g := 0 } eight = true
      ∧ (grp 8).writeBackStop eight ((grp 8).ctx (grp 8).cur).count = none
      ∧ soiled.writeBackStop eight (soiled.ctx soiled.cur).count = some (0, [lane 3])
      ∧ issuesB (grp 8) { headland := true, limm := true } eight = true ∧ issuesB (grp 8) { limm := true, g := 0 } eight = true
      ∧ (∀ p ∈ (grp 8).gang (grp 8).cur, ((grp 8).fullStack p).length + 1 ≤ stackLimit p ∧ 4 ≤ (grp 8).spillWord p 0)
      ∧ (grp 8).gang (grp 8).cur = [.gang 0 0 0, .gang 0 0 1] := by decide

/-- The stack of quad 0 is full: eight entries in the sequencer, eight spilled. -/
def fullUp : State :=
  (grp 8).onGang (.gang 0 0 0) fun c => { c with stack := (upto 8).map fun _ => ⟨true, 0xF, 0⟩, spilled := 8 }

/-- In it a predicate is true in thread 0 alone: a branch on it leaves a path behind. -/
def splitUp : State := fullUp.onThread (.compute 0 0) fun t => { t with p1 := true }

theorem witness_ReturnsJumpsAndStackLimit :
    let f : Form := { headland := true, g := 0, srcs := [r64 (v 4)] }
    let odd := put (grp 8) 3 4 2
    let far := put (grp 8) 3 5 0x10000000
    let p : Party := .gang 0 0 0
    let fs (o : Bool) : Form := { headland := o, limm := true, g := 1 }
    let room (x : Move) : Bool := decide (x.stack.length ≤ stackLimit p)
    let target (s : State) (l : Lane) : Nat := ((s.srcsOf f l.ref).getD 0 0).toNat
    issuesB (grp 8) f eight = true
      ∧ (∀ l ∈ eight, target (grp 8) l % 4 = 0 ∧ target (grp 8) l < 2 ^ 60)
      ∧ (∀ p ∈ (grp 8).gang (grp 8).cur, ((grp 8).fullStack p).length + 1 ≤ stackLimit p)
      ∧ issuesB odd f eight = true ∧ eight.filter (fun l => decide (target odd l % 4 ≠ 0)) = [lane 3]
      ∧ issuesB far f eight = true ∧ (∀ l ∈ eight, target far l % 4 = 0)
      ∧ eight.filter (fun l => decide (2 ^ 60 ≤ target far l)) = [lane 3]
      ∧ (grp 8).writeBackStop eight ((grp 8).ctx (grp 8).cur).count = none
      ∧ issuesB soiled f eight = true ∧ soiled.writeBackStop eight (soiled.ctx soiled.cur).count = some (0, [lane 3])
      ∧ issuesB fullUp f eight = true ∧ p ∈ fullUp.gang fullUp.cur
      ∧ room (fullUp.spreadPath eight (fun l => (fullUp.srcsOf f l.ref).getD 0 0) p) = false
      ∧ fullUp.writeBackStop eight (fullUp.ctx fullUp.cur).count = none
      ∧ issuesB splitUp { limm := true } eight = true ∧ room (splitUp.takenPath 0 (splitUp.trueLanes p 1) p) = false
      ∧ issuesB splitUp (fs false) [lane 0] = true ∧ room (splitUp.brokenPath 0 1 (splitUp.quadActive p [lane 0]) p) = false
      ∧ issuesB splitUp (fs true) [lane 0] = true ∧ room (splitUp.takenPath 0 (splitUp.quadActive p [lane 0]) p) = false
      ∧ issuesB fullUp { limm := true } eight = true ∧ room (fullUp.joinPath 0 p) = false
      ∧ (fullUp.gang fullUp.cur).filter (fun p => decide (stackLimit p ≤ (fullUp.fullStack p).length)) = [.gang 0 0 0, .gang 0 0 1] := by
  decide

theorem witness_Exit :
    issuesB (grp 8) { headland := true, g := 0 } eight = true ∧ (∀ l ∈ eight, (grp 8).recruitOf l = none)
      ∧ (grp 8).writeBackStop eight ((grp 8).ctx (grp 8).cur).count = none
      ∧ issuesB soiled { headland := true, g := 0 } eight = true ∧ (∀ l ∈ eight, soiled.recruitOf l = none)
      ∧ soiled.writeBackStop eight (soiled.ctx soiled.cur).count = some (0, [lane 3])
      ∧ (∀ p ∈ (grp 8).gang (grp 8).cur, ((grp 8).fullStack p).length ≤ 8)
      ∧ issuesB { helping with cur := .gang 0 0 0 } { headland := true, g := 0 } (eight.take 4) = true
      ∧ (eight.take 4).filter (fun l => (({ helping with cur := .gang 0 0 0 } : State).recruitOf l).isSome) = [lane 0] := by decide

/-! ### Loads and stores -/

/-- One thread whose slot pair 8 holds an address. -/
def at_ (a : Word) : State := put (grp 1) 0 8 a
/-- Its lane. -/
def one : List Lane := [lane 0]
/-- The owner word of the team. -/
def owner : Owner := ⟨0, 0, 0⟩
/-- One word of memory, and its state. -/
def holding (s : State) (w : Nat) (x : WordSt) : State := { s with words := tset w x s.words }

theorem reaches_of (s : State) (k : Access) (ea : DWord) (pa : Nat) (l : Leaf)
    (h : (decide (ea.toNat < 2 ^ 60) && !s.bm && decide (tlbFind (s.cmem (s.agentOf s.cur)).tlb (s.asnOf s.cur) ea.toNat = some l)
      && decide (s.checkPa (isService s.cur) k l ea.toNat = .ok pa)) = true) : s.reaches k ea pa := by
  simp only [Bool.and_eq_true, decide_eq_true_eq, Bool.not_eq_true'] at h
  obtain ⟨⟨⟨h1, h2⟩, h3⟩, h4⟩ := h
  exact ⟨h1, by rw [if_neg (by simp [h2])]; exact ⟨l, h3, h4⟩⟩

theorem not_pairWaits (s : State)
    (h : (match s.teamOf s.cur with | some tk => decide ((s.team tk).launch.grd ≠ 2) | none => true) = true) : ¬s.pairWaits := by
  rintro ⟨tk, h1, h2, -⟩
  rw [h1] at h
  simp [h2] at h

/-- A release of the issuing party can be performed, as a Bool. -/
def releases (s : State) (sc : Scope) (m : DWord) : Bool :=
  let c := s.cutNow
  (match s.teamOf s.cur with | some tk => decide ((s.team tk).launch.grd ≠ 2) | none => true)
    && !s.olderOut s.cur && !c.olderOut c.cur
    && !c.undrained (c.agentsOf c.cur) (c.partyStreams c.cur) (c.partyRefs c.cur)
      (match c.cctx.wait with | some (.release m) => m | _ => c.nextId)
    && !(c.releaseNow s.cur sc m).closing ((c.releaseNow s.cur sc m).sameOwner ((c.releaseNow s.cur sc m).ownerOf s.cur))

theorem can_release (s : State) (sc : Scope) (m : DWord) (h : releases s sc m = true) : s.canRelease sc m := by
  simp only [releases, Bool.and_eq_true, Bool.not_eq_true'] at h
  obtain ⟨⟨⟨⟨h1, h2⟩, h3⟩, h4⟩, h5⟩ := h
  cases sc
  · exact h2
  all_goals exact ⟨not_pairWaits s h1, h3, fun _ => h4, fun _ => h5⟩

/-- No request stands at the words' home slices, and no forward of them is out. -/
def still (s : State) (ws : List Nat) : Bool := ws.all fun w => !s.heldWord w && decide (s.queueOf w = [])

/-- An aligned word: nothing else overlaps it. -/
theorem word_alone (a w : Nat) (ha : a % 4 = 0) (hw : w % 4 = 0) (h1 : w < a + 4) (h2 : a < w + 4) : w = a := by omega

theorem witness_LoadsFromMemory :
    let s := holding (at_ 0x1000) 0x10000 (.closed owner 1 63 false)
    let x : LoadPart := ⟨0, .compute 0 0, 0x1000, 0x10000, 4⟩
    Memory.wf s.mem = true ∧ x.size ∈ [1, 2, 4, 8] ∧ x.size ∣ x.pa ∧ (s.cmem (s.agentOf s.cur)).ebb = []
      ∧ (∀ w, w % 4 = 0 → w < x.pa + x.size → x.pa < w + 4 → s.target w = .mem ∧ s.ownsWord (s.ownerOf s.cur) w = true
        ∧ (at_ 0x1000).wordSt w = none ∧ still (at_ 0x1000) [w] = true ∧ tget w ((at_ 0x1000).cmem 0).l1 = none
        ∧ tget w ((at_ 0x1000).die 0).near = none) ∧ s.target x.pa = .mem ∧ x.pa % 2 ^ 44 = x.pa := by
  refine ⟨by decide, by decide, by decide, by decide, fun w h0 h1 h2 => ?_, by decide, by decide⟩
  rw [word_alone 0x10000 w (by decide) h0 h1 h2]
  decide

/-- LD of a word at 0x1000: the access is permitted, and the bytes are there. -/
theorem witness_Loads :
    let s := at_ 0x1000
    let f : Form := { formM (v 8) [1] true with dest := some (vd 2, false), bad := false }
    let c := (s.begun f).checkAll s.cur .read 4 (one.map fun l => ⟨l, (s.srcsOf f l.ref).getD 0 0 + s.imm (0 : BitVec 9)⟩)
    let r := c.1.loadAll s.cur (partsOf 4 (passedOf c.2))
    issuesB s f one = true ∧ s.slow = false ∧ s.olderOut s.cur = false ∧ c.2.map (·.2) = [.ok 0x10000] ∧ r.2.map (·.2) = [.done 0]
      ∧ (s.thread (.compute 0 0)).fmask = 0 := by decide

theorem witness_LoadAndStoreMultiple :
    let s := holding (holding (at_ 0x1000) 0x10000 (.closed owner 1 63 false)) 0x10004 (.closed owner 1 63 false)
    let f := formMulti (vd 2) (v 8) 2 false
    let fl := formMulti (vd 2) (v 8) 2 true
    let ea (i : Nat) : DWord := (s.srcsOf f (.compute 0 0)).getD 0 0 + s.imm (0 : BitVec 9) + BitVec.ofNat 64 (4 * i)
    issuesB s f one = true ∧ s.slow = false ∧ (s.ctx s.cur).count = 0 ∧ (s.cmem (s.agentOf s.cur)).ebb = []
      ∧ issuesB s fl one = true ∧ (s.srcsOf fl (.compute 0 0)).getD 0 0 = (s.srcsOf f (.compute 0 0)).getD 0 0
      ∧ s.admitted s.cur 8 = .yes
      ∧ ∀ i, i < 2 → (ea i).toNat % 4 = 0 ∧ s.reaches .read (ea i) (0x10000 + 4 * i) ∧ s.reaches .write (ea i) (0x10000 + 4 * i)
          ∧ s.holdsWord (0x10000 + 4 * i) := by
  refine ⟨by decide, by decide, by decide, by decide, by decide, by decide, by decide, fun i hi => ?_⟩
  obtain rfl | rfl : i = 0 ∨ i = 1 := by omega
  · exact ⟨by decide, reaches_of _ _ _ _ page.leaf (by decide), reaches_of _ _ _ _ page.leaf (by decide), by decide, by decide⟩
  · exact ⟨by decide, reaches_of _ _ _ _ page.leaf (by decide), reaches_of _ _ _ _ page.leaf (by decide), by decide, by decide⟩

theorem witness_Stores :
    let s := at_ 0x1000
    let f : Form := { formM (v 8) [2] true with srcs := [⟨⟨false, false, 2⟩, false, false⟩, rBase (v 8)], bad := false }
    let c := (s.begun f).checkAll s.cur .write 4 (one.map fun l => ⟨l, (s.srcsOf f l.ref).getD 1 0 + s.imm (0 : BitVec 9)⟩)
    let bytes := (passedOf c.2).flatMap fun x => storeBytes x 4 0x12345678
    issuesB s f one = true ∧ isRel (s.ctx s.cur).run = false ∧ c.2.map (·.2) = [.ok 0x10000]
      ∧ c.1.admitted s.cur 4 = .yes ∧ c.1.atomAhead (passedOf c.2) 4 = false ∧ (c.1.storeEntries s.cur bytes false).length = 1
      ∧ (s.cmem 0).ebb = [] ∧ (s.thread (.compute 0 0)).fmask = 0 := by decide

/-- A store of one byte stands in the ebb queue of core 0. -/
def stored (k : EbbKind) : State :=
  (grp 1).onCmem 0 fun m => { m with ebb := [⟨5, 5, .group 0 0, some 0, owner, 1, 63, 0x10000, false, k⟩] }

theorem witness_StoreDrains :
    let k : EbbKind := .store [⟨0x10000, 0x1000, 0xAB, 0, .compute 0 0, 0⟩] false
    let s := stored k
    Memory.wf s.mem = true
      ∧ ((s.cmem 0).ebb.find? (fun x => decide (x.seq = 5))).map (fun e => (e.held, e.kind, oldestOfStream (s.cmem 0).ebb e)) =
        some (false, k, true)
      ∧ s.target 0x10000 = .mem ∧ s.poisoned 0x10000 = false ∧ s.contained 0x10000 = false ∧ s.wordSt 0x10000 = none
      ∧ still s [0x10000] = true ∧ (holding s 0x10000 (.open_ owner 1 63)).ownsWord owner 0x10000 = true := by decide

theorem witness_AtomicsEnter :
    let s := at_ 0x1000
    let f : Form := { pfxG := true, ords := [1, 2, 3], scope0 := true, srcs := [r64 (v 8), ⟨v 2, false, false⟩], dest := some (vd 3, false)
                      bad := false }
    let c := (s.begun f).checkAll s.cur .atomic 4 (one.map fun l => ⟨l, (s.srcsOf f l.ref).getD 0 0⟩)
    let parts := c.1.atomParts (vd 3) (v 2) false .add true (passedOf c.2)
    issuesB s f one = true ∧ issuesB s { f with ords := [2], dest := none } one = true ∧ isRel (s.ctx s.cur).run = false
      ∧ c.2.map (·.2) = [.ok 0x10000] ∧ c.1.admitted s.cur (atomAsk false .add 1) = .yes ∧ c.1.atomAhead (passedOf c.2) 4 = false
      ∧ (c.1.atomEntries s.cur parts).length = 1 ∧ s.guardOf s.cur = 0 ∧ s.inShadow = false := by decide

theorem witness_AtomicDrainsAndReplies :
    let x : AtomPart := ⟨0, .compute 0 0, 0x1000, 0x10000, .add, false, 1, 0, true⟩
    let waits (got : List (ThreadRef × DWord)) : Wait := .atom 5 (vd 3) false [⟨0, .compute 0 0, 0x1000, 0x10000, 4⟩] got [] none []
    let s := (stored (.atoms [x])).onCtx (.gang 0 0 0) fun c => { c with wait := some (waits []) }
    let u := (grp 1).onCtx (.gang 0 0 0) fun c => { c with wait := some (waits [(.compute 0 0, 7)]) }
    (Memory.wf s.mem = true ∧ (s.cmem 0).ebb.length = 1 ∧ still s [0x10000] = true ∧ (s.cmem 0).ebb.all (oldestOfStream (s.cmem 0).ebb) = true
      ∧ s.target 0x10000 = .mem ∧ atomWords 0x10000 false = [0x10000] ∧ s.poisoned 0x10000 = false ∧ s.contained 0x10000 = false
      ∧ s.wordSt 0x10000 = none ∧ (s.ctx s.cur).wait = some (waits []) ∧ (s.ctxs.map (·.1)).Nodup)
      ∧ (u.ctx u.cur).wait = some (waits [(.compute 0 0, 7)]) ∧ u.atomsOf (u.agentOf u.cur) 5 = [] ∧ u.guardOf u.cur = 0 ∧ (u.team 0).pair = .none := by decide

/-- A word of the group's own stands open, one is in its L1, and nothing of it is out. -/
theorem witness_AcquiresAndReleases :
    let f := formOrder true (v 0)
    let s := holding ((grp 1).onCmem 0 fun m => { m with l1 := [(8, ⟨3, 1, 2⟩)] }) 0x10000 (.open_ owner 1 2)
    issuesB s f one = true ∧ s.olderOut s.cur = false ∧ s.guardOf s.cur = 0 ∧ streamOf s.cur ≠ .helper ∧ (s.cmem 0).ebb = []
      ∧ s.fab.requests = [] ∧ s.guestRegs = [] ∧ s.sameOwner (s.ownerOf s.cur) owner = true ∧ s.asnOf s.cur = 1
      ∧ (s.begun f).canRelease .system allRegions ∧ (s.begun f).canRelease .group allRegions
      ∧ issuesB helping f [helperLane] = true ∧ streamOf helping.cur = .helper := by
  exact ⟨by decide, by decide, by decide, by decide, by decide, by decide, by decide, by decide, by decide,
    can_release _ _ _ (by decide), can_release _ _ _ (by decide), by decide, by decide⟩

theorem witness_HintsAndDrains :
    let f : Form := { headland := true, pfxG := true }
    let s := grp 1
    issuesB s { pfxG := true, limm := true, srcs := [rBase (v 8)], bad := false } one = true
      ∧ issuesB s { pfxG := true } one = true ∧ (s.begun { pfxG := true }).olderOut s.cur = false
      ∧ issuesB s f one = true ∧ ¬(s.begun f).pairWaits ∧ ((s.begun f).cutNow.cmem 0).ebb = []
      ∧ issuesB helping f [helperLane] = true := by
  exact ⟨by decide, by decide, by decide, by decide, not_pairWaits _ (by decide), by decide, by decide⟩

/-! ### Scratchpad, regrouping, helpers -/

/-- One thread with an offset in slot pair 8 may access that word of its scratchpad, by LDS, STS and ATOMS. -/
def mayAccess (a : Word) : Bool :=
  let fl : Form := { formM (v 8) [1] true with dest := some (vd 2, false), bad := false }
  let fs : Form := { formM (v 8) [2] true with srcs := [⟨⟨false, false, 2⟩, false, false⟩, rBase (v 8)], bad := false }
  let fa : Form := { pfxG := true, ords := [1, 2, 3], srcs := [r64 (v 8), ⟨v 2, false, false⟩], dest := some (vd 3, false), bad := false }
  let s := at_ a
  let ea (f : Form) (k : Nat) : Nat := ((s.srcsOf f (.compute 0 0)).getD k 0 + s.imm (0 : BitVec 9)).toNat
  decide (s.teamOf s.cur = some 0) && !s.tagAhead 0 s.tagOrder && issuesB s fl one && issuesB s fs one && issuesB s fa one
    && !isRel (s.ctx s.cur).run && !s.olderOut s.cur && decide ((s.team 0).padBad = []) && [ea fl 0, ea fs 1, ea fa 0].all (fun x => decide (x % 4 = 0 ∧ x + 4 ≤ (s.team 0).launch.z))

/-- The first and the last word of a scratchpad of 4096 bytes. -/
theorem witness_ScratchpadAccesses : mayAccess 0 = true ∧ mayAccess 4092 = true ∧ ((at_ 0).team 0).full = []
    ∧ (((at_ 0).onTeam 0 fun t => { t with full := [0, 4092] }).team 0).full = [0, 4092] := by decide

/-- Word 8 of the scratchpad holds uncorrectable data, and the thread's address names it. -/
def spoilt : State := (at_ 8).onTeam 0 fun t => { t with padBad := [8] }

theorem witness_TagsAndScratchpadTraps :
    let f := formTag (v 8) (v 5)
    let s := put (at_ 4088) 0 5 2
    let two (a : Word) : State := put (at_ a) 0 5 2
    let fs : Form := { formM (v 8) [2] true with srcs := [⟨⟨false, false, 2⟩, false, false⟩, rBase (v 8)], bad := false }
    let fa : Form := { pfxG := true, ords := [1, 2, 3], srcs := [r64 (v 8), ⟨v 5, false, false⟩], dest := some (vd 2, false), bad := false }
    let ea (s : State) (f : Form) (k : Nat) : Nat := ((s.srcsOf f (.compute 0 0)).getD k 0).toNat
    let fl : Form := { formM (v 8) [1] true with dest := some (vd 2, false), bad := false }
    issuesB s f one = true ∧ s.tagAhead 0 s.tagOrder = false
      ∧ ((s.srcsOf f (.compute 0 0)).getD 0 0).toNat + 4 * (((s.srcsOf f (.compute 0 0)).getD 1 0).toNat % 2 ^ 32) ≤ (s.team 0).launch.z
      ∧ (upto 2).all (fun x => (s.team 0).present ((4088 + x) / 64)) = true
      ∧ issuesB (at_ 4098) fl one = true ∧ ((at_ 4098).srcsOf fl (.compute 0 0)).getD 0 0 + (at_ 4098).imm (0 : BitVec 9) = 4098
      ∧ issuesB (at_ 4096) fl one = true ∧ (at_ 4096).padSize < 4096 + 4
      ∧ issuesB spoilt fl one = true ∧ spoilt.padSize = 4096 ∧ (spoilt.team 0).launch.grd = 0 ∧ spoilt.tagAhead 0 spoilt.tagOrder = false
      ∧ one.filter (fun _ => (spoilt.team 0).badRange 8 4) = one ∧ issuesB spoilt fa one = true ∧ ea spoilt fa 0 = 8
      ∧ isRel (spoilt.ctx spoilt.cur).run = false ∧ isAcq (spoilt.ctx spoilt.cur).run = false
      ∧ [4098, 4096].all (fun a => issuesB (two a) fs one && issuesB (two a) fa one && issuesB (two a) f one
          && decide (ea (two a) fs 1 = a.toNat ∧ ea (two a) fa 0 = a.toNat ∧ ea (two a) f 0 = a.toNat ∧ ea (two a) f 1 = 2)) = true := by
  decide

/-- A window at either end of a register space of 64 words, one past it, a good and a bad view, and a first pool. -/
theorem witness_WindowsAndReform :
    let s := grp 1
    let fv := formRegroup [r64 (v 8)]
    let dirty := s.onThread (.compute 0 0) fun t => { t with dirty := [5], bad := [5] }
    s.writeBackStop one (s.ctx s.cur).count = none ∧ dirty.writeBackStop one (dirty.ctx dirty.cur).count = some (0, one)
      ∧ issuesB dirty (formRegroup []) one = true
      ∧ issuesB s { formRegroup [] with badEnc := false } one = true ∧ (s.team 0).launch.s / 4 = 64
      ∧ issuesB s fv one = true ∧ viewBad 64 0 = false ∧ viewBad 64 0xFFFFFFFFFFFFFFFF = true
      ∧ issuesB s (formRegroup []) one = true ∧ (∀ l ∈ one, s.recruitOf l = none) ∧ s.olderWrites s.cur = false
      ∧ (s.releaseOn 0 0).helpersOn 0 0 = [] ∧ ((s.team 0).poolFor 0 (Config.imageEntry + 4)).isSome = true
      ∧ (∀ p ∈ s.gang s.cur, (s.fullStack p).length ≤ 8) := by decide

theorem witness_Helpers :
    let fr : Form := { service := false, helperBad := true, pfxG := true, srcs := [r64 (v 8), r32 (v 5)], late := true, bad := false }
    let fh : Form := { service := false, helperBad := true, pfxG := true, bad := false }
    let fd : Form := { service := false, pfxG := true }
    let s := at_ 0x1000
    let h (st : HelperSt) (leaves : Bool) : Helper := ⟨0, 0, 0, 0, 1, 0, Config.imageEntry, st, leaves⟩
    let open_ (st : HelperSt) : State := { helping with cur := .gang 0 0 0, helpers := [((0, 0), h st false)] }
    let act := eight.take 4
    let parked := (open_ .released).onCtx (.gang 0 0 0) fun c => { c with wait := some (.hwait (vd 2)), gang := [0] }
    let waits := (open_ .running).onCtx (.gang 0 0 0) fun c => { c with wait := some (.hwait (vd 2)), gang := [0] }
    let leaving : State := { helping with helpers := [((0, 0), h .running true)] }
    let again := { at_ 0x1000 with recruits := helping.recruits }
    let entry : EbbEntry := ⟨5, 5, .helper 0 0, some 0, owner, 1, 63, 0x10000, true, .store [⟨0x10000, 0x1000, 0xAB, 0, .helper 0 0, 0⟩] false⟩
    let holds := helping.onCmem 0 fun m => { m with ebb := [entry] }
    (issuesB s fr one = true ∧ s.olderOut s.cur = false ∧ s.recruitOf (lane 0) = none ∧ (s.thread (.compute 0 0)).tid = 0
        ∧ ((s.srcsOf fr (.compute 0 0)).getD 0 0).toNat = 0x1000)
      ∧ (issuesB (at_ 0x1002) fr one = true ∧ ((at_ 0x1002).srcsOf fr (.compute 0 0)).getD 0 0 = 0x1002
        ∧ issuesB (put (at_ 0) 0 9 0x10000000) fr one = true
        ∧ ((put (at_ 0) 0 9 0x10000000).srcsOf fr (.compute 0 0)).getD 0 0 = 2 ^ 60
        ∧ issuesB again fr one = true ∧ (again.recruitOf (lane 0)).isSome = true ∧ (again.srcsOf fr (.compute 0 0)).getD 0 0 = 0x1000)
      ∧ (issuesB (open_ .completed) fh act = true ∧ (act.map (·.ref)).Nodup ∧ ((open_ .completed).recruitOf (lane 0)).map (·.frames) = some [0]
        ∧ (∀ l ∈ act.drop 1, (open_ .completed).recruitOf l = none) ∧ ((open_ .completed).helper 0 0).st = .completed)
      ∧ (issuesB (open_ .running) fh act = true ∧ (open_ .running).hwaitReady act = false)
      ∧ ((parked.ctx parked.cur).wait = some (.hwait (vd 2)) ∧ parked.waitLanes parked.cur = act ∧ (parked.helper 0 0).st = .released)
      ∧ (issuesB (open_ (.faulted 0x0D)) fh act = true ∧ (open_ (.faulted 0x0D)).hwaitReady act = true
        ∧ ((open_ (.faulted 0x0D)).helper 0 0).st = .faulted 0x0D)
      ∧ ((waits.ctx waits.cur).wait = some (.hwait (vd 2)) ∧ waits.hwaitReady (waits.waitLanes waits.cur) = false)
      ∧ issuesB holds fd [helperLane] = true ∧ (holds.cmem 0).ebb = [entry] ∧ issuesB (grp 1) fd one = true ∧ streamOf (grp 1).cur ≠ .helper
      ∧ (helping.helpers.map (·.1)).Nodup
      ∧ helping.releasable 0 (helping.helper 0 0) = false ∧ leaving.releasable 0 (leaving.helper 0 0) = true := by decide +kernel

/-! ### Barriers, engines, compaction -/

/-- Team 0 changed in the state of one thread with an address in slot pair 8. -/
def withTeam (a : Word) (f : Team → Team) : State := (at_ a).onTeam 0 f
/-- A barrier record in use, with its expected and arrived counts. -/
def bar (exp arr : Nat) (broken : Bool) : State :=
  withTeam 0 fun t => { t with barriers := [(2, ⟨broken, false, false, true, 0, exp, arr, [0], []⟩)] }

/-- Quad 1 of a group has ended its wait on a barrier, an older load of quad 0 is still out. -/
def trailing : State :=
  ((grp 8).onCtx (.gang 0 0 0) fun c => { c with wait := some (.load (vd 2) (.ld .n32) [] none []), gang := [0], order := 1 }).onCtx
    (.gang 0 0 1) fun c => { c with wait := some (.barrier 2 true (some false)), gang := [1], order := 2 }

theorem witness_BarriersAndWaits :
    let f0 := formBar true []
    let f1 := formBar true [r32 (v 5)]
    let fd := formBar false []
    let s := at_ 0
    let count (x : Word) : State := put s 0 5 x
    let gb := (s.onTeam 0 fun t => { t with gbarArrived := [0] }).onCtx (.gang 0 0 0) fun c => { c with wait := some (.gbar false (some false)) }
    let member := withTeam 0 fun t => { t with barriers := [(2, ⟨false, false, false, true, 0, 2, 1, [0], [0]⟩)] }
    let ended (n : Bool) : State := (bar 1 0 n).onCtx (.gang 0 0 0) fun c => { c with wait := some (.barrier 2 true (some n)) }
    (s.teamOf s.cur = some 0 ∧ (s.ctx s.cur).blocked = false ∧ issuesB s f0 one = true ∧ issuesB s f1 one = true ∧ issuesB s fd one = true)
      ∧ ([0, 1, 2048, 2049].map fun x => (src32 ((count x).srcsOf f1 (.compute 0 0)) 0).toNat) = [0, 1, 2048, 2049]
      ∧ (((bar 2 0 false).team 0).barrier 2).init = true ∧ (((bar 2 0 false).team 0).barrier 2).broken = false
      ∧ (((bar 2 0 true).team 0).barrier 2).broken = true ∧ ((s.team 0).barrier 2).init = false
      ∧ ((bar 2 0 false).begun f0).canRelease .die allRegions ∧ (s.begun fd).canRelease .package allRegions
      ∧ (issuesB member fd one = true ∧ ((member.team 0).barrier 2).arrived = [0] ∧ ((member.team 0).barrier 2).members = [0])
      ∧ (tget 0 s.teams).isSome = true ∧ (s.team 0).ended = false ∧ (s.teams.map (·.1)).Nodup
      ∧ s.recordOf (s.team 0).launch = none ∧ s.liveTids 0 = [0]
      ∧ ((gb.ctx gb.cur).wait = some (.gbar false (some false)) ∧ gb.waitLanes gb.cur = one ∧ gb.gridBroken 0 = false)
      ∧ (((ended true).ctx (.gang 0 0 0)).wait = some (.barrier 2 true (some true)) ∧ (ended false).waitLanes (.gang 0 0 0) = one
        ∧ (ended false).olderOut (.gang 0 0 0) = false ∧ trailing.olderOut (.gang 0 0 1) = true
        ∧ (trailing.ctx (.gang 0 0 1)).wait = some (.barrier 2 true (some false)) ∧ ((trailing.team 0).barrier 2).broken = false) := by
  exact ⟨by decide, by decide, by decide, by decide, by decide, by decide, can_release _ _ _ (by decide),
    can_release _ _ _ (by decide), by decide, by decide, by decide, by decide, by decide, by decide, by decide, by decide⟩

/-- A command as its acceptance leaves it. -/
def cmd (k : EngKind) (d : Nat) : EngCmd := ⟨3, k, natBytes (descSize k) d, Config.imageEntry, 0, 0, .compute 0 0, 0, 0, 0, 0, [], false⟩
/-- CPY of two words from scratchpad 0x100 to virtual address 0x1000 (R328). -/
def copyOut : Nat := 0x100 + 0x1000 * 2 ^ 64 + 2 ^ 138 + 2 * 2 ^ 139 + 2 ^ 141 + 2 * 2 ^ 160
/-- CPY of two words from virtual address 0x1000 to scratchpad 0x100. -/
def copyIn : Nat := 0x1000 + 0x100 * 2 ^ 64 + 2 ^ 137 + 2 * 2 ^ 139 + 2 ^ 141 + 2 * 2 ^ 160
/-- ZRO of two words of scratchpad, or of memory. -/
def zeroPad : Nat := 0x100 * 2 ^ 64 + 2 ^ 137 + 2 * 2 ^ 139 + 2 ^ 141 + 2 * 2 ^ 160
/-- See `zeroPad`. -/
def zeroMem : Nat := 0x1000 * 2 ^ 64 + 2 * 2 ^ 139 + 2 ^ 141 + 2 * 2 ^ 160
/-- GTH of one row of four bytes, of four rows at 0x1000, by an index in scratchpad, into scratchpad (dk 1) or a stream (dk 0),
and SCA of one word from scratchpad (R330). -/
def gather (dk : Nat) : Nat := 0x1000 + 0x300 * 2 ^ 64 + 0x400 * 2 ^ 128 + 2 ^ 192 + 4 * 2 ^ 224 + 4 * 2 ^ 256 + 4 * 2 ^ 288 + dk * 2 ^ 323 + 2 ^ 328
/-- See `gather`. -/
def scatter : Nat := gather 0 + 2 ^ 329

/-- A descriptor at scratchpad offset 0 is taken by queue 0. -/
def accepts (k : EngKind) (d : Nat) : Bool :=
  let s := withTeam 0 fun t => { t with pad := (upto (descSize k)).map fun i => (i, (natBytes (descSize k) d).getD i 0) }
  let f := formEngine (v 8) (decide (k = .cpy) || decide (k = .zro))
  let desc := (s.team 0).padBytes ((s.srcsOf f (.compute 0 0)).getD 0 0).toNat (descSize k)
  issuesB s f one && !s.guardedHelper && decide (desc = natBytes (descSize k) d) && !malformed k true desc
    && (alignedVals k desc).all (fun x => decide (x.1 % x.2 = 0))
    && (padRanges k desc).all (fun x => decide (0 ≤ x.2.1 ∧ x.2.2 ≤ ((s.team 0).launch.z : Int)))
    && decide (((s.team 0).engine 0).halted = none) && decide (((s.team 0).engine 0).entries = [])

/-- A queue halted on cause 5, one that holds a command, one that is empty. -/
def queue (halted : Option (BitVec 8 × Nat × BitVec 24)) (es : List EngEntry) : State :=
  withTeam 0 fun t => { t with engines := [(0, ⟨[], es, none, halted⟩)] }

theorem witness_EngineInstructions :
    let ff : Form := { headland := true, service := false, pfxG := true }
    let fw : Form := { formEngine (v 8) false with bad := false }
    let s := at_ 0
    (accepts .cpy copyOut = true ∧ accepts .zro zeroPad = true ∧ accepts .gth (gather 1) = true
        ∧ accepts .sca scatter = true)
      ∧ ¬(s.begun ff).pairWaits ∧ ¬(s.begun (formEngine (v 8) false)).pairWaits
      ∧ issuesB s ff one = true ∧ issuesB s (formEngine (v 8) false) one = true ∧ maskQueues 1 = [0]
      ∧ (((queue none [.cmd (cmd .cpy copyOut)]).team 0).engine 0).entries.length = 1
      ∧ (((queue (some (5, 0, 0)) []).team 0).engine 0).halted = some (5, 0, 0)
      ∧ s.guardedHelper = false ∧ s.inShadow = false ∧ (s.team 0).pair = .none ∧ 0 + 16 ≤ (s.team 0).launch.z
      ∧ ((at_ 8).srcsOf fw (.compute 0 0)).getD 0 0 = 8 ∧ issuesB s fw one = true ∧ ¬(s.begun fw).pairWaits := by
  exact ⟨by decide +kernel, not_pairWaits _ (by decide), not_pairWaits _ (by decide), by decide, by decide, by decide, by decide, by decide,
    by decide, by decide, by decide, by decide, by decide, by decide, not_pairWaits _ (by decide)⟩

/-- A command stands at the head of queue 0; its words of memory are in reach. -/
def heads (k : EngKind) (d : Nat) (access : Access) : Bool :=
  let s := queue none [.cmd (cmd k d)]
  decide (s.engineHead 0 0 k = some (cmd k d)) && decide (tlbFind (s.cmem (s.team 0).core).tlb (s.team 0).launch.asn 0x1000 = some page.leaf)
    && decide (s.checkPa false access page.leaf 0x1000 = .ok 0x10000) && decide (s.target 0x10000 = .mem) && still s [0x10000]
    && decide ((s.team 0).padBad = []) && decide (((s.team 0).engine 0).trans = [])
    && !s.contained 0x10000 && !s.poisoned 0x10000 && decide (s.wordSt 0x10000 = none)

theorem witness_EngineSteps :
    let d := copyDesc (natBytes 128 copyOut)
    let g := gatherDesc (natBytes 64 (gather 1))
    (heads .cpy copyOut .write = true ∧ d.ssp = true ∧ d.dsp = false ∧ d.size = 4 ∧ shapeAddr (d.dstAt 0) = 0x1000
        ∧ (copyDesc (natBytes 128 copyIn)).ssp = false ∧ shapeAddr ((copyDesc (natBytes 128 copyIn)).srcAt 0) = 0x1000)
      ∧ (heads .cpy copyIn .read = true ∧ heads .zro zeroPad .write = true ∧ heads .zro zeroMem .write = true)
      ∧ (heads .gth (gather 1) .read = true ∧ heads .gth (gather 0) .read = true ∧ g.dk = 1 ∧ g.isp = true ∧ g.rowb = 4 ∧ g.nidx = 1
        ∧ g.nrows = 4 ∧ g.base = 0x1000 ∧ 0 < g.nrows)
      ∧ (heads .sca scatter .atomic = true ∧ (cmd .sca scatter).units = 1)
      ∧ (((queue none [.cmd { cmd .gth (gather 0) with row := [7] }]).engineHead 0 0 .gth).map (·.row) = some [7]
        ∧ ((queue none []).thread (.compute 0 0)).live = true
        ∧ (((queue none []).onThread (.compute 0 0) fun t => { t with live := false }).thread (.compute 0 0)).live = false
        ∧ heads .gth (gather 2 + 0xD00 * 2 ^ 64) .write = true)
      ∧ (((queue none [.fence 4 1]).team 0).engine 0).headFence = some 4
      ∧ (({ (queue none []) with teams := [(0, { (queue none []).team 0 with fetches := [0] })] } : State).team 0).fetches = [0]
      ∧ ((queue none []).team 0).resident = true := by decide +kernel

/-- Address space 1 has lists of four items, of which list 0 holds one where asked. -/
def lists (held : List (List Word)) : State :=
  { at_ 0 with pkg := { Package.reset with work := [(1, ⟨true, 2, [(0, held)], []⟩)] } }

theorem witness_Compaction :
    let fa : Form := { formWork (v 8) with bad := false }
    let fq := formWork (v 8)
    let s := lists []
    let leased := { s with threads := tset (.compute 0 1) { Thread.fresh with lease := some ⟨1, 0⟩ } s.threads }
    let waiting := s.onCtx (.gang 0 0 0) fun c => { c with wait := some (.quies 0 []) }
    (s.teamOf s.cur = some 0 ∧ (s.team 0).pair = .none ∧ issuesB s fa one = true ∧ issuesB s fq one = true
        ∧ (s.workLists (s.asnOf s.cur)).valid = true ∧ ((at_ 0).workLists 1).valid = false ∧ s.guardedHelper = false ∧ s.inShadow = false)
      ∧ ¬(s.begun fa).pairWaits ∧ (s.begun fa).canRelease .package allRegions
      ∧ ((s.workLists 1).items 0 = [] ∧ ((lists [[9]]).workLists 1).items 0 = [[9]] ∧ (one.map fun l => (src32 (s.srcsOf fq l.ref) 0).toNat % 256) = [0])
      ∧ (leased.thread (.compute 0 1)).lease = some ⟨1, 0⟩ ∧ leased.shadowRef (.compute 0 1) = false
      ∧ (s.threads.map (·.1)).Nodup ∧ (s.workLists 1).inFlight = []
      ∧ (waiting.ctx waiting.cur).wait = some (.quies 0 []) ∧ s.quiescent 1 = true ∧ leased.quiescent 1 = false := by
  exact ⟨by decide, not_pairWaits _ (by decide), can_release _ _ _ (by decide), by decide, by decide, by decide, by decide,
    by decide, by decide, by decide, by decide⟩

/-! ### Traps, special registers, system calls, tables -/

theorem witness_Exceptions :
    let f : Form := { headland := true, pfxG := true }
    let twice := svc.onService 0 fun x => { x with einfo := 2 ^ 63 }
    issuesB (grp 8) f eight = true ∧ issuesB hl f [headLane] = true ∧ issuesB svc f [svcLane] = true ∧ issuesB helping f [helperLane] = true
      ∧ (∀ l ∈ eight, l.ix < 64) ∧ Memory.wf (grp 8).mem = true ∧ ((grp 8).team 0).ctxBase = 0x1000000
      ∧ (upto 32).all (fun i => !(grp 8).isLost ((0x1000080 + i) / 4 * 4) && (grp 8).devReady ((0x1000080 + i) / 4 * 4)) = true
      ∧ (grp 8).devPending = []
      ∧ (svc.service 0).einfo.getLsbD 63 = false ∧ (twice.service 0).einfo.getLsbD 63 = true ∧ issuesB twice f [svcLane] = true := by
  decide +kernel

/-- Service thread 0 over a machine that runs a team, with a number in slot pair 8. -/
def above (s : State) (a : Nat) : State :=
  { s with cur := .service 0 }.onThread (.service 0) fun t =>
    { t with regs := [(12, BitVec.ofNat 32 a), (13, BitVec.ofNat 32 (a / 2 ^ 32))] }

/-- The group and the headland of team 0 stand faulted, and the handles name them. -/
theorem witness_Returns :
    let f : Form := { priv := true, pfxG := true }
    let fg : Form := { priv := true, pfxG := true, srcs := [r64 (v 8), r32 (v 5)] }
    let stopped := ((team 8).onGroup 0 0 fun g => { g with faulted := some [0, 1] }).onTeam 0 fun t => { t with hFaulted := true }
    let s (a : Nat) : State := above stopped a
    let left : State := (((s 0x1000080).onGroup 0 0 fun g => { g with saved := some 3 }).onCtx (.gang 0 0 0) fun c =>
      { c with pc := 0 }).onCtx (.gang 0 0 1) fun c => { c with pc := 0 }
    let h (a : Nat) : Handle := (s a).handleOf (((s a).srcsOf fg (.service 0)).getD 0 0).toNat
    issuesB svc f [svcLane] = true ∧ issuesB (s 0x1000080) fg [svcLane] = true
      ∧ ((s 0x1000080).begun fg).canRelease .package allRegions
      ∧ h 0x1000080 = .group 0 0 ∧ h 0x1000040 = .headland 0 ∧ h 0 = .nothing
      ∧ ((s 0).group 0 0).faulted = some [0, 1] ∧ bits (bytesNat (mgets 0x1000080 32 (s 0).mem)) 65 64 = 0
      ∧ ((s 0).team 0).failed = none
      ∧ ((left.group 0 0).saved.isSome = true ∧ left.handleOf ((left.srcsOf fg (.service 0)).getD 0 0).toNat = .group 0 0
        ∧ (left.group 0 0).faulted = some [0, 1] ∧ bits (bytesNat (mgets 0x1000080 32 left.mem)) 123 64 = 0
        ∧ [0, 1].all (fun q => decide ((left.ctx (.gang 0 0 q)).pc = 0)) = true ∧ issuesB left fg [svcLane] = true) := by
  exact ⟨by decide, by decide, can_release _ _ _ (by decide), by decide, by decide, by decide, by decide, by decide, by decide,
    by decide⟩

/-- Registers of every party, and of service threads alone. -/
theorem witness_SpecialRegisters :
    issuesB (grp 8) { headland := true, pfxG := true, dest := some (vd 2, false) } eight = true
      ∧ issuesB (grp 8) { headland := true, pfxG := true, dest := some (vd 2, true) } eight = true
      ∧ issuesB svc { headland := true, pfxG := true, priv := true, dest := some (vd 2, true) } [svcLane] = true
      ∧ issuesB (grp 8) { headland := true, pfxG := true, srcs := [⟨v 4, false, false⟩] } eight = true
      ∧ issuesB svc { headland := true, pfxG := true, priv := true, srcs := [⟨v 4, true, false⟩] } [svcLane] = true := by decide

/-- Bytes as a loader leaves them. -/
def bytes (s : State) (a n x : Nat) : State := s.rawWrite a (natBytes n x)
/-- Service queue 1, the system-call ring, at 0x40000, empty and with 64 entries (R418). -/
def ring (s : State) : State := bytes s (16 * 4097) 16 (2 ^ 127 + 6 * 2 ^ 112 + 0x40000)

theorem witness_SystemCalls :
    let f : Form := { headland := true, pfxG := true }
    let fs : Form := { headland := true, pfxG := true, srcs := [r32 (v 8)] }
    let s := ring svc
    let woken := svc.onService 0 fun x => { x with wake := true }
    let asleep := (grp 1).onCtx (.gang 0 0 0) fun c => { c with wait := some (.sleep (some 5)) }
    let c (b : Bool) : Call := ⟨3, .service 0, false, [⟨.service 0, 0x100, b⟩]⟩
    let called (b : Bool) : State :=
      ({ svc with pkg := { Package.reset with calls := [c b] } } : State).onCtx (.service 0) fun x => { x with wait := some (.call 3) }
    let waits (s : State) : State := s.onCtx (.service 0) fun x => { x with wait := some (.ring 2 7) }
    (issuesB (grp 8) f eight = true ∧ issuesB (at_ 0) fs one = true ∧ issuesB woken fs [svcLane] = true
        ∧ (woken.service 0).wake = true ∧ (src32 ((at_ 9).srcsOf fs (.compute 0 0)) 0).toNat = 9)
      ∧ ((asleep.ctx asleep.cur).wait = some (.sleep (some 5)) ∧ asleep.time = 0 ∧ ({ asleep with time := 5 } : State).time = 5)
      ∧ (issuesB s f [svcLane] = true ∧ s.teamOf s.cur = none ∧ s.inShadow = false
        ∧ 1 ≤ ((s.begun f).released .package allRegions).callRoom ∧ 1 ≤ (s.begun f).cutNow.callRoom
        ∧ issuesB svc f [svcLane] = true ∧ ((svc.begun f).released .package allRegions).callRoom = 0)
      ∧ (s.begun f).canRelease .package allRegions
      ∧ ((called true).pkg.calls.find? (fun x => decide (x.id = 3)) = some (c true) ∧ ((called true).ctx (.service 0)).wait = some (.call 3)
        ∧ ((c true).parts.map (·.ref)).Nodup ∧ (c true).parts.all (·.answered) = true ∧ (c false).parts.all (·.answered) = false)
      ∧ ((waits s).ringWaiters = [(2, .service 0, 7)] ∧ (waits s).waitLanes (.service 0) = [svcLane] ∧ 1 ≤ (waits s).callRoom
        ∧ (waits svc).ringWaiters = [(2, .service 0, 7)] ∧ (waits svc).callRoom = 0) := by
  exact ⟨by decide, by decide, by decide, can_release _ _ _ (by decide), by decide, by decide⟩

/-- A command block at address 0 whose words service thread 0 holds. -/
def block (x : Nat) : State := { bytes svc 0 32 x with words := (upto 8).map fun i => (4 * i, .closed ⟨0, 0, 0x200⟩ 0 63 false) }
/-- SETE of a pointer to table 5 into table 2 (R371). -/
def sete : Nat := (2 ^ 63 + 5 * 2 ^ 12) * 2 ^ 64 + 2 * 2 ^ 140

theorem witness_TableInstructions :
    let fl (pa : Bool) : Form := { headland := true, priv := pa, pfxG := true, srcs := [r64 (v 8)], dest := some (vd 2, true), bad := false }
    let fp : Form := { priv := true, pfxG := true, srcs := [r64 (v 8)], dest := some (vd 2, false), bad := false }
    let fr : Form := { priv := true, pfxG := true, cpopIsHint := true, srcs := [r64 (v 8), r32 (v 5)], dest := some (vd 2, false), bad := false }
    let s := at_ 0x1000
    let p := above ({ team 1 with bm := false } : State) 0
    let lost (a : Nat) : State := holding (above svc a) 0 (.lost ⟨0, 0, 5⟩)
    (issuesB s (fl false) one = true ∧ s.bm = false ∧ (tlbFind (s.cmem 0).tlb 1 0x1000).isSome = true
        ∧ issuesB p (fl true) [svcLane] = true ∧ p.bm = false)
      ∧ (issuesB (block 0) fp [svcLane] = true ∧ ptMalformed 0 = true ∧ ptMalformed (BitVec.ofNat 256 sete) = false
        ∧ ((block 0).cmem 0x200).ebb = [] ∧ (block sete).table.command = none
        ∧ (upto 8).all (fun i => decide ((block sete).target (4 * i) = .mem) && (block sete).ownsWord ((block sete).ownerOf (.service 0)) (4 * i)) = true
        ∧ bytesNat (mgets 0 32 (block sete).mem) = sete)
      ∧ (block sete).reaches .read 0 0 ∧ ((block sete).begun fp).canRelease .package allRegions
      ∧ (issuesB (lost 0) fr [svcLane] = true ∧ assigned 0 = true ∧ assigned (2 ^ 43) = false ∧ (lost 0).wordSt 0 = some (.lost ⟨0, 0, 5⟩)
        ∧ still (lost 0) [0] = true ∧ (lost 0).contained 0 = false ∧ still (above svc 0) [0] = true
        ∧ (lost 0).shutOut ⟨0, 0, 5⟩ = false ∧ ((lost 0).onCore 5 fun c => { c with out := true }).shutOut ⟨0, 0, 5⟩ = true
        ∧ (above svc 0).wordSt 0 = none ∧ Memory.wf (lost 0).mem = true
        ∧ (((above svc (2 ^ 44)).srcsOf fr (.service 0)).getD 0 0).toNat / 2 ^ 44 = 1
        ∧ (((above svc 2).srcsOf fr (.service 0)).getD 0 0).toNat % 4 = 2)
      ∧ ((lost 0).begun fr).canRelease .system allRegions
      ∧ (issuesB (above (team 1) (2 ^ 60)) (fl true) [svcLane] = true ∧ issuesB svc (fl true) [svcLane] = true ∧ svc.bm = true
        ∧ (((above (team 1) (2 ^ 60)).srcsOf (fl false) (.service 0)).getD 0 0).toNat = 2 ^ 60) := by
  exact ⟨by decide, by decide, ⟨by decide, by rw [if_pos (by decide)]; decide⟩, can_release _ _ _ (by decide), by decide,
    can_release _ _ _ (by decide), by decide⟩

/-- Eight dies with 16 tables each, their replicas 8 MiB apart; with `e`, entries that lead to a page of 16 MiB (R362). -/
def tables (e : Bool) : State :=
  let s : State := { svc with dies := (upto 8).map fun d => (d, { Die.fresh with dtabb := BitVec.ofNat 41 (1 + 256 * d), ntab := 16 }) }
  let put (s : State) (t x : Nat) : State := bytes s (0x8000 + t * 0x8000) 8 x
  if e then put (put (put s 1 (2 ^ 63 + 2 * 2 ^ 12)) 2 (2 ^ 63 + 3 * 2 ^ 12)) 3 (2 ^ 63 + 2 ^ 62 + 0x1000000 + 0x1C) else s

/-- A command in progress for service thread 0. -/
def commanded (x : Nat) : State :=
  ({ tables false with table := ⟨[], 0, some (0, BitVec.ofNat 256 x)⟩ } : State).onCtx (.service 0) fun c => { c with wait := some (.ptupd (vd 2)) }

/-- Nothing holds a command up. -/
def unhindered (x : Nat) (f : State → PtCommand → State × Nat) : Bool :=
  let s := commanded x
  let t := (f s (ptFields (BitVec.ofNat 256 x))).1
  decide (s.staleEntries t = []) && !s.staleLoads t && s.devPending.isEmpty

theorem witness_TableEngineSteps :
    let m : Miss := ⟨1, 1, [.gang 0 0 0], none⟩
    let missing (e : Bool) : State := (tables e).onDie 0 fun d => { d with misses := [m] }
    let found (s : State) : Bool := match (s.walk 0 1 (1 * 4096)).2 with | .found _ => true | _ => false
    let absent (s : State) : Bool := match (s.walk 0 1 (1 * 4096)).2 with | .absent => true | _ => false
    let bad (s : State) : Bool := match (s.walk 0 1 (1 * 4096)).2 with | .poison => true | _ => false
    let spoilt : State := { missing false with poison := (upto 8).map fun d => (2 + 256 * d) * 0x8000 }
    let clre : Nat := 2 ^ 128 + 2 * 2 ^ 140
    let ztab : Nat := 2 * 2 ^ 128 + 3 * 2 ^ 152
    (((missing true).die 0).misses.find? (fun y => decide (y.asn = 1) && decide (y.vpn = 1) && y.found.isNone) = some m
        ∧ found (missing true) = true ∧ absent (missing false) = true
        ∧ bad spoilt = true ∧ (spoilt.die 0).misses = [m])
      ∧ ((commanded sete).table.command = some (0, BitVec.ofNat 256 sete) ∧ ((commanded sete).ctx (.service 0)).wait = some (.ptupd (vd 2))
        ∧ Memory.wf (commanded sete).mem = true)
      ∧ ((ptFields (BitVec.ofNat 256 sete)).op = 0 ∧ eLeaf (ptFields (BitVec.ofNat 256 sete)).e = false
        ∧ (commanded sete).tableBad 15 = false ∧ (commanded sete).tableBad 16 = true
        ∧ (commanded sete).commandTable (ptFields (BitVec.ofNat 256 sete)) = some 2
        ∧ (commanded sete).commandTable (ptFields (BitVec.ofNat 256 (sete + 2 ^ 132))) = none)
      ∧ ((ptFields (BitVec.ofNat 256 clre)).op = 1 ∧ (commanded clre).commandTable (ptFields (BitVec.ofNat 256 clre)) = some 2
        ∧ (ptFields (BitVec.ofNat 256 ztab)).op = 2 ∧ (ptFields (BitVec.ofNat 256 ztab)).znum = 3)
      ∧ (unhindered sete State.sete = true ∧ unhindered clre State.clre = true ∧ unhindered ztab State.ztab = true) := by decide +kernel

/-! ### Headland and matrix engine -/

/-- F32, one step (K is 2), N of 8, A in view 2, the accumulators in view 1 (R279). -/
def mxc : DWord := BitVec.ofNat 64 (2 ^ 61 + 2 * 2 ^ 57 + 2 ^ 54)
/-- View 1: accumulators, 8 f32 from word 16; view 2: A, 2 f32 from word 0; view 3: a tile of 8 f16 from word 32 (R18). -/
def views : Table Nat DWord :=
  [(1, BitVec.ofNat 64 (3 * 2 ^ 61 + 7 * 2 ^ 57 + 16 * 2 ^ 41 + 8 * 2 ^ 32 + 8 * 2 ^ 8 + 1)),
   (2, BitVec.ofNat 64 (2 * 2 ^ 61 + 7 * 2 ^ 57 + 2 * 2 ^ 32 + 2 * 2 ^ 8 + 1)),
   (3, BitVec.ofNat 64 (2 ^ 61 + 6 * 2 ^ 57 + 32 * 2 ^ 41 + 4 * 2 ^ 32 + 8 * 2 ^ 8 + 1))]
/-- The headland of a team of one thread, with an engine that is configured and holds a queue. -/
def mxHl (q : List MxOp) : State :=
  hl.onTeam 0 fun t => { t with views := views, mx := ⟨mxc, q, ⟨true, [], false⟩, ⟨false, [], false⟩, some 0, [], 0, 0, false⟩ }
/-- MX.MMA on group 0, as its issue leaves it. -/
def mma : MxMma := ⟨mxc, tgetD 2 0 views, tgetD 1 0 views, [(0, 0)], 0, false, false, 0, .rn, 0, [], false⟩

theorem witness_MatrixInstructions :
    let s := mxHl []
    let act : List Lane := [headLane]
    let cfg := mxFields mxc
    let cv := viewFields (tgetD 1 0 views)
    let av := viewFields (tgetD 2 0 views)
    let ov := viewFields (tgetD 3 0 views)
    let o := opWord 0
    (s.cur = .headland 0 ∧ (s.groups.map (·.1)).Nodup ∧ issuesB s (formMx [⟨v 4, false, false⟩]) act = true
        ∧ (s.group 0 0).ended = false ∧ (tgetD 1 [] (s.group 0 0).queues).length + 2 ≤ 8)
      ∧ (issuesB s (formMx [r64 (v 4)]) act = true ∧ (mxFields mxc).mode = 1 ∧ (mxFields mxc).bk8 = false ∧ cfg.aview = 2 ∧ cfg.cview = 1
        ∧ mxc.toNat % 2 ^ 46 = 0 ∧ cfg.steps = 1 ∧ (mxFields 0).aview = (mxFields 0).cview)
      ∧ (mxc ≠ 0 ∧ 0 % bSize cfg.mode = 0 ∧ 0 + cfg.k * cfg.n * bSize cfg.mode ≤ (s.team 0).launch.z
        ∧ issuesB s (formMx [r64 (v 4), r64 (v 6)]) act = true ∧ (s.team 0).mx.queue.length < 16
        ∧ (mxFields (BitVec.ofNat 64 (4 * 2 ^ 61 + 2 ^ 57))).mode = 4)
      ∧ (viewMissing [3] cv = false ∧ s.accBad 0 cfg cv o = false ∧ ((s.team 0).mx.slot false).issued = true
        ∧ viewMissing [2] av = false ∧ aViewBad cfg av = false ∧ (s.team 0).mx.latch = some o.gid
        ∧ issuesB s { formMx [r64 (v 4)] with rm := true } act = true)
      ∧ (issuesB s { formMx [] with dest := some (vd 2, true) } act = true ∧ issuesB s { formMx [] with rm := true } act = true
        ∧ ((mxHl [.mma mma]).team 0).mx.queue ≠ [] ∧ (s.team 0).mxRuns = true ∧ s.teams.map (·.1) = [0]
        ∧ ((s.onTeam 0 fun t => { t with rolling := true }).team 0).mxRuns = false)
      ∧ (viewMissing [1, 2] ov = false ∧ outFmtOk cfg.mode ov.fmt = true ∧ o.cb + cfg.n ≤ ov.elems ∧ convClash cfg cv ov o.cb = false
        ∧ s.mxRows 0 0 = [(0, 0)] ∧ (s.thread (.compute 0 0)).live = true
        ∧ s.convError 0 ⟨mxc, tgetD 1 0 views, tgetD 3 0 views, [(0, 0)], 0, .rn, false⟩ = false)
      ∧ (hl.team 0).mx.mxc = 0 := by decide

/-- Team 0 with an engine queue, and team 1 of a class on the same core, whose engine has a step to take. -/
def rivals (cls last : Nat) : State :=
  let s := mxHl [.mma mma]
  { s with teams := s.teams ++ [(1, { s.team 0 with launch := { (s.team 0).launch with cls := cls } })] }.onCore 0 fun c =>
    { c with mxLast := last }

theorem witness_MatrixSteps :
    let ldb : MxOp := .ldb mxc false 0 0 0
    let zero : MxOp := .zero mxc (tgetD 1 0 views) [(0, 0)] 0 false
    let drains := (mxHl []).onCtx (.headland 0) fun c => { c with wait := some (.drain none) }
    let reads := (mxHl []).onCtx (.headland 0) fun c => { c with wait := some (.zsk (vd 2) true) }
    let other : MxOp := .ldb mxc true 0 0 0
    let conv : MxConv := ⟨mxc, tgetD 1 0 views, tgetD 3 0 views, [(0, 0)], 0, .rn, false⟩
    let spoilt := (mxHl [.mma mma]).onMx 0 fun m => { m with slot0 := { m.slot0 with bad := true } }
    let padSpoilt := (mxHl [ldb]).onTeam 0 fun t => { t with padBad := [60] }
    let converts := (mxHl []).onCtx (.headland 0) fun c => { c with wait := some (.drain (some conv)) }
    let convSpoilt := converts.onThread (.compute 0 0) fun t => { t with bad := [16] }
    (((mxHl [ldb]).team 0).resident = true ∧ ((mxHl [ldb]).team 0).failed = none)
      ∧ [mxHl [ldb], mxHl [.mma mma], mxHl [zero], mxHl [.mma mma, other], mxHl [other, .mma mma], drains, reads, spoilt, padSpoilt, converts,
          convSpoilt].all (·.mxTurn 0 false) = true
      ∧ ((mxHl [.mma { mma with high := true }]).mxTurn 0 true = true ∧ spoilt.noneAtBarrier 0 = true)
      ∧ (mmaJob ((rivals 1 0).team 0).mx.queue).isSome = true
      ∧ ((rivals 1 0).mxTurn 0 false = false ∧ (rivals 1 0).mxReadyOn (((rivals 1 0).team 0).mxCore false) 1 = true ∧ ((rivals 1 0).team 0).launch.cls = 0
        ∧ (rivals 0 0).mxTurn 0 false = false ∧ ((rivals 0 0).core 0).mxLast = 0 ∧ (rivals 0 1).mxTurn 0 false = true)
      ∧ (mma.slot1 = false ∧ spoilt.stepError 0 mma = true ∧ (mxHl [.mma mma]).stepError 0 mma = false
        ∧ (padSpoilt.team 0).badRange 0 64 = true ∧ (padSpoilt.team 0).launch.grd = 0
        ∧ converts.convError 0 conv = false ∧ convSpoilt.convError 0 conv = true
        ∧ (convSpoilt.ctx (.headland 0)).wait = some (.drain (some conv)))
      ∧ (bRanges (mxFields mxc) 0 0 0 = [(0, 64)] ∧ linesOf 0 64 = [0] ∧ ((mxHl [ldb]).team 0).present 0 = true)
      ∧ (((mxHl [.mma mma]).team 0).mx.queue = [.mma mma] ∧ (mma.rows.map (·.2)).Nodup ∧ ((mxHl [zero]).team 0).mx.queue = [zero])
      ∧ ((drains.ctx (.headland 0)).wait = some (.drain none) ∧ (reads.ctx (.headland 0)).wait = some (.zsk (vd 2) true)) := by decide

/-! ### Events of groups, teams and the package -/

/-- Thirty-two live groups and one that stands by, of which group 0 has lived longest. -/
def crowded : State :=
  let g (live : Bool) (since : Nat) : Group := { Group.absent with width := 8, live := live, ended := false, since := since }
  { grp 1 with
    groups := ((upto 32).map fun i => ((0, i), g true i)) ++ [((0, 32), { g false 7 with standby := true })]
    ctxs := ((upto 33).map fun i => (Party.gang 0 i 0, Ctx.fresh Config.imageEntry 1)) }

theorem witness_ContextsAndTidepools :
    let free := { crowded with groups := crowded.groups.drop 31 }
    let parked := crowded.onCtx (.gang 0 0 0) fun c => { c with wait := some (.retry .turn true) }
    let p (due : Bool) : Tidepool := ⟨0, Config.imageEntry, 64, [(0, 0)], due⟩
    let pooled (t : Nat) : State := { (grp 1).onTeam 0 (fun t => { t with pools := [(2, p false)] }) with time := BitVec.ofNat 64 t }
    (crowded.contextFree 0 = false ∧ free.contextFree 0 = true ∧ (crowded.groups.map (·.1)).Nodup
        ∧ (crowded.standby 0).map (·.1) = [(0, 32)] ∧ (free.standby 0).map (·.1) = [(0, 32)]
        ∧ (crowded.liveGroups 0).head?.map (fun x => (x.1, x.2.since)) = some ((0, 0), 0)
        ∧ ((crowded.liveGroups 0).drop 1).all (fun x => decide (0 < x.2.since)) = true
        ∧ crowded.groupReady 0 0 = true ∧ crowded.atBoundary 0 0 = true ∧ (crowded.core 0).rotated = 0
        ∧ ({ crowded with time := 4103 } : State).time.toNat = max 0 7 + 4096)
      ∧ ((parked.liveGroups 0).filter (fun x => decide (x.1.1 = 0) && !parked.groupReady 0 x.1.2)).map (·.1) = [(0, 0)]
      ∧ (parked.group 0 33).ended = true ∧ (upto 33).all (fun g => !(parked.group 0 g).ended) = true ∧ parked.contextFree 0 = false
      ∧ (tget 2 ((pooled 63).team 0).pools = some (p false) ∧ ((pooled 63).team 0).resident = true ∧ (pooled 63).time.toNat < 0 + (p false).limit
        ∧ 0 + (p false).limit ≤ (pooled 64).time.toNat ∧ (p true).due = true ∧ ((pooled 64).group 0 0).ended = false
        ∧ ((pooled 64).group 0 1).ended = true) := by decide +kernel

/-- Two quads of a group wait for tags, quad 0 since before quad 1. -/
def tagAfter (n : Nat) : State :=
  let waits (q : Nat) : Ctx → Ctx := fun c =>
    { c with wait := some (.tag q [0] true 0 false), order := q, pc := c.pc + BitVec.ofNat 60 (4 * q) }
  (((grp 8).onGroup 0 0 fun g => { g with tagTimer := n }).onCtx (.gang 0 0 0) (waits 0)).onCtx (.gang 0 0 1) (waits 1)

/-- A primary that gathers at a cut with its group stopped: the group's partner has counted as far. -/
def atACut : State := (grp 1).onTeam 0 fun t => { t with launch := { t.launch with grd := 2 }, pair := .primary 1, atCut := true }

theorem witness_TimeoutsAndDeferredCauses :
    let d : Deferred := ⟨0x0A, 0x1000, [.compute 0 0], 0⟩
    let s := (grp 1).onGroup 0 0 fun g => { g with deferred := [d] }
    let dead := s.onThread (.compute 0 0) fun t => { t with live := false }
    let tag : Wait := .tag 1 [0] true 0 false
    let late (n : Nat) (w : Wait) : State :=
      ((grp 1).onGroup 0 0 fun g => { g with wdog := n, tagTimer := n }).onCtx (.gang 0 0 0) fun c => { c with wait := some w }
    let limit := 600 * (s.core 0).wdog
    ((s.ctx (.gang 0 0 0)).mayIssue = true ∧ (s.ctx (.gang 0 0 0)).wait = none ∧ (s.ctx (.gang 0 0 0)).run.len = 0
        ∧ (s.group 0 0).faulted = none ∧ (s.group 0 0).deferred = [d])
      ∧ (limit = 60000000 ∧ ((late limit (.retry .turn true)).group 0 0).wdog = limit ∧ ((late limit (.retry .turn true)).ctx (.gang 0 0 0)).wait = some (.retry .turn true)
        ∧ (late limit (.retry .turn true)).waitLanes (.gang 0 0 0) = one ∧ ((late limit tag).group 0 0).tagTimer = limit ∧ tag.isTag = true
        ∧ (late limit tag).tagBefore (.gang 0 0 0) = false ∧ (tagAfter limit).tagBefore (.gang 0 0 1) = true
        ∧ (Wait.retry .turn true).counted = true ∧ (late limit (.retry .turn true)).waitOver (.gang 0 0 0) = false
        ∧ (late limit (.barrier 2 true (some false))).waitOver (.gang 0 0 0) = true)
      ∧ ((s.thread (.compute 0 0)).live = true ∧ (dead.thread (.compute 0 0)).live = false ∧ (dead.ctx (.gang 0 0 0)).mayIssue = true)
      ∧ (atACut.cutStopped (.gang 0 0 0) = true ∧ (atACut.ctx (.gang 0 0 0)).wait = none ∧ (atACut.group 0 0).faulted = none
        ∧ atACut.waitLanes (.gang 0 0 0) = one ∧ (s.core 0).wdog ≠ 0) := by decide +kernel

/-- A pair of teams 0 and 1 at guard level 2, both at a checkpoint, at a common cut where asked. -/
def paired (cut bad : Bool) : State :=
  let t (core : Nat) (role : PairRole) : Team := { Team.fresh { launch 1 with grd := 2 } core with
    pair := role, atCut := true, cut := cut, nonRollback := bad, lineLog := some [] }
  let f : Frame := ⟨[], [], [], [], [], [], [], [], Mx.fresh, [], [], [], false, false⟩
  { svc with teams := [(0, t 0 (.primary 1)), (1, t 64 (.shadow 0))], frames := [(0, f), (1, f)] }

theorem witness_Pairs :
    let s := paired false false
    let odd := (paired true false).setThread (.compute 0 0) { Thread.fresh with sig := 5 }
    ((s.team 0).pair = .primary 1 ∧ (s.team 1).pair = .shadow 0 ∧ (s.team 0).atCut = true ∧ (s.team 1).atCut = true
        ∧ s.cutCounts 0 = s.cutCounts 1)
      ∧ (((paired true false).team 0).cut = true ∧ (paired true false).teamSig 0 = (paired true false).teamSig 1)
      ∧ (odd.teamSig 0 ≠ odd.teamSig 1 ∧ (odd.team 0).nonRollback = false ∧ (odd.team 1).mismatched = false
        ∧ (odd.team 0).spent = false ∧ (odd.team 1).spent = false
        ∧ ((odd.onTeam 1 fun t => { t with rollbacks := 2 }).team 1).spent = true
        ∧ (tget 0 odd.frames).isSome = true ∧ (tget 1 odd.frames).isSome = true)
      ∧ ((paired true true).team 0).nonRollback = true ∧ (odd.noneAtBarrier 0 && odd.noneAtBarrier 1) = true := by decide

theorem witness_FailuresOfParts :
    let worn := svc.onCore 5 fun c => { c with deg := true, orphan := 9 }
    let spent : State := { svc with pkg := { Package.reset with spares := [(memoryOf 0, Config.spareRows)] } }
    let poor := holding spent 4 (.open_ owner 1 2)
    let s := grp 1
    let last := svc.onDie 0 fun d => { d with clen := 8 }
    (isLocalMem 0 = true ∧ isLocalMem (2 ^ 43) = false ∧ (svc.die 7).throttle < 2 ∧ (svc.die 0).clen.getLsbD 13 = true
        ∧ (svc.die 0).clen.getLsbD 14 = false ∧ (svc.die 0).clout.getLsbD 13 = false ∧ tgetD (memoryOf 0) 0 svc.pkg.spares < Config.spareRows
        ∧ Config.spareRows ≤ tgetD (memoryOf 0) 0 spent.pkg.spares ∧ (poor.wordSt 0 = none ∧ svc.wordSt 64 = none) ∧ svc.pkg.repairs.length < 65536)
      ∧ ((svc.core 511).out = false ∧ (svc.core 511).spare = 0x7F ∧ (svc.core 511).spf = false ∧ (svc.core 511).deg = false
        ∧ (svc.core 511).physLane 63 = 63 ∧ (upto 64).all (fun k => decide ((svc.core 511).physLane k = 63 → k = 63)) = true
        ∧ (upto 64).all (fun k => decide ((svc.core 511).physLane k ≠ 64)) = true)
      ∧ ((worn.core 5).deg = true ∧ (worn.core 5).physLane 3 = 3 ∧ (worn.core 5).orphan ≠ 3)
      ∧ ((tget 0 s.teams).isSome = true ∧ (s.team 0).pair = .none ∧ (s.team 0).cores = [0] ∧ (s.cmem 0).ebb = [] ∧ s.savable 0 = true
        ∧ s.saveFault 0 = none ∧ s.teams.length = 1)
      ∧ ((last.die 0).clen.getLsbD 3 = true ∧ (last.die 0).clout.getLsbD 3 = false ∧ (last.die 0).link = false ∧ (last.die 0).fatal = false
        ∧ (upto 16).all (fun k => decide (k = 3) || !(last.die 0).clen.getLsbD k) = true) := by decide

theorem witness_FatalDieErrors :
    let s := holding (grp 1) 0x10000 (.closed owner 1 63 false)
    let after := (grp 1).onDie 0 fun d => { d with containing := true }
    (s.die 0).link = false ∧ (s.die 0).fatal = false ∧ (tget 0 s.teams).isSome = true ∧ (s.team 0).resident = true ∧ (s.team 0).failed = none
      ∧ (s.team 0).pair = .none ∧ (s.team 0).core / 64 = 0 ∧ s.wordSt 0x10000 = some (.closed owner 1 63 false)
      ∧ s.teams.all (fun x => s.noneAtBarrier x.1) = true ∧ owner.pkg = s.fab.pid.toNat ∧ owner.agent / 64 = 0 ∧ (s.die 1).link = false ∧ (after.die 0).containing = true := by decide

/-- A forward of word 4 is out to package 7, for a read that package 8 has asked for. -/
def asked : State :=
  { holding svc 4 (.closed ⟨0, 7, 5⟩ 1 2 false) with
    held := [⟨4, ⟨0, 7, 5⟩, .forward, none, 600, false⟩], queue := [(4, [.message (.read ⟨0, 8, 5⟩ 4 3)])]
    fab := { Fabric.reset with recov := false } }

theorem witness_RequestsAtTheHomeSlice :
    let remote := ownerOfBits (5 + 7 * 2 ^ 12)
    let local_ : Owner := ⟨0, 0, 0x23F⟩
    let s (x : WordSt) : State := holding svc 4 x
    (remote = ⟨0, 7, 5⟩ ∧ svc.fab.pid.toNat = 0 ∧ svc.fenced 7 = false ∧ isLocalMem 4 = true ∧ svc.contained 4 = false
        ∧ svc.wordSt 4 = none ∧ svc.poisoned 4 = false ∧ still svc [4] = true
        ∧ ({ svc with poison := [4] } : State).poisoned 4 = true ∧ svc.slow = false ∧ svc.held = [] ∧ Memory.wf svc.mem = true
        ∧ ({ svc with fab := { Fabric.reset with recov := false } } : State).fab.recov = false)
      ∧ ((s (.open_ local_ 1 2)).wordSt 4 = some (.open_ local_ 1 2) ∧ (s (.lost local_)).wordSt 4 = some (.lost local_)
        ∧ (s (.closed local_ 1 2 false)).wordSt 4 = some (.closed local_ 1 2 false) ∧ local_.agent < 0x240
        ∧ (s (.closed ⟨0, 8, 5⟩ 1 2 false)).wordSt 4 = some (.closed ⟨0, 8, 5⟩ 1 2 false) ∧ svc.fenced 8 = false
        ∧ (s (.open_ remote 1 2)).wordSt 4 = some (.open_ remote 1 2))
      ∧ (atomWords 0 true = [0, 4] ∧ still svc [0, 4] = true ∧ svc.wordSt 0 = none ∧ svc.contained 0 = false ∧ svc.poisoned 0 = false)
      ∧ ((s (.open_ remote 1 2)).ownsWord remote 4 = true)
      ∧ (asked.heldWord 4 = true ∧ asked.queueOf 4 = [.message (.read ⟨0, 8, 5⟩ 4 3)] ∧ .message (.read remote 4 9) ∉ asked.queueOf 4
        ∧ (asked.held.all fun h => !h.extended) = true ∧ asked.fab.recov = false) := by decide

theorem witness_AnswersAndTimeouts :
    let g : GuestReg := ⟨9, owner, false, 1, 2, false, false⟩
    let h : Held := ⟨4, ⟨0, 7, 5⟩, .forward, none, 600, false⟩
    let mine : Held := ⟨4, owner, .recall, none, 600, false⟩
    let s (recov : Bool) : State := { svc with guestRegs := [(7 * 2 ^ 44 + 4, g)], held := [h], fab := { Fabric.reset with recov := recov } }
    let far : Request := ⟨5, .read, .party (.service 0), owner, 7 * 2 ^ 44, [7 * 2 ^ 44 + 4], 0, false, none, none, [], false, 0, 0⟩
    let asks (r : Request) : State := { svc with fab := { Fabric.reset with requests := [r] } }
    (svc.fenced 7 = false ∧ tget (7 * 2 ^ 44 + 4) (s true).guestRegs = some g ∧ g.isOpen = false ∧ (2 : Nat).testBit 1 = true
        ∧ 7 * 2 ^ 44 + 4 = 7 * 2 ^ 44 / 64 * 64 + 4 * 1 ∧ (s false).fab.recov = false ∧ (s true).fab.recov = true)
      ∧ ((holding svc 4 (.closed ⟨0, 7, 5⟩ 0 63 false)).wordSt 4 = some (.closed ⟨0, 7, 5⟩ 0 63 false)
        ∧ (holding svc 4 (.closed owner 0 63 false)).wordSt 4 = some (.closed owner 0 63 false) ∧ Memory.wf svc.mem = true)
      ∧ (h ∈ (s true).held ∧ h.word = 4 ∧ (∀ x ∈ (s true).held, x.word = 4 → x = h) ∧ (s true).time.toNat < h.deadline
        ∧ h.deadline ≤ ({ s true with time := 600 } : State).time.toNat)
      ∧ (({ svc with fab := { Fabric.reset with fence := [(0, 2 ^ 63 + 2 ^ 62 + 7)] } } : State).fenced 7 = true)
      ∧ (asked.held = [h] ∧ asked.queueOf 4 = [.message (.read ⟨0, 8, 5⟩ 4 3)])
      ∧ (({ holding svc 4 (.closed owner 1 2 false) with held := [mine] } : State).localOwner owner = true)
      ∧ ((asks far).fab.requests = [far] ∧ far.result = .wait ∧ far.deadline ≤ (asks far).time.toNat ∧ far.line = (7 * 2 ^ 44 + 4) / 64 * 64
        ∧ (asks far).fenced 7 = false) := by decide +kernel

/-- Registrations on their way, requests that time has run out for, forwards that recall an open word (R391, R452). -/
theorem witness_AnswersInTime :
    let h : Held := ⟨4, ⟨0, 7, 5⟩, .forward, none, 600, false⟩
    let far : Request := ⟨5, .read, .party (.service 0), owner, 7 * 2 ^ 44, [7 * 2 ^ 44 + 4], 0, false, none, none, [], false, 0, 0⟩
    let writes : Request := { far with kind := .write, region := 2 }
    let close : Request := { far with kind := .close }
    let asks (r : Request) : State := { svc with fab := { Fabric.reset with requests := [r] } }
    let recalled : State := { holding svc 4 (.open_ ⟨0, 7, 5⟩ 1 2) with held := [{ h with kind := .recall }] }
    ((asks writes).asksFor (7 * 2 ^ 44 + 4) = true ∧ svc.asksFor (7 * 2 ^ 44 + 4) = false ∧ (7 : Nat) ≠ svc.fab.pid.toNat
        ∧ (asks writes).ownGuest owner (7 * 2 ^ 44 + 4) = none ∧ writes.result = .wait ∧ close.result = .wait
        ∧ writes.words = [7 * 2 ^ 44 + 4] ∧ close.for_ = .party (.service 0) ∧ asks far = { asks far with time := 0 }
        ∧ far.deadline < ({ asks far with time := 1 } : State).time.toNat ∧ (asks far).time.toNat ≤ far.deadline)
      ∧ (recalled.wordSt 4 = some (.open_ ⟨0, 7, 5⟩ 1 2) ∧ recalled.held = [{ h with kind := .recall }] ∧ svc.held = []
        ∧ asked.wordSt 4 = some (.closed ⟨0, 7, 5⟩ 1 2 false) ∧ asked.time.toNat ≤ h.deadline ∧ h.owner.pkg = 7) := by decide +kernel

/-- Launch queue 3 of address space 1 and its ring at local address 0x40000, which page tables map at the same address, with
one record in it, of zeros, which asks for version 0. -/
def queued : State :=
  let s := tables true
  let s := { s with bm := false, pkg := { Package.reset with queues := [(3, ⟨0x40000, 1, 6, [], 0⟩)] } }
  bytes (bytes s (16 * 3) 16 (2 ^ 127 + 6 * 2 ^ 112 + 2 ^ 100 + 0x40000)) 0x1040000 8 1

theorem witness_RecordsAndReplies :
    let s := queued
    let le : QEntry := ⟨0x40000, 1, 6, false, 0⟩
    let asleep := ring svc |>.onCtx (.service 1) fun c => { c with wait := some (.sleep none) }
    let busy := { s with pkg := { s.pkg with records := [⟨8, 3, 0, 1, 0, 0, 0, 0, 0, 1, 0⟩] } }
    let away (a : Nat) : State := holding s a (.closed ⟨0, 7, 5⟩ 0 63 false)
    let walked : State := (s.devWalked 1 0x40000).devWalked 1 (le.slot 0)
    let now : State := (walked.devFetch 0x1040040 64).1.devWriteNat 0x1040008 8 1
    (walked.mem = s.mem ∧ walked.devRead 0x1040040 64 = 0
        ∧ (wordsOf 0x1040040 64).all (fun w => !s.contained w && !s.heldWord w && decide (s.wordSt w = none)) = true
        ∧ (away 0x104007C).wordSt 0x104007C = some (.closed ⟨0, 7, 5⟩ 0 63 false) ∧ (away 0x104007C).localOwner ⟨0, 7, 5⟩ = false
        ∧ (away 0x104007C).fenced 7 = false ∧ (now.devWalked 1 0).mem = now.mem ∧ now.devTranslate 1 0 = some 0x1000000)
      ∧ (svc.queueEntry 3 = none ∧ (s.queueEntry 3).map (·.asn) = some 1 ∧ ((ring svc).queueEntry 4097).isSome = true
        ∧ (asleep.ctx (.service 1)).wait = some (.sleep none) ∧ (svc.ctx (.service 0)).wait = none)
      ∧ (tget 3 s.pkg.queues = some ⟨0x40000, 1, 6, [], 0⟩ ∧ s.devPending = []
        ∧ (upto 8).all (fun i => !s.isLost ((0x1040008 + i) / 4 * 4) && s.devReady ((0x1040008 + i) / 4 * 4)) = true ∧ s.ringEnds le = some (1, 0) ∧ s.devTranslate 1 0x40000 = some 0x1040000
        ∧ s.devTranslate 1 (le.slot 0) = some 0x1040040 ∧ recBits (0 : BitVec 512) 271 271 = 0
        ∧ bytesNat (mgets 0x1040040 64 s.mem) = 0 ∧ s.pkg.records = [] ∧ recTeams 0 = 0 ∧ busy.pkg.records.map (fun r => (r.queue, r.state)) = [(3, 1)]) := by
  decide +kernel

/-- A record of launch queue 3: one team of one thread in a group of 8, of class 1 (R420). -/
def rec_ : Record := ⟨8, 3, 0, 1, BitVec.ofNat 512 (2 ^ 272 + 2 ^ 126 + 2 ^ 193 + 2 ^ 176 + 2 ^ 160), 0, 0, 0, 0, 1, 0⟩
/-- That record's turn, with a pool of context areas. -/
def placing (teams : Table Nat Team) : State :=
  { svc with bm := false, teams := teams, nextId := 9, pkg := { Package.reset with records := [rec_], pctxb := 0x1000, pctxl := 0x1000000 } }
/-- The only core that is left, full with two teams of class 0. -/
def full_ : State :=
  let t : Team := { Team.fresh { launch 1 with t := 1024 } 0 with ctxBase := 0x2000000, ctxSize := 0x10000 }
  let s := placing [(0, t), (1, t)]
  { s with
    dies := (0, { Die.fresh with clen := 1 }) :: ((upto 7).map fun d => (d + 1, { Die.fresh with fatal := true }))
    cores := (upto 3).map fun c => (c + 1, { Core.fresh with out := true }) }

theorem witness_Teams :
    let s := placing []
    let l := launchOf rec_.bits 1 3 0 8 0
    let saved := placing [(0, { Team.fresh (launch 1) 0 with preempted := true })]
    let ended := ((grp 1).setThread (.compute 0 0) { Thread.fresh with live := false }).onTeam 0 fun t =>
      { t with hEnded := true, launch := { t.launch with queue := 3, rec_ := 8 } }
    let ended := { ended with pkg := { Package.reset with records := [rec_] } }
    let failed := ended.onTeam 0 fun t => { t with failed := some 9, withdrawn := [(1, 0, 0)] }
    let close : Request := ⟨5, .close, .party (.gang 0 0 0), owner, 7 * 2 ^ 44, [7 * 2 ^ 44 + 4], 600, false, none, none, [], false, 0, 0⟩
    let closes := { ended with fab := { ended.fab with requests := [close] } }
    let worn : State := { full_ with
      groups := [((1, 0), { Group.absent with width := 8, ended := false })]
      threads := [(.compute 1 0, { Thread.fresh with dirty := [5], bad := [5] })] }
    (svc.nextRecord = none ∧ s.nextRecord = some rec_ ∧ l.t = 1 ∧ l.w = 8 ∧ l.cls = 1 ∧ l.grd = 0 ∧ s.fits l 0 [] = true ∧ s.savedOfClass 1 = false
        ∧ s.poolRoom (ctxSize l) = some 0x1000000)
      ∧ (full_.nextRecord = some rec_ ∧ full_.fits l 0 [] = false ∧ full_.savable 1 = true ∧ full_.nextVictim l 1 = true ∧ full_.savable 5 = false)
      ∧ ((saved.team 0).preempted = true ∧ (saved.team 0).ended = false ∧ saved.firstToRestore 0 = true ∧ saved.partnerApart 0 4 = true
        ∧ saved.fits (saved.team 0).launch 4 [] = true)
      ∧ ((ended.team 0).resident = true ∧ (ended.team 0).failed = none ∧ ended.threadsEnded 0 = true ∧ (ended.team 0).launch.grd = 0
        ∧ (ended.team 0).pair = .none ∧ ended.allDrained 0 = true ∧ (ended.team 0).endCause = none
        ∧ ended.recordOf (ended.team 0).launch = some rec_ ∧ ended.guestRegs = [] ∧ ended.fab.requests = [] ∧ (grp 1).threadsEnded 0 = false)
      ∧ ((failed.team 0).resident = true ∧ (failed.team 0).pair = .none ∧ failed.allDrained 0 = true ∧ (failed.team 0).failed = some 9
        ∧ failed.guestRegs = [] ∧ failed.fab.requests = [])
      ∧ (closes.fab.requests = [close] ∧ closes.owns (closes.team 0) owner = true ∧ closes.threadsEnded 0 = true)
      ∧ (worn.saveFault 1 = some (0, 0, [⟨0, .compute 1 0⟩]) ∧ worn.savable 1 = true ∧ worn.nextVictim l 1 = true ∧ (worn.team 1).launch.grd = 0
        ∧ full_.saveFault 1 = none ∧ worn.devPending = []
        ∧ (upto 8).all (fun i => !worn.isLost (0x2000080 + 4 * i) && worn.devReady (0x2000080 + 4 * i)) = true) := by decide +kernel

/-- LRM1 as the map has it, and with lanes 0 and 5 both on lane 5 (R227); the limits of DTABL, HBASE and FENCE. -/
theorem witness_RegisterWrites :
    let s := svc
    let next (x : Word) (l : Nat) : Nat := if l / 4 = 1 then x.toNat / 2 ^ (7 * (l % 4)) % 128 else (s.core 511).physLane l
    let same : Word := 4 + 5 * 2 ^ 7 + 6 * 2 ^ 14 + 7 * 2 ^ 21
    let twice : Word := 4 + 0 * 2 ^ 7 + 6 * 2 ^ 14 + 7 * 2 ^ 21
    let far : Request := ⟨5, .read, .party (.service 0), owner, 7 * 2 ^ 44, [7 * 2 ^ 44 + 4], 0, false, none, none, [], false, 0, 0⟩
    (s.fab.pidSet = false ∧ s.residentOn 511 = false ∧ s.anyResident = false ∧ s.asnInUse = false ∧ (grp 1).anyResident = true)
      ∧ ((upto 64).all (fun l => decide (next same l = l)) = true ∧ (s.core 511).lfail = 0 ∧ (s.core 511).deg = false
        ∧ next twice 0 = next twice 5)
      ∧ ((holding (grp 1) 4 (.closed ⟨0, 7, 5⟩ 0 63 false)).held = []
        ∧ ({ svc with held := [⟨4, ⟨0, 7, 5⟩, .forward, none, 600, false⟩] } : State).held.length = 1
        ∧ far.result = .wait ∧ far.kind ≠ .close ∧ far.line / 2 ^ 44 = 7)
      ∧ (s.fab.recov = true ∧ ({ Fabric.reset with recov := false } : Fabric).recov = false) := by decide

theorem witness_Ports :
    let up (same : Nat) : State := { svc with fab := { Fabric.reset with
      pidSet := true, ports := [(17, ⟨true, 3, false, 1, 7, 0, 5, 3, [⟨1, none⟩, ⟨2, some (7, 64)⟩], [], same⟩)] } }
    let filled (n : Nat) : State := { svc with fab := { Fabric.reset with
      recov := true, ports := [(17, ⟨true, 3, false, 1, 7, 0, 5, 3, (upto n).map fun k => ⟨k, none⟩, [none], 0⟩)] } }
    let busy : State := { svc with
      held := [⟨64, ⟨0, 7, 5⟩, .recall, none, 600, false⟩]
      fab := { Fabric.reset with hverOk := true, hosts := [(0, ⟨false, 64, 16, [.byte 65 1]⟩)] } }
    let host : State := { svc with fab := { Fabric.reset with hverOk := true, hosts := [(0, ⟨false, 64, 16, []⟩)], hbase := [(0, 2 ^ 56)], hrr := [(0, 2 ^ 63 + 1)] } }
    ((svc.fab.port 17).up = false ∧ ((up 0).fab.port 17).up = true ∧ ((up 0).fab.port 17).expected = 5 ∧ ((up 14).fab.port 17).same < 15
        ∧ 15 ≤ ((up 15).fab.port 17).same ∧ (up 0).fab.pidSet = true ∧ ((up 0).fab.port 16).up = false ∧ Memory.wf svc.mem = true)
      ∧ (svc.fab.hverOk = false ∧ (host.fab.host 0).down = false ∧ host.fab.hverOk = true ∧ (host.fab.host 0).writes = []
        ∧ (tgetD 0 0 host.fab.hbase).toNat / 2 ^ 56 = 1 ∧ isLocalMem 4095 = true ∧ host.contained 4092 = false ∧ still host [4092] = true ∧ host.wordSt 4092 = none
        ∧ host.poisoned 4092 = false ∧ host.inHrr 4092 = true ∧ svc.inHrr 4092 = false)
      ∧ (((up 0).fab.port 17).sent < 4096 ∧ ((filled 512).fab.port 17).buffer.length = 512 ∧ ((filled 511).fab.port 17).buffer.length < 512
        ∧ (filled 512).fab.recov = true ∧ ((filled 512).fab.port 17).up = true ∧ ((up 0).fab.port 17).waiting = [])
      ∧ (busy.hostOpen 0 = true ∧ (busy.fab.host 0).writes = [.byte 65 1] ∧ busy.heldWord (65 / 4 * 4) = true)
      ∧ ((ring svc).queueEntry (0x8008 / 8) ≠ none
        ∧ (((ring svc).onCtx (.service 1) fun c => { c with wait := some (.sleep none) }).ctx (.service (0x8008 / 8 - 4096))).wait = some (.sleep none)) := by
  decide +kernel

theorem witness_ResetAndAttestation :
    svc.boot.attestLeaf < 1024 ∧ svc.boot.attestTree < 1024 ∧ svc.fab.pid.toNat = 0 ∧ isLocalMem 0 = true ∧ Memory.wf svc.mem = true
      ∧ svc.isLost 0 = false ∧ svc.devReady 0 = true ∧ svc.devPending = [] ∧ svc.laneFused ⟨5, 0x30000, false⟩ = false
      ∧ (svc.onCore 0 fun c => (c.failLane 3).1).laneFused ⟨5, 0x30000, false⟩ = true
      ∧ 1024 ≤ ({ svc.boot with attestLeaf := 1024 } : Boot).attestLeaf ∧ svc.boot.writeFails = false
      ∧ ({ svc.boot with writeFails := true } : Boot).writeFails = true ∧ svc.target 0 = .mem
      ∧ 1024 ≤ ({ svc.boot with attestTree := 1024 } : Boot).attestTree := by decide

/-! ### Steps, encodings, invariants -/

/-- ADDI v2, v3, 0x145 stands where service thread 0 fetches, and it is the next to issue. -/
def ready : State := State.reset.withFetchWord 32 0x20206514

theorem witness_StepRunsTheDecodedInstruction :
    let b : State := { { ready with agenda := [] } with cur := .service 0, slow := false }
    ready.agenda = [.issue (.service 0) false] ∧ ({ ready with agenda := [] } : State).canIssue (.service 0) = true
      ∧ b.hasDeferred (.service 0) = false ∧ b.startHelpers (.service 0) = b ∧ b.fetch.2 = .word 0x20206514
      ∧ b.fetch.1.cctx.run.uns = false ∧ b.fetch.1.cctx.wait = none ∧ (b.ctx (.service 0)).fetchPc.toNat % 4 = 0
      ∧ (b.ctx (.service 0)).fetchPc.toNat < 2 ^ 44 ∧ assigned Config.imageEntry.toNat = true ∧ b.target Config.imageEntry.toNat = .mem
      ∧ b.wordSt Config.imageEntry.toNat = none ∧ b.inL1 (b.asker (.service 0) Config.imageEntry.toNat) [Config.imageEntry.toNat] = none
      ∧ b.inNear (b.asker (.service 0) Config.imageEntry.toNat) [Config.imageEntry.toNat] = none
      ∧ still b [Config.imageEntry.toNat] = true
      ∧ b.poisoned Config.imageEntry.toNat = false ∧ b.contained Config.imageEntry.toNat = false
      ∧ ({ b with mem := [] }).fetch.2 = .word 0 ∧ decode false 0 = none := by decide +kernel

theorem witness_DecodeEncode :
    let i : Instr := .dp4aN (vd 10) (v 2) (v 3) ⟨false, 4⟩
    i.wf = true ∧ encode i = some 0x38A040C4 ∧ unsOf i = true := by decide

theorem witness_EveryStepAnswersAndKeepsMemory : Memory.wf ready.mem = true ∧ ready.mem ≠ [] := by decide

/-- What a step leaves of a register slot and of the PC of service thread 0. -/
def after (k : Nat) : Outcome → Option (Word × VAddr)
  | .next t => some (slot32 (.service 0) (t.thread (.service 0)) k, (t.ctx (.service 0)).pc)
  | _ => none

/-- That step: the sum of 0 and the signed field 0x145 in slot 2, the PC past the word (R55, R126, R46). -/
theorem test_step_addi : after 2 (step ready) = some (0xFFFFFF45, Config.imageEntry + 4) := by decide +kernel

/-! ### Well-formedness -/

/-- RED has no SWP and no CAS (R64). -/
theorem test_wf_red : (Instr.red (v 4) (v 6) false .swp).wf = false ∧ (Instr.red (v 4) (v 6) false .cas).wf = false
    ∧ (Instr.red (v 4) (v 6) false .add).wf = true := by decide
/-- With ALL the a field is zero (R395). -/
theorem test_wf_order : (Instr.acq true .die (v 4)).wf = false ∧ (Instr.rel true .die (v 4)).wf = false
    ∧ (Instr.fence true .die (v 4)).wf = false ∧ (Instr.acq false .die (v 4)).wf = true := by decide
/-- HI is no anchored slot (R246). -/
theorem test_wf_rgn : (Instr.rgn 40 0 28).wf = false ∧ (Instr.rgn 40 0 27).wf = true := by decide
/-- A queue mask names a queue (R334). -/
theorem test_wf_queues : (Instr.qfnc 0).wf = false ∧ (Instr.qwt 0).wf = false ∧ (Instr.qfnc 1).wf = true := by decide
/-- Size code 3 is unassigned (R340). -/
theorem test_wf_append : (Instr.append 3 (v 4) (v 8)).wf = false ∧ (Instr.append 2 (v 4) (v 8)).wf = true := by decide

/-! ### Words written out from the encodings

`major(6) d(6) a(7) b(7) g(2) minor(4)` and the other formats of R48-R54; each word is put together by hand. -/

/-- Hint words (R56-R60): PFX with ORD 1 and SCOPE 2; with CPOP and UNS; with RM 2. -/
theorem test_decode_hints :
    decode false 0xFC406000 = some (.pfx 0 0 1 2 false false 0) ∧ decode false 0xFC400C00 = some (.pfx 0 0 0 0 true true 0)
      ∧ decode false 0xFC440000 = some (.pfx 0 2 0 0 false false 0) := by decide

/-- Scratchpad accesses and tags (R253, R262). -/
theorem test_decode_scratchpad :
    decode false 0x90310108 = some (.lds (vd 3) (v 8) 16 .fe false) ∧ decode false 0xD4010140 = some (.tagF (v 8) (v 5)) := by decide

/-- Regrouping and ELECT (R245, R247, R238). -/
theorem test_decode_regrouping :
    decode false 0xC8000000 = some .reform ∧ decode false 0xC8108000 = some (.reformAge (v 4))
      ∧ decode false 0xC8218002 = some (.view 2 (v 12)) ∧ decode false 0xC0100204 = some (.elect 1 (v 8) 0) := by decide

/-- Fences and barriers (R243, R264, R269). -/
theorem test_decode_barriers :
    decode false 0xA8000003 = some .gfence ∧ decode false 0xD1108001 = some (.barArvCount 1 (v 4))
      ∧ decode false 0xD0100005 = some .gbarT := by decide

/-- Engines (R320, R334). -/
theorem test_decode_engines :
    decode false 0xE0110000 = some (.cpy 1 (v 8)) ∧ decode false 0xE0010001 = some (.zro 0 (v 8))
      ∧ decode false 0xE4318001 = some (.sca 3 (v 12)) ∧ decode false 0xE8400001 = some (.qwt 4)
      ∧ decode false 0xE800C002 = some (.fetchw (v 6)) := by decide

/-- Calls, tables, the headland (R168, R374, R371, R290). -/
theorem test_decode_system :
    decode false 0xF0004B01 = some (.sysc 300) ∧ decode false 0xF020C009 = some (.ptupd (vd 2) (v 6))
      ∧ decode false 0xF040C008 = some (.locq (vd 4) (v 6)) ∧ decode false 0xF040C048 = some (.locqPa (vd 4) (v 6))
      ∧ decode false 0xF860A006 = some (.qpush true 2 (v 5)) := by decide

/-! ### Values the spec gives -/

/-- What a lane computes: an instruction run by thread 0 of a team with sources in slots 4 and 6, its result in slot 2. -/
def result (i : Instr) (a b : Word) : Option Word :=
  match exec i (put (put (grp 1) 0 4 a) 0 6 b) with
  | .next t => some (slot32 (.compute 0 0) (t.thread (.compute 0 0)) 2)
  | _ => none

/-- 05_integer_instructions.md, R118: the worked table for a = 0x80000000 and b = 0xFFFFFFFF. -/
theorem test_worked_arithmetic :
    [Instr.add (vd 2) (v 4) (v 6) 0, .addc (vd 2) (v 4) (v 6) 0, .sub (vd 2) (v 4) (v 6) 0, .subb (vd 2) (v 4) (v 6) 0,
      .neg (vd 2) (v 4) 0, .minN (vd 2) (v 4) (v 6) 0, .maxN (vd 2) (v 4) (v 6) 0, .addsat (vd 2) (v 4) (v 6) 0,
      .addsatN (vd 2) (v 4) (v 6) 0, .subsatN (vd 2) (v 4) (v 6) 0].map (result · 0x80000000 0xFFFFFFFF)
      = [0x7FFFFFFF, 1, 0x80000001, 1, 0x80000000, 0x80000000, 0xFFFFFFFF, 0x80000000, 0xFFFFFFFF, 0].map some := by decide +kernel

/-- The same table's products and quotients. -/
theorem test_worked_products :
    [Instr.mul (vd 2) (v 4) (v 6) 0, .mulh (vd 2) (v 4) (v 6) 0, .mulhN (vd 2) (v 4) (v 6) 0, .div (vd 2) (v 4) (v 6) 0,
      .rem (vd 2) (v 4) (v 6) 0, .divN (vd 2) (v 4) (v 6) 0, .remN (vd 2) (v 4) (v 6) 0].map (result · 0x80000000 0xFFFFFFFF)
      = [0x80000000, 0, 0x7FFFFFFF, 0x80000000, 0, 0, 0x80000000].map some := by decide +kernel

/-- R123: PADD.I8X4 of 0x7F0180FF and 0x010180FF. -/
theorem test_packed : result (.paddI8x4 (vd 2) (v 4) (v 6) 0) 0x7F0180FF 0x010180FF = some 0x800200FE := by decide +kernel

/-- R128: DP4A and DP4A.N on the same bytes; the third source is slot 8. -/
theorem test_dp4a :
    let s := put (put (put (grp 1) 0 4 0x80FF7F02) 0 6 0x0201FF03) 0 8 1000
    let uns := s.onGang s.cur fun c => { c with run := { c.run with pfx := some ⟨0, 0, 0, 0, false, true, 0⟩, len := 1 } }
    let out : Outcome → Option Word
      | .next t => some (slot32 (.compute 0 0) (t.thread (.compute 0 0)) 2)
      | _ => none
    out (exec (.dp4a (vd 2) (v 4) (v 6) ⟨false, 8⟩) s) = some 0x26E ∧ out (exec (.dp4aN (vd 2) (v 4) (v 6) ⟨false, 8⟩) uns) = some 0x846E := by
  decide +kernel

/-- 06_float_instructions.md, R143: worked conversions. -/
theorem test_conversions :
    result (.cvt (vd 2) (v 4) .f32 .f16 0) 0x3F801000 0 = some 0x3C00
      ∧ result (.cvti (vd 2) (v 4) .f32 .n8 0) 0x43960000 0 = some 0xFF
      ∧ result (.cvti (vd 2) (v 4) .f32 .i16 0) 0xC71C4000 0 = some 0xFFFF8000
      ∧ result (.cvtf (vd 2) (v 4) .n32 .f32 0) 0xFFFFFFFF 0 = some 0x4F800000
      ∧ result (.cvt (vd 2) (v 4) .f16 .fk8b 0) 0x7BFF 0 = some 0x7F := by decide +kernel

/-- 04_number_formats.md: conversions of 0.3 (as f32 0x3E99999A), 300, 256 and 1000 into the fk8 formats. -/
theorem test_fk8 :
    let into (k : Fk8) (rm : RM) (x : Nat) : Nat × FFlags := let r := k.ofNum rm (fmt32.decode x); (r.bits, r.flags)
    into fk8a .rn 0x3E99999A = (0x32, flagNX) ∧ into fk8a .rz 0x3E99999A = (0x31, flagNX) ∧ into fk8a .ru 0xBE99999A = (0xB1, flagNX)
      ∧ into fk8a .rz 0x43960000 = (0x7F, flagOF ||| flagNX) ∧ into fk8a .rn 0x43800000 = (0x7F, flagOF ||| flagNX)
      ∧ into fk8b .rn 0x447A0000 = (0x68, flagNX) ∧ into fk8b .rn 0x7F800000 = (0x7F, flagNV) ∧ into fk8a .rn 0x7F800001 = (0x80, flagNV) := by
  decide +kernel

/-- A trap in a service thread: PC, cause and AUX saved, IT set, on at sr.tvec (R174, R177). -/
theorem test_service_trap :
    let s := svc.onService 0 fun x => { x with tvec := 0x8000 }
    (match exec (.trap 7) s with
      | .next t => some (t.service 0, (t.ctx (.service 0)).pc)
      | _ => none) = some (⟨0x8000, 0x20000000004, 0x8000000000070016, 0, false, false, [], []⟩, 0x8000) := by decide +kernel

/-- A misaligned load: cause 0x04 in the record of the group, with the lowest lane's address (R150, R180). -/
theorem test_misaligned :
    (match exec (.ld (vd 2) (v 8) 0 .n32) (at_ 0x1002) with
      | .next t => some ((t.group 0 0).faulted, bits (bytesNat (mgets 0x1000080 32 t.mem)) 63 56, bits (bytesNat (mgets 0x1000080 32 t.mem)) 191 128)
      | _ => none) = some (some [0], 0x04, 0x1002) := by decide +kernel

/-- A store drains: the four bytes stand in memory, little-endian (R148, R313). -/
theorem test_store :
    (match exec (.st (vd 2) (v 8) 0 .n32) (put (at_ 0x1000) 0 2 0x12345678) with
      | .next t => (match (t.cmem 0).ebb with
        | e :: _ => (match exec (.ebbDrain 0 e.seq) t with
          | .next u => some (mgets 0x10000 4 t.mem, mgets 0x10000 4 u.mem, (u.cmem 0).ebb)
          | _ => none)
        | [] => none)
      | _ => none) = some ([0, 0, 0, 0], [0x78, 0x56, 0x34, 0x12], []) := by decide +kernel

/-- Host memory behind the host address decoder: loads and stores pass, an atomic takes cause 0x06 with AUX[3] set, and next
to the range the address is unassigned, AUX[5] (R397, R434). -/
theorem test_host_memory :
    let s := { State.reset with fab := { Fabric.reset with hdec := [⟨0x50000000000, 0x1000, 1⟩] } }
    s.checkTarget true .read 0x50000000FFC = .ok 0x50000000FFC ∧ s.checkTarget true .write 0x50000000000 = .ok 0x50000000000
      ∧ s.checkTarget true .atomic 0x50000000000 = .fault { rank := 4, cause := 0x06, aux := 8 }
      ∧ s.checkTarget true .read 0x50000001000 = .fault { rank := 4, cause := 0x06, aux := 0x20 } := by decide +kernel

end Sys2Proof.Tests
end

section
/-! SUPPORT. Integer arithmetic, logic, packed arithmetic and their words (05_integer_instructions.md R112-R114, R121, R123;
02_instruction_formats.md R48). Each operation of the model is the number that the chapter gives; each word of format A
decodes by its major and its fields. -/
namespace Sys2Proof.Machine
open Sys2Proof

/-! ### Words of format A -/

section
variable (major d : BitVec 6) (a b : BitVec 7) (g : BitVec 2) (minor : BitVec 4)

@[simp] theorem fMajor_packA : fMajor (packA major d a b g minor) = major := by
  simp (disch := decide) only [fMajor, packA, BitVec.extractLsb'_append_eq_of_le, Nat.reduceSub, BitVec.extractLsb'_eq_self]

@[simp] theorem fD_packA : fD (packA major d a b g minor) = d := by
  simp (disch := decide) only [fD, packA, BitVec.extractLsb'_append_eq_of_le, BitVec.extractLsb'_append_eq_of_add_le,
    Nat.reduceSub, BitVec.extractLsb'_eq_self]

@[simp] theorem fA_packA : fA (packA major d a b g minor) = a := by
  simp (disch := decide) only [fA, packA, BitVec.extractLsb'_append_eq_of_le, BitVec.extractLsb'_append_eq_of_add_le,
    Nat.reduceSub, BitVec.extractLsb'_eq_self]

@[simp] theorem fB_packA : fB (packA major d a b g minor) = b := by
  simp (disch := decide) only [fB, packA, BitVec.extractLsb'_append_eq_of_le, BitVec.extractLsb'_append_eq_of_add_le,
    Nat.reduceSub, BitVec.extractLsb'_eq_self]

@[simp] theorem fG_packA : fG (packA major d a b g minor) = g := by
  simp (disch := decide) only [fG, packA, BitVec.extractLsb'_append_eq_of_le, BitVec.extractLsb'_append_eq_of_add_le,
    Nat.reduceSub, BitVec.extractLsb'_eq_self]

@[simp] theorem fMinor_packA : fMinor (packA major d a b g minor) = minor := by
  simp (disch := decide) only [fMinor, packA, BitVec.extractLsb'_append_eq_of_add_le, BitVec.extractLsb'_eq_self]

/-- R50, the class as the highest bit of the field. -/
theorem dest_ofBits_msb : Dest.ofBits d = ⟨d.msb, d.extractLsb' 0 5⟩ := by
  rw [BitVec.msb_eq_getLsbD_last]; rfl

/-- R51, the class as the highest bit of the field. -/
theorem src_ofBits_msb : Src.ofBits a = ⟨a.msb, a.getLsbD 5, a.extractLsb' 0 5⟩ := by
  rw [BitVec.msb_eq_getLsbD_last]; rfl

variable (u : Bool)

theorem decode_packA_major01 : decode u (packA 0x01 d a b g minor) = decode01 (packA 0x01 d a b g minor) := by
  unfold decode; rw [fMajor_packA]; rfl

theorem decode_packA_major02 : decode u (packA 0x02 d a b g minor) = decode02 (packA 0x02 d a b g minor) := by
  unfold decode; rw [fMajor_packA]; rfl

theorem decode_packA_major06 : decode u (packA 0x06 d a b g minor) = decode06 (packA 0x06 d a b g minor) := by
  unfold decode; rw [fMajor_packA]; rfl

theorem decode_packA_major07 : decode u (packA 0x07 d a b g minor) = decode07 (packA 0x07 d a b g minor) := by
  unfold decode; rw [fMajor_packA]; rfl

end

/-! ### Operations as the numbers they give -/

section
variable {w : Nat} (x y : BitVec w)

theorem mul_eq_ofNat_toNat : x * y = BitVec.ofNat w (x.toNat * y.toNat) := by
  rw [BitVec.ofNat_mul, BitVec.ofNat_toNat, BitVec.ofNat_toNat, BitVec.setWidth_eq, BitVec.setWidth_eq]

theorem sub_eq_ofInt_toNat : x - y = BitVec.ofInt w ((x.toNat : Int) - y.toNat) := by
  rw [Int.sub_eq_add_neg, BitVec.ofInt_add, BitVec.ofInt_neg, BitVec.ofInt_natCast, BitVec.ofInt_natCast,
    BitVec.ofNat_toNat, BitVec.ofNat_toNat, BitVec.setWidth_eq, BitVec.setWidth_eq, BitVec.sub_eq_add_neg]

theorem add_eq_ofInt_toInt : x + y = BitVec.ofInt w (x.toInt + y.toInt) := by
  rw [BitVec.ofInt_add, BitVec.ofInt_toInt, BitVec.ofInt_toInt]

theorem neg_eq_ofInt_toInt : -x = BitVec.ofInt w (-x.toInt) := by
  rw [BitVec.ofInt_neg, BitVec.ofInt_toInt]

theorem sub_eq_ofInt_toInt : x - y = BitVec.ofInt w (x.toInt - y.toInt) := by
  rw [Int.sub_eq_add_neg, BitVec.ofInt_add, ← neg_eq_ofInt_toInt, BitVec.ofInt_toInt, BitVec.sub_eq_add_neg]

theorem minE_eq_ofInt : minE x y = BitVec.ofInt w (min x.toInt y.toInt) := by
  simp only [minE, BitVec.slt_iff_toInt_lt]
  split
  · rw [show min x.toInt y.toInt = x.toInt by omega, BitVec.ofInt_toInt]
  · rw [show min x.toInt y.toInt = y.toInt by omega, BitVec.ofInt_toInt]

theorem maxE_eq_ofInt : maxE x y = BitVec.ofInt w (max x.toInt y.toInt) := by
  simp only [maxE, BitVec.slt_iff_toInt_lt]
  split
  · rw [show max x.toInt y.toInt = y.toInt by omega, BitVec.ofInt_toInt]
  · rw [show max x.toInt y.toInt = x.toInt by omega, BitVec.ofInt_toInt]

/-- A logical shift right by any count, those of the width and above included. -/
theorem ushiftRight_eq_ofNat (n : Nat) : x >>> n = BitVec.ofNat w (x.toNat / 2 ^ n) := by
  apply BitVec.eq_of_toNat_eq
  rw [BitVec.toNat_ushiftRight, BitVec.toNat_ofNat, Nat.shiftRight_eq_div_pow,
    Nat.mod_eq_of_lt (Nat.lt_of_le_of_lt (Nat.div_le_self _ _) x.isLt)]

/-- An arithmetic shift right by any count, those of the width and above included. -/
theorem sshiftRight_eq_ofInt (n : Nat) : x.sshiftRight n = BitVec.ofInt w (x.toInt / 2 ^ n) := by
  have h : (x.sshiftRight n).toInt = x.toInt / 2 ^ n := by
    rw [BitVec.toInt_sshiftRight, Int.shiftRight_eq_div_pow]
    exact congrArg (x.toInt / ·) (Int.natCast_pow 2 n)
  rw [← h, BitVec.ofInt_toInt]

/-- A count above the width shifts in no more than the sign. -/
theorem sshiftRight_min (n : Nat) : x.sshiftRight (Nat.min n w) = x.sshiftRight n := by
  rcases Nat.le_total n w with h | h
  · rw [show Nat.min n w = n from Nat.min_eq_left h]
  · rw [show Nat.min n w = w from Nat.min_eq_right h]
    ext i hi
    rw [BitVec.getElem_sshiftRight, BitVec.getElem_sshiftRight, dif_neg (by omega), dif_neg (by omega)]

end

theorem absW_eq_ofInt (x : Word) : absW x = BitVec.ofInt 32 x.toInt.natAbs := by
  unfold absW
  split <;> rename_i h <;> simp only [BitVec.slt_iff_toInt_lt, BitVec.ofNat_eq_ofNat, BitVec.toInt_zero] at h
  · rw [Int.ofNat_natAbs_of_nonpos (Int.le_of_lt h), neg_eq_ofInt_toInt]
  · rw [Int.natAbs_of_nonneg (Int.not_lt.mp h), BitVec.ofInt_toInt]

theorem minNW_eq_ofNat (x y : Word) : minNW x y = BitVec.ofNat 32 (min x.toNat y.toNat) := by
  simp only [minNW, BitVec.lt_def]
  split
  · rw [show min x.toNat y.toNat = x.toNat by omega, BitVec.ofNat_toNat, BitVec.setWidth_eq]
  · rw [show min x.toNat y.toNat = y.toNat by omega, BitVec.ofNat_toNat, BitVec.setWidth_eq]

theorem maxNW_eq_ofNat (x y : Word) : maxNW x y = BitVec.ofNat 32 (max x.toNat y.toNat) := by
  simp only [maxNW, BitVec.lt_def]
  split
  · rw [show max x.toNat y.toNat = y.toNat by omega, BitVec.ofNat_toNat, BitVec.setWidth_eq]
  · rw [show max x.toNat y.toNat = x.toNat by omega, BitVec.ofNat_toNat, BitVec.setWidth_eq]

/-- An exact integer clamped to a range as a word, with whether the clamp changed it (R102). -/
def clampW (lo hi x : Int) : Word × Bool := (BitVec.ofInt 32 (max lo (min hi x)), decide (max lo (min hi x) ≠ x))

theorem satI32_eq_clampW (x : Int) : satI32 x = clampW (-2 ^ 31) (2 ^ 31 - 1) x := by
  unfold satI32 clampW
  split
  · rw [show max (-2 ^ 31) (min (2 ^ 31 - 1) x) = -2 ^ 31 by omega, decide_eq_true (by omega)]; rfl
  · split
    · rw [show max (-2 ^ 31) (min (2 ^ 31 - 1) x) = 2 ^ 31 - 1 by omega, decide_eq_true (by omega)]; rfl
    · rw [show max (-2 ^ 31) (min (2 ^ 31 - 1) x) = x by omega, decide_eq_false (by omega)]

theorem satN32_eq_clampW (x : Int) : satN32 x = clampW 0 (2 ^ 32 - 1) x := by
  unfold satN32 clampW
  split
  · rw [show max 0 (min (2 ^ 32 - 1) x) = 0 by omega, decide_eq_true (by omega)]; rfl
  · split
    · rw [show max 0 (min (2 ^ 32 - 1) x) = 2 ^ 32 - 1 by omega, decide_eq_true (by omega)]; rfl
    · rw [show max 0 (min (2 ^ 32 - 1) x) = x by omega, decide_eq_false (by omega)]

/-- A count of 64 or more leaves nothing, as a multiple of 2^64 leaves nothing (R121). -/
theorem shl64_eq_ofNat (x : DWord) (n : Nat) : (if 64 ≤ n then 0 else x <<< n) = BitVec.ofNat 64 (x.toNat * 2 ^ n) := by
  apply BitVec.eq_of_toNat_eq
  split <;> rename_i h
  · obtain ⟨k, rfl⟩ := Nat.exists_eq_add_of_le h
    rw [BitVec.toNat_ofNat, Nat.pow_add, Nat.mul_left_comm, Nat.mul_mod_right]
    rfl
  · rw [BitVec.toNat_shiftLeft, BitVec.toNat_ofNat, Nat.shiftLeft_eq]

theorem shr64_eq_ofNat (x : DWord) (n : Nat) : (if 64 ≤ n then 0 else x >>> n) = BitVec.ofNat 64 (x.toNat / 2 ^ n) := by
  rw [← ushiftRight_eq_ofNat]
  split <;> rename_i h
  · exact (BitVec.ushiftRight_eq_zero h).symm
  · rfl

theorem sar64_eq_ofInt (x : DWord) (n : Nat) : x.sshiftRight (Nat.min n 64) = BitVec.ofInt 64 (x.toInt / 2 ^ n) :=
  (sshiftRight_min x n).trans (sshiftRight_eq_ofInt x n)

/-- An unsigned base and a signed offset (R121). -/
theorem add_signExtend_eq_ofInt (x : DWord) (y : Word) : x + y.signExtend 64 = BitVec.ofInt 64 ((x.toNat : Int) + y.toInt) := by
  rw [BitVec.ofInt_add, BitVec.ofInt_natCast, BitVec.ofNat_toNat, BitVec.setWidth_eq]
  rfl

/-! ### The shapes of instruction compute -/

section
variable {i : Instr} {s : State} {d : Dest} {a b : Src} {g : PredIx}

theorem computes_alu1 {f f' : Word → Word} (he : exec i s = s.alu1 d a g f) (hf : ∀ x, f x = f' x) :
    Computes i s (formA g d false [r32 a]) (word1 f') := by
  obtain rfl : f = f' := funext hf
  exact computes_of he fun _ _ => rfl

theorem computes_alu2 {f f' : Word → Word → Word} (he : exec i s = s.alu2 d a b g f) (hf : ∀ x y, f x y = f' x y) :
    Computes i s (formA g d false [r32 a, r32 b]) (word2 f') := by
  obtain rfl : f = f' := funext fun x => funext (hf x)
  exact computes_of he fun _ _ => rfl

theorem computes_aluSat {f : Word → Word → Word × Bool} {lo hi : Int} {exact_ : Word → Word → Int}
    (he : exec i s = s.aluSat d a b g f) (hf : ∀ x y, f x y = clampW lo hi (exact_ x y)) :
    Computes i s (formA g d false [r32 a, r32 b]) (clamped lo hi exact_) := by
  obtain rfl : f = fun x y => clampW lo hi (exact_ x y) := funext fun x => funext (hf x)
  exact computes_of he fun _ _ => rfl

theorem computes_alu64 {f f' : DWord → DWord → DWord} (he : exec i s = s.alu64 d a b g f) (hf : ∀ x y, f x y = f' x y) :
    Computes i s (formA g d true [r64 a, r64 b]) (long2 f') := by
  obtain rfl : f = f' := funext fun x => funext (hf x)
  exact computes_of he fun _ _ => rfl

theorem computes_alu64c {f f' : DWord → Word → DWord} (he : exec i s = s.alu64c d a b g f) (hf : ∀ x y, f x y = f' x y) :
    Computes i s (formA g d true [r64 a, r32 b]) (longWord f') := by
  obtain rfl : f = f' := funext fun x => funext (hf x)
  exact computes_of he fun _ _ => rfl

/-- A packed operation that is an integer operation on each half. -/
theorem computes_perHalf (op : Int → Int → Int) {f : BitVec 16 → BitVec 16 → BitVec 16}
    (he : exec i s = s.packed d a b g (perHalf f)) (hf : ∀ x y, f x y = BitVec.ofInt 16 (op x.toInt y.toInt)) :
    Computes i s { formA g d false [r32 a, r32 b] with headland := false } (word2 fun x y => ofHalves fun k =>
      BitVec.ofInt 16 (op (x.extractLsb' (16 * k) 16).toInt (y.extractLsb' (16 * k) 16).toInt)) := by
  obtain rfl : f = fun x y => BitVec.ofInt 16 (op x.toInt y.toInt) := funext fun x => funext (hf x)
  exact computes_of he fun _ _ => rfl

/-- A packed operation that is an integer operation on each byte. -/
theorem computes_perByte (op : Int → Int → Int) {f : BitVec 8 → BitVec 8 → BitVec 8}
    (he : exec i s = s.packed d a b g (perByte f)) (hf : ∀ x y, f x y = BitVec.ofInt 8 (op x.toInt y.toInt)) :
    Computes i s { formA g d false [r32 a, r32 b] with headland := false } (word2 fun x y => ofFour fun k =>
      BitVec.ofInt 8 (op (byteAt x k).toInt (byteAt y k).toInt)) := by
  obtain rfl : f = fun x y => BitVec.ofInt 8 (op x.toInt y.toInt) := funext fun x => funext (hf x)
  exact computes_of he fun _ _ => rfl

end

/-! ### The statements

`.refl (execX …)` names the meaning of the instruction, of which its shape and its operation are read off. The decoder and a
statement have matches of their own on the minor, which `rfl` identifies where they are not one. -/

/-- Settles O1: each instruction is its shape with an operation that gives the number of R112-R114, and a word of major 0x01
or 0x02 decodes by its fields. -/
theorem integerArithmeticAndLogic : Obligations.IntegerArithmeticAndLogic := by
  unfold Obligations.IntegerArithmeticAndLogic
  refine ⟨fun s d a b g => ?arith, fun s d a b g => ?logic, fun u d a b g m => ⟨?words01, ?words02⟩⟩
  case arith =>
    refine ⟨?add, ?addc, ?sub, ?subb, ?neg, ?abs, ?min, ?minN, ?max, ?maxN, ?addsat, ?addsatN, ?subsat, ?subsatN⟩
    case add => exact computes_alu2 (.refl (execAdd d a b g s)) BitVec.add_def
    case addc => exact computes_alu2 (.refl (execAddc d a b g s)) fun _ _ => rfl
    case sub => exact computes_alu2 (.refl (execSub d a b g s)) sub_eq_ofInt_toNat
    case subb => exact computes_alu2 (.refl (execSubb d a b g s)) fun _ _ => rfl
    case neg => exact computes_alu1 (.refl (execNeg d a g s)) neg_eq_ofInt_toInt
    case abs => exact computes_alu1 (.refl (execAbs d a g s)) absW_eq_ofInt
    case min => exact computes_alu2 (.refl (execMin d a b g s)) minE_eq_ofInt
    case minN => exact computes_alu2 (.refl (execMinN d a b g s)) minNW_eq_ofNat
    case max => exact computes_alu2 (.refl (execMax d a b g s)) maxE_eq_ofInt
    case maxN => exact computes_alu2 (.refl (execMaxN d a b g s)) maxNW_eq_ofNat
    case addsat => exact computes_aluSat (.refl (execAddsat d a b g s)) fun _ _ => satI32_eq_clampW _
    case addsatN => exact computes_aluSat (.refl (execAddsatN d a b g s)) fun _ _ => satN32_eq_clampW _
    case subsat => exact computes_aluSat (.refl (execSubsat d a b g s)) fun _ _ => satI32_eq_clampW _
    case subsatN => exact computes_aluSat (.refl (execSubsatN d a b g s)) fun _ _ => satN32_eq_clampW _
  case logic =>
    refine ⟨?and, ?or, ?xor, ?not, ?andn, ?sel, ?mov⟩
    case and => exact computes_alu2 (.refl (execAnd d a b g s)) fun _ _ => rfl
    case or => exact computes_alu2 (.refl (execOr d a b g s)) fun _ _ => rfl
    case xor => exact computes_alu2 (.refl (execXor d a b g s)) fun _ _ => rfl
    case not => exact computes_alu1 (.refl (execNot d a g s)) fun _ => rfl
    case andn => exact computes_alu2 (.refl (execAndn d a b g s)) fun _ _ => rfl
    case sel => exact computes_of (.refl (execSel d a b g s)) fun _ _ => rfl
    case mov => exact computes_alu1 (.refl (execMov d a g s)) fun _ => rfl
  case words01 =>
    refine (decode_packA_major01 d a b g m u).trans ?_
    simp only [decode01, fMinor_packA, fD_packA, fA_packA, fB_packA, fG_packA, dest_ofBits_msb, src_ofBits_msb] <;> rfl
  case words02 =>
    refine (decode_packA_major02 d a b g m u).trans ?_
    simp only [decode02, fMinor_packA, fD_packA, fA_packA, fB_packA, fG_packA, dest_ofBits_msb, src_ofBits_msb] <;> rfl

/-- Settles O5: each instruction is its shape with an operation that gives the number of R121 or, element by element, of
R123, and a word of major 0x06 or 0x07 decodes by its fields. -/
theorem longAndPackedArithmetic : Obligations.LongAndPackedArithmetic := by
  unfold Obligations.LongAndPackedArithmetic
  refine ⟨fun s d a b g => ?long, fun s d a b g => ?packed, fun u d a b g m => ⟨?words06, ?words07⟩⟩
  case long =>
    refine ⟨?add64, ?sub64, ?mul64, ?shl64, ?shr64, ?sar64, ?lea⟩
    case add64 => exact computes_alu64 (.refl (execAdd64 d a b g s)) BitVec.add_def
    case sub64 => exact computes_alu64 (.refl (execSub64 d a b g s)) sub_eq_ofInt_toNat
    case mul64 => exact computes_alu64 (.refl (execMul64 d a b g s)) mul_eq_ofNat_toNat
    case shl64 => exact computes_alu64c (.refl (execShl64 d a b g s)) fun x c => shl64_eq_ofNat x c.toNat
    case shr64 => exact computes_alu64c (.refl (execShr64 d a b g s)) fun x c => shr64_eq_ofNat x c.toNat
    case sar64 => exact computes_alu64c (.refl (execSar64 d a b g s)) fun x c => sar64_eq_ofInt x c.toNat
    case lea => exact computes_alu64c (.refl (execLea d a b g s)) add_signExtend_eq_ofInt
  case packed =>
    refine ⟨?paddI16x2, ?psubI16x2, ?pminI16x2, ?pmaxI16x2, ?paddI8x4, ?psubI8x4, ?pminI8x4, ?pmaxI8x4⟩
    case paddI16x2 => exact computes_perHalf (· + ·) (.refl (execPaddI16x2 d a b g s)) add_eq_ofInt_toInt
    case psubI16x2 => exact computes_perHalf (· - ·) (.refl (execPsubI16x2 d a b g s)) sub_eq_ofInt_toInt
    case pminI16x2 => exact computes_perHalf min (.refl (execPminI16x2 d a b g s)) minE_eq_ofInt
    case pmaxI16x2 => exact computes_perHalf max (.refl (execPmaxI16x2 d a b g s)) maxE_eq_ofInt
    case paddI8x4 => exact computes_perByte (· + ·) (.refl (execPaddI8x4 d a b g s)) add_eq_ofInt_toInt
    case psubI8x4 => exact computes_perByte (· - ·) (.refl (execPsubI8x4 d a b g s)) sub_eq_ofInt_toInt
    case pminI8x4 => exact computes_perByte min (.refl (execPminI8x4 d a b g s)) minE_eq_ofInt
    case pmaxI8x4 => exact computes_perByte max (.refl (execPmaxI8x4 d a b g s)) maxE_eq_ofInt
  case words06 =>
    refine (decode_packA_major06 d a b g m u).trans ?_
    simp only [decode06, fMinor_packA, fD_packA, fA_packA, fB_packA, fG_packA, dest_ofBits_msb, src_ofBits_msb] <;> rfl
  case words07 =>
    refine (decode_packA_major07 d a b g m u).trans ?_
    simp only [decode07, fMinor_packA, fD_packA, fA_packA, fB_packA, fG_packA, dest_ofBits_msb, src_ofBits_msb] <;> rfl

end Sys2Proof.Machine
end
